-- ==== Sys2Proof/Word.lean ====
section
/-! DEFINITION. The word types of the JX-840 and their plainest arithmetic (spec/00 R4, R8). -/

namespace Sys2Proof

/-- A 64-bit word: an s-register, or one lane of a v-register (R23, R24). -/
abbrev Word := BitVec 64
/-- A 32-bit word: an instruction word, a lane mask, an accumulator (R38, R93, R204). -/
abbrev W32 := BitVec 32
/-- A byte of memory (R4). -/
abbrev Byte := BitVec 8
/-- Bytes at addresses, in canonical form (Memory.wf): addresses strictly rising, no zero byte listed. -/
abbrev Memory := List (Nat × BitVec 8)
/-- A sparse table: a key that is not listed holds the table's default value. -/
abbrev Tab (α : Type) := List (Nat × α)

end Sys2Proof
end

