-- ==== Sys2Proof/Machine/Bits.lean ====
section
/-! DEFINITION. Sub-elements, sign extension, byte order and bit slices (spec/00 R4, R8, R9). -/

namespace Sys2Proof

/-- `elem(x, w, k)` (R8): sub-element k of width w of a 64-bit value. -/
def elem (x : Word) (w k : Nat) : Nat := (x.toNat >>> (k * w)) % 2 ^ w

/-- The 64-bit value x with sub-element k of width w replaced by the low w bits of e (R8, R9). -/
def setElem (x : Word) (w k e : Nat) : Word :=
  (x &&& ~~~(BitVec.ofNat 64 ((2 ^ w - 1) <<< (k * w)))) ||| BitVec.ofNat 64 ((e % 2 ^ w) <<< (k * w))

/-- `sext(x, w)` (R8) of the low w bits of x, as an integer. -/
def sextNat (x w : Nat) : Int :=
  if x % 2 ^ w < 2 ^ (w - 1) then (x % 2 ^ w : Int) else (x % 2 ^ w : Int) - (2 ^ w : Int)

/-- The low 64 bits of an integer. -/
def wordOfInt (i : Int) : Word := BitVec.ofInt 64 i

/-- The little-endian value of a byte string (R4). -/
def leNat : List Byte → Nat
  | [] => 0
  | b :: bs => b.toNat + 256 * leNat bs

/-- The n bytes of a value, least significant first (R4). -/
def leBytes (v : Nat) : Nat → List Byte
  | 0 => []
  | n + 1 => BitVec.ofNat 8 v :: leBytes (v / 256) n

/-- The slice `x[h:l]` of a number (R8). -/
def bits (x h l : Nat) : Nat := (x >>> l) % 2 ^ (h + 1 - l)

/-- x rounded up to a multiple of m (m positive). -/
def roundUp (x m : Nat) : Nat := (x + m - 1) / m * m

end Sys2Proof
end

