-- ==== Sys2Proof/Syntax.lean ====
section
/-! DEFINITION. Syntax: one constructor of Instr for each row of spec/opcode_table.json. The 165 rows of
instruction words carry the fields of the word (spec/02 R38, R45); the 100 rows of device steps, which have
no encoding (spec/95), carry operands of the model's own that say which unit, launch or address the step
concerns (log 18). -/

namespace Sys2Proof

/-- Bits 31 to 26 of an instruction word (R38): chain, reuse, guard negate, guard predicate. -/
structure Hdr where
  c : Bool
  u : Bool
  n : Bool
  p : BitVec 3
  deriving DecidableEq, Repr

/-- The four rings of a partition page whose size a host writes (R368). -/
inductive RingKind where
  | completion | event | control | admin
  deriving DecidableEq, Repr

/-- The two units of the matrix engine's tile queue (R204, R216). -/
inductive TileUnit where
  | stream | load
  deriving DecidableEq, Repr

/-- The unit that applies an atomic batch (R292): a home slice, for this device or for an access of a domain group from
another one (R374), or the scratchpad bank of a block. -/
inductive AtomUnit where
  | home
  | inbound (group : Nat)
  | bank (block : Nat)
  deriving DecidableEq, Repr

/-- Who sends a release record (R285): a core of this device, or one of another device, with the domain group that its
accesses carry (R374). -/
inductive Sender where
  | own (core : Nat)
  | inbound (group core : Nat)
  deriving DecidableEq, Repr

/-- A link that can lose lanes (R414): link 0 to 2 of a stack (R15), or domain link 0 to 11. -/
inductive LinkId where
  | dieToDie (stack link : Nat)
  | domain (link : Nat)
  deriving DecidableEq, Repr

/-- The link exists: three die-to-die links at each of the four cache dies, and 12 domain links (R11, R15). -/
def LinkId.ok : LinkId → Bool
  | .dieToDie k l => decide (k < 4) && decide (l < 3)
  | .domain l => decide (l < 12)

/-- The path of a flit whose CRC failed (R403, R406); a mesh flit may belong to a cluster's traffic. -/
inductive FlitPath where
  | mesh (stack router layer port : Nat) (traffic : Option Nat)
  | dieToDie (stack link : Nat)
  | domain (link : Nat)
  deriving DecidableEq, Repr

/-- How many lanes the link has (R15, R373). -/
def LinkId.lanes : LinkId → Nat
  | .dieToDie _ _ => 64
  | .domain _ => 16

/-- The path exists: a port of a router of a stack's 4 × 4 × 2 mesh, the traffic that of one of the 64 clusters, or a link
(R11, R13, R405). -/
def FlitPath.ok : FlitPath → Bool
  | .mesh k r layer port t =>
    decide (k < 4) && decide (r < 16) && decide (layer < 2) && decide (port < 16) && t.all fun u => decide (u < 64)
  | .dieToDie k l => (LinkId.dieToDie k l).ok
  | .domain l => (LinkId.domain l).ok

/-- Transfers of a flit, the first included: at most 6, and 5 on the mesh (R405, R406). -/
def FlitPath.transfers : FlitPath → Nat
  | .mesh _ _ _ _ _ => 5
  | _ => 6

/-- What the controller finds when a DRAM burst completes (R403, R406). -/
inductive DramOutcome where
  | clean
  | corrected (chunk syndrome : Nat)
  | uncorrectable (chunk syndrome : Nat)
  | busFailed (lane : Nat)
  deriving DecidableEq, Repr

/-- The steps of the part: every row of spec/opcode_table.json, in the table's order, but for the steps that only
the outside world brings about, which stand last. -/
inductive Instr where
  /-- NOP (R51): The all-zero word does nothing and uses no pipe. -/
  | nop (c : Bool)
  /-- IMX (R49): Prefix that widens the immediate, carries the byte offset or carries the atomic attributes of the next
  word in its packet. -/
  | imx (x : BitVec 18)
  /-- BRA (R96): Per-lane branch to a packet offset, splitting the slot on divergence. -/
  | bra (h : Hdr) (o : BitVec 18)
  /-- BRX (R100): Per-lane branch to the packet held in S[a]. -/
  | brx (h : Hdr) (a : BitVec 6)
  /-- CALL (R100): Writes the next packet index to lk and moves the whole slot to the target. -/
  | call (h : Hdr) (o : BitVec 18)
  /-- RET (R100): Moves the whole slot to the packet held in lk. -/
  | ret (h : Hdr)
  /-- RCV (R98): Opens a reconvergence region, parking the other slot and pushing a FRAME. -/
  | rcv (c : Bool) (o : BitVec 18)
  /-- JOIN (R98): Closes the region at its reconvergence packet, merging the arrived lanes when all have arrived. -/
  | join (c : Bool)
  /-- EXIT (R101): Per-lane exit: the guarded lanes leave, the warp ends when all lanes have exited. -/
  | exit (h : Hdr)
  /-- TRAP (R384): Traps SOFTWARE with code S[a] + n. -/
  | trap (h : Hdr) (a i : BitVec 6)
  /-- BRK (R384): Traps BREAK with code n. -/
  | brk (h : Hdr) (i : BitVec 6)
  /-- YIELD (R102): Removes the warp from candidacy until every other ready warp has issued or 64 cycles pass. -/
  | yield (h : Hdr)
  /-- LOOP (R100): Decrements S[d] and transfers the slot to the target while it is nonzero. -/
  | loop (h : Hdr) (d i : BitVec 6)
  /-- SLEEP (R102): The warp issues nothing for S[a] + n local cycles. -/
  | sleep (h : Hdr) (a i : BitVec 6)
  /-- HINT_PROMOTE (R103): Raises the warp's class 4 promotion trigger. -/
  | hintPromote (h : Hdr)
  /-- HINT_DEMOTE (R103): Ends the warp's class 4 promotion trigger. -/
  | hintDemote (h : Hdr)
  /-- NPR_OFF (R104): Leaves the span in which the warp is not pre-empted. -/
  | nprOff (h : Hdr)
  /-- NPR_ON (R104): Enters a non-pre-emptible span and starts its count. -/
  | nprOn (h : Hdr)
  /-- SREG (R105): Reads the special register numbered S[a] + num into S[d]. -/
  | sreg (h : Hdr) (d a i : BitVec 6)
  /-- SREGW (R105): Writes S[d] to the special register numbered S[a] + num. -/
  | sregw (h : Hdr) (d a i : BitVec 6)
  /-- SETNF_CODE (R106): Loads a standard number-format descriptor by code into an nf register. -/
  | setnfCode (h : Hdr) (f : BitVec 2) (i : BitVec 6)
  /-- SETNF_REG (R106): Loads an nf register from S[a], trapping FORMAT on an invalid descriptor. -/
  | setnfReg (h : Hdr) (f : BitVec 2) (a : BitVec 6)
  /-- POST (R91): Posts a job card to a region queue, or takes one from the own queue. -/
  | post (h : Hdr) (e f g : BitVec 6)
  /-- ICINV (R107): Drops the context's packets in a byte range from every core's instruction cache. -/
  | icinv (h : Hdr) (a b : BitVec 6)
  /-- IFENCE (R107): Discards the warp's unissued fetched packets and refetches after earlier icinv completes. -/
  | ifence (h : Hdr)
  /-- STOP (R384): After its packet, stops the block for a debugger or traps BREAK with code 0. -/
  | stop (h : Hdr)
  /-- SVC (R384): After its packet, traps SVC with service number S[a] + n. -/
  | svc (h : Hdr) (a i : BitVec 6)
  /-- SADD (R168): Scalar add modulo 2^64. -/
  | sadd (h : Hdr) (d a b : BitVec 6)
  /-- SSUB (R168): Scalar subtract modulo 2^64. -/
  | ssub (h : Hdr) (d a b : BitVec 6)
  /-- SMUL (R168): Low 64 bits of the scalar product. -/
  | smul (h : Hdr) (d a b : BitVec 6)
  /-- SMULH (R168): High 64 bits of the unsigned 128-bit scalar product. -/
  | smulh (h : Hdr) (d a b : BitVec 6)
  /-- SDIVU (R168): Unsigned scalar division, all ones on a zero divisor. -/
  | sdivu (h : Hdr) (d a b : BitVec 6)
  /-- SREMU (R168): Unsigned scalar remainder, S[a] on a zero divisor. -/
  | sremu (h : Hdr) (d a b : BitVec 6)
  /-- SAND (R168): Scalar bitwise AND. -/
  | sand (h : Hdr) (d a b : BitVec 6)
  /-- SOR (R168): Scalar bitwise OR. -/
  | sor (h : Hdr) (d a b : BitVec 6)
  /-- SXOR (R168): Scalar bitwise exclusive OR. -/
  | sxor (h : Hdr) (d a b : BitVec 6)
  /-- SSHL (R168): Scalar shift left, zero for counts of 64 or more. -/
  | sshl (h : Hdr) (d a b : BitVec 6)
  /-- SSHR (R168): Scalar logical shift right, zero for counts of 64 or more. -/
  | sshr (h : Hdr) (d a b : BitVec 6)
  /-- SSAR (R168): Scalar arithmetic shift right by min(S[b], 63). -/
  | ssar (h : Hdr) (d a b : BitVec 6)
  /-- SADDI (R169): Adds a sign-extended immediate to S[a]. -/
  | saddi (h : Hdr) (d a i : BitVec 6)
  /-- SMOVI (R169): Loads a sign-extended immediate into S[d]. -/
  | smovi (h : Hdr) (d i : BitVec 6)
  /-- SMOV (R168): Copies S[a] to S[d]. -/
  | smov (h : Hdr) (d a : BitVec 6)
  /-- SCMP (R170): Compares two s-registers and writes a predicate for the slot's lanes. -/
  | scmp (h : Hdr) (d q : BitVec 3) (a b : BitVec 6)
  /-- SCMPI (R170): Compares an s-register with an immediate and writes a predicate for the slot's lanes. -/
  | scmpi (h : Hdr) (d q : BitVec 3) (a i : BitVec 6)
  /-- SSEL (R171): Selects S[a] or S[b] by the guard of the lowest lane of the slot's mask. -/
  | ssel (h : Hdr) (d a b : BitVec 6)
  /-- SMIN (R168): Signed scalar minimum. -/
  | smin (h : Hdr) (d a b : BitVec 6)
  /-- SMAX (R168): Signed scalar maximum. -/
  | smax (h : Hdr) (d a b : BitVec 6)
  /-- SCLZ (R168): Counts leading zero bits of S[a]. -/
  | sclz (h : Hdr) (d a : BitVec 6)
  /-- SPOPC (R168): Counts set bits of S[a]. -/
  | spopc (h : Hdr) (d a : BitVec 6)
  /-- SLEA (R168): Computes S[a] + 8 × S[b]. -/
  | slea (h : Hdr) (d a b : BitVec 6)
  /-- SGET (R171): Reads v-register a of lane S[b] into S[d], trapping BOUNDS beyond lane 31. -/
  | sget (h : Hdr) (d a b : BitVec 6)
  /-- SBC (R171): Broadcasts S[a] into v-register d of every active lane. -/
  | sbc (h : Hdr) (d a : BitVec 6)
  /-- SMASK (R169): Keeps the low w bits of S[a]. -/
  | smask (h : Hdr) (d a i : BitVec 6)
  /-- SPRED_TO_S (R171): Packs a predicate's lane bits into an s-register. -/
  | spredToS (h : Hdr) (d : BitVec 6) (a : BitVec 3)
  /-- SPRED_TO_P (R171): Writes an s-register's low bits into a predicate for the slot's lanes. -/
  | spredToP (h : Hdr) (d : BitVec 3) (a : BitVec 6)
  /-- SLD (R172): Loads one 8-byte global word into an s-register. -/
  | sld (h : Hdr) (d x : BitVec 6) (k : BitVec 3)
  /-- SST (R172): Stores an s-register as one 8-byte global word. -/
  | sst (h : Hdr) (d x : BitVec 6) (k : BitVec 3)
  /-- BUFLD (R173): Reads one word of the launch's buffer pool into an s-register. -/
  | bufld (h : Hdr) (d a i : BitVec 6)
  /-- ADD (R176): Typed element-wise add, rounded once under the nf descriptor. -/
  | vadd (h : Hdr) (f : BitVec 2) (d a b : BitVec 6)
  /-- SUB (R176): Typed element-wise subtract. -/
  | vsub (h : Hdr) (f : BitVec 2) (d a b : BitVec 6)
  /-- MUL (R176): Typed element-wise multiply. -/
  | vmul (h : Hdr) (f : BitVec 2) (d a b : BitVec 6)
  /-- FMA (R176): Typed fused multiply-add into the destination with one rounding. -/
  | vfma (h : Hdr) (f : BitVec 2) (d a b : BitVec 6)
  /-- MIN (R177): Typed element-wise minimum. -/
  | vmin (h : Hdr) (f : BitVec 2) (d a b : BitVec 6)
  /-- MAX (R177): Typed element-wise maximum. -/
  | vmax (h : Hdr) (f : BitVec 2) (d a b : BitVec 6)
  /-- CMP (R181): Compares sub-element 0 of two registers and writes a predicate. -/
  | vcmp (h : Hdr) (f : BitVec 2) (d q : BitVec 3) (a b : BitVec 6)
  /-- ABS (R178): Typed element-wise absolute value. -/
  | vabs (h : Hdr) (f : BitVec 2) (d a : BitVec 6)
  /-- NEG (R178): Typed element-wise negation. -/
  | vneg (h : Hdr) (f : BitVec 2) (d a : BitVec 6)
  /-- MULH (R179): High half of the exact integer product. -/
  | vmulh (h : Hdr) (f : BitVec 2) (d a b : BitVec 6)
  /-- AMIN (R177): Minimum of the destination and the sum of the sources. -/
  | vamin (h : Hdr) (f : BitVec 2) (d a b : BitVec 6)
  /-- AMAX (R177): Maximum of the destination and the sum of the sources. -/
  | vamax (h : Hdr) (f : BitVec 2) (d a b : BitVec 6)
  /-- DP4 (R180): Sums four 8-bit products into each 32-bit half of the destination. -/
  | vdp4 (h : Hdr) (f : BitVec 2) (d a b : BitVec 6)
  /-- SHL (R179): Integer element-wise shift left. -/
  | vshl (h : Hdr) (f : BitVec 2) (d a b : BitVec 6)
  /-- SHR (R179): Integer element-wise shift right. -/
  | vshr (h : Hdr) (f : BitVec 2) (d a b : BitVec 6)
  /-- RINT (R178): Rounds each element to an integral value. -/
  | vrint (h : Hdr) (f : BitVec 2) (d a : BitVec 6)
  /-- CLAMP (R177): Clamps the destination between the two sources. -/
  | vclamp (h : Hdr) (f : BitVec 2) (d a b : BitVec 6)
  /-- AND (R182): Lane-wide bitwise AND. -/
  | vand (h : Hdr) (d a b : BitVec 6)
  /-- OR (R182): Lane-wide bitwise OR. -/
  | vor (h : Hdr) (d a b : BitVec 6)
  /-- XOR (R182): Lane-wide bitwise exclusive OR. -/
  | vxor (h : Hdr) (d a b : BitVec 6)
  /-- ANDN (R182): Lane-wide V[a] AND NOT V[b]. -/
  | vandn (h : Hdr) (d a b : BitVec 6)
  /-- MOV (R182): Copies V[a] to V[d] in active lanes. -/
  | vmov (h : Hdr) (d a : BitVec 6)
  /-- MOVI (R182): Loads a sign-extended immediate into active lanes. -/
  | vmovi (h : Hdr) (d i : BitVec 6)
  /-- SEL (R183): Selects per lane between V[a] and V[b] by the guard, writing every lane of the mask. -/
  | vsel (h : Hdr) (d a b : BitVec 6)
  /-- CVT (R184): Converts elements between two nf formats, narrowing into or widening from part q. -/
  | vcvt (h : Hdr) (d a : BitVec 6) (s t q : BitVec 2)
  /-- PACK (R185): Interleaves nibbles of two registers into the matrix-row byte order. -/
  | vpack (h : Hdr) (d a b : BitVec 6)
  /-- UNPACK_NIBBLES (R185): Unpack mode 0: separates low and high nibbles of a register pair. -/
  | unpackNibbles (h : Hdr) (d a : BitVec 6)
  /-- UNPACK_HIGH_BITS (R185): Unpack mode 1: places 2-bit fields into bits [5:4] of byte containers of a quad. -/
  | unpackHighBits (h : Hdr) (d a : BitVec 6)
  /-- UNPACK_WIDEN (R185): Unpack mode 2: widens nibbles into byte containers of a pair. -/
  | unpackWiden (h : Hdr) (d a : BitVec 6)
  /-- CLZ (R186): Counts leading zeros of each sub-element. -/
  | vclz (h : Hdr) (d a : BitVec 6) (w : BitVec 3)
  /-- POPC (R186): Counts set bits of each sub-element. -/
  | vpopc (h : Hdr) (d a : BitVec 6) (w : BitVec 3)
  /-- BREV (R186): Reverses the bit order of each sub-element. -/
  | vbrev (h : Hdr) (d a : BitVec 6) (w : BitVec 3)
  /-- PERM (R187): Selects bytes from V[a] and the old V[d] by a byte selector. -/
  | vperm (h : Hdr) (d a b : BitVec 6)
  /-- LANE (R186): Writes each element's warp-order index. -/
  | vlane (h : Hdr) (d : BitVec 6) (w : BitVec 3)
  /-- RCP (R188): Special function reciprocal. -/
  | rcp (h : Hdr) (d a : BitVec 6) (f : BitVec 2)
  /-- RSQRT (R188): Special function reciprocal square root. -/
  | rsqrt (h : Hdr) (d a : BitVec 6) (f : BitVec 2)
  /-- SQRT (R188): Correctly rounded square root. -/
  | sqrt (h : Hdr) (d a : BitVec 6) (f : BitVec 2)
  /-- EXP2 (R188): Special function power of two. -/
  | exp2 (h : Hdr) (d a : BitVec 6) (f : BitVec 2)
  /-- LOG2 (R188): Special function base-2 logarithm. -/
  | log2 (h : Hdr) (d a : BitVec 6) (f : BitVec 2)
  /-- SIN (R188): Special function sine. -/
  | sin (h : Hdr) (d a : BitVec 6) (f : BitVec 2)
  /-- COS (R188): Special function cosine. -/
  | cos (h : Hdr) (d a : BitVec 6) (f : BitVec 2)
  /-- TANH (R188): Special function hyperbolic tangent. -/
  | tanh (h : Hdr) (d a : BitVec 6) (f : BitVec 2)
  /-- ERF (R188): Special function error function. -/
  | erf (h : Hdr) (d a : BitVec 6) (f : BitVec 2)
  /-- EXD (R188): Replaces each destination element z with exp2(x − z). -/
  | exd (h : Hdr) (d a : BitVec 6) (f : BitVec 2)
  /-- SHFL (R192): Byte gather across lanes by index bytes. -/
  | shfl (h : Hdr) (d a b : BitVec 6)
  /-- SHFLI (R193): Moves elements across lanes by a fixed up, down, xor or rotate pattern. -/
  | shfli (h : Hdr) (d a i : BitVec 6)
  /-- BCAST (R194): Broadcasts one element to every element of active lanes. -/
  | bcast (h : Hdr) (d a b : BitVec 6)
  /-- VOTE_OR (R195): Writes the OR of a predicate over active lanes. -/
  | voteOr (h : Hdr) (d a : BitVec 3)
  /-- VOTE_AND (R195): Writes the AND of a predicate over active lanes. -/
  | voteAnd (h : Hdr) (d a : BitVec 3)
  /-- VOTE_MASK (R195): Writes the mask of active lanes where the predicate is true to an s-register. -/
  | voteMask (h : Hdr) (d : BitVec 6) (a : BitVec 3)
  /-- VOTE_SAME (R195): Tests whether V[a] holds one pattern in every active lane. -/
  | voteSame (h : Hdr) (d : BitVec 3) (a : BitVec 6)
  /-- VOTE_CNT (R195): Counts active lanes with the predicate true into an s-register. -/
  | voteCnt (h : Hdr) (d : BitVec 6) (a : BitVec 3)
  /-- RED (R197): Warp reduction by a fixed tree, per position or whole warp. -/
  | red (h : Hdr) (d a : BitVec 6) (m : BitVec 1) (o : BitVec 3) (f : BitVec 2)
  /-- SCAN (R198): Inclusive or exclusive left-fold scan in warp order. -/
  | scan (h : Hdr) (d a : BitVec 6) (m : BitVec 1) (o : BitVec 3) (f : BitVec 2)
  /-- REDSEG (R198): Keyed reduction over elements with equal keys. -/
  | redseg (h : Hdr) (d a : BitVec 6) (o : BitVec 3) (f : BitVec 2)
  /-- XSWAP (R200): Rendezvous with a partner warp in another cluster to exchange v-registers. -/
  | xswap (h : Hdr) (d a b : BitVec 6)
  /-- MATCH (R199): Writes the mask of active lanes with equal sub-element 0. -/
  | vmatch (h : Hdr) (d a : BitVec 6) (w : BitVec 2)
  /-- COMPACT (R199): Packs active lanes' values into the first lanes of the slot's mask. -/
  | vcompact (h : Hdr) (d a : BitVec 6)
  /-- LDL (R258): Loads from core scratchpad with optional swizzle. -/
  | ldl (h : Hdr) (w : BitVec 2) (d x : BitVec 6) (z k : BitVec 3)
  /-- LDC (R258): Loads from cluster memory with optional swizzle. -/
  | ldc (h : Hdr) (w : BitVec 2) (d x : BitVec 6) (z k : BitVec 3)
  /-- LDK (R258): Loads from stack scratchpad. -/
  | ldk (h : Hdr) (w : BitVec 2) (d x : BitVec 6) (k : BitVec 3)
  /-- LDG (R258): Loads from global memory through L1. -/
  | ldg (h : Hdr) (w : BitVec 2) (d x : BitVec 6) (k : BitVec 3)
  /-- STL (R258): Stores to core scratchpad with optional swizzle. -/
  | stl (h : Hdr) (w : BitVec 2) (d x : BitVec 6) (z k : BitVec 3)
  /-- STC (R258): Stores to cluster memory with optional swizzle. -/
  | stc (h : Hdr) (w : BitVec 2) (d x : BitVec 6) (z k : BitVec 3)
  /-- STK (R258): Stores to stack scratchpad. -/
  | stk (h : Hdr) (w : BitVec 2) (d x : BitVec 6) (k : BitVec 3)
  /-- STG (R258): Stores to global memory through L1. -/
  | stg (h : Hdr) (w : BitVec 2) (d x : BitVec 6) (k : BitVec 3)
  /-- LDB_D (R269): Loads 8 bytes per lane from global memory at the home slice, bypassing L1. -/
  | ldbD (h : Hdr) (d x : BitVec 6) (k : BitVec 3)
  /-- LDB_Q (R269): Loads 16 bytes per lane into a pair at the home slice, bypassing L1. -/
  | ldbQ (h : Hdr) (d x : BitVec 6) (k : BitVec 3)
  /-- ATOMG (R295): Value-returning atomic on global memory, executed at the home slice. -/
  | atomg (h : Hdr) (d x : BitVec 6) (k : BitVec 3)
  /-- ATOML (R295): Value-returning atomic on core scratchpad. -/
  | atoml (h : Hdr) (d x : BitVec 6) (z k : BitVec 3)
  /-- ATOMC (R295): Value-returning atomic on cluster memory at the target core's bank. -/
  | atomc (h : Hdr) (d x : BitVec 6) (z k : BitVec 3)
  /-- REDG (R298): Global reduction gathered in the L1 accumulate state before reaching home. -/
  | redg (h : Hdr) (d x : BitVec 6) (k : BitVec 3)
  /-- REDC (R299): Cluster-memory reduction gathered in the reduction buffer. -/
  | redc (h : Hdr) (d x : BitVec 6) (z k : BitVec 3)
  /-- FENCE_ACQ (R301): Acquire fence: earlier reads acquire and clean L1 bytes are invalidated at cls scope or wider. -/
  | fenceAcq (h : Hdr) (s : BitVec 3)
  /-- FENCE_REL (R301): Release fence: the next write of each lane becomes its release write. -/
  | fenceRel (h : Hdr) (s : BitVec 3)
  /-- FENCE_AR (R301): Acquire then release fence. -/
  | fenceAr (h : Hdr) (s : BitVec 3)
  /-- FENCE_SC (R301): Sequentially consistent fence with eager write-back, joining the single total order. -/
  | fenceSc (h : Hdr) (s : BitVec 3)
  /-- BOSET (R313): Initialises a barrier object with phase and arrival count. -/
  | boset (h : Hdr) (d x : BitVec 6) (z : BitVec 2) (k : BitVec 3)
  /-- BOMARK (R313): Releases and arrives on a barrier object, returning the phase before arrival. -/
  | bomark (h : Hdr) (d x : BitVec 6) (z : BitVec 2) (k : BitVec 3)
  /-- BOADD (R313): Adds expected bytes to a barrier object and runs the completion test. -/
  | boadd (h : Hdr) (d x : BitVec 6) (z : BitVec 2) (k : BitVec 3)
  /-- BOWAIT (R313): Blocks until the object's phase differs from the token or the limit passes. -/
  | bowait (h : Hdr) (d x : BitVec 6) (z : BitVec 2) (k : BitVec 3)
  /-- BOPEEK (R313): Reads a barrier object once and reports completion without waiting. -/
  | bopeek (h : Hdr) (d x : BitVec 6) (z : BitVec 2) (k : BitVec 3)
  /-- BAR (R317): Arrives at one of the block's 16 barriers and waits for the phase to complete. -/
  | bar (h : Hdr) (a : BitVec 6) (i : BitVec 4)
  /-- LDRAG (R270): Gathers one element per lane through a row-length table and writes key and head mask. -/
  | ldrag (h : Hdr) (d x : BitVec 6) (z k : BitVec 3)
  /-- PRF (R271): Requests lines into L2 and optionally L1 without returning data. -/
  | prf (h : Hdr) (t : BitVec 4) (g : BitVec 2) (x : BitVec 6) (k : BitVec 3)
  /-- CP (R305): Hands an asynchronous copy between descriptors to the copy engine. -/
  | cp (h : Hdr) (e f g : BitVec 6)
  /-- CPM (R306): Asynchronous copy multicast into the scratchpads of several gang members. -/
  | cpm (h : Hdr) (e f g : BitVec 6)
  /-- WLD (R219): Loads a weight bank from a tile of column rows. -/
  | wld (h : Hdr) (e f : BitVec 6)
  /-- WLDT (R219): Loads a weight bank from a tile of depth rows. -/
  | wldt (h : Hdr) (e f : BitVec 6)
  /-- MMA (R220): Streams activation rows past a weight bank into accumulator rows, optionally heading a chain. -/
  | mma (h : Hdr) (e f : BitVec 6)
  /-- MMARX (R221): Joins a chain as a member receiving the head's activation stream. -/
  | mmarx (h : Hdr) (f : BitVec 6)
  /-- AREAD (R223): Writes accumulator rows to a tile through the shift, relu and clear epilogue. -/
  | aread (h : Hdr) (e f g : BitVec 6)
  /-- AZERO (R224): Zeroes a range of accumulator rows. -/
  | azero (h : Hdr) (f : BitVec 6)
  /-- TTR (R225): Transposes a tile bit for bit. -/
  | ttr (h : Hdr) (e f g : BitVec 6)
  /-- TSCL (R224): Adds a power-of-two shift to a bank's scales or scales accumulator rows. -/
  | tscl (h : Hdr) (f : BitVec 6)
  /-- TCVT (R226): Converts a tile's elements between formats. -/
  | tcvt (h : Hdr) (e f g : BitVec 6)
  /-- BATON_TAKE (R212): Takes the matrix-engine baton, queueing and blocking until granted. -/
  | batonTake (h : Hdr)
  /-- BATON_GIVE (R212): Passes the baton to the earliest waiter or frees it. -/
  | batonGive (h : Hdr)
  /-- BATON_TRY (R212): Takes the baton only if it is free, reporting success. -/
  | batonTry (h : Hdr) (e : BitVec 6)
  /-- BATON_OVF (R212): Reads and clears the sticky overflow bit. -/
  | batonOvf (h : Hdr) (e : BitVec 6)
  /-- RWCTL_OFF (R249): Turns rewrite suspension on. -/
  | rwctlOff (h : Hdr)
  /-- RWCTL_ON (R249): Turns rewrite suspension off. -/
  | rwctlOn (h : Hdr)
  /-- RWCTL_FLUSH (R249): Flushes the rewrite window. -/
  | rwctlFlush (h : Hdr)
  /-- RWCTL_MASK (R249): Sets the warp's rewrite class mask. -/
  | rwctlMask (h : Hdr) (a : BitVec 6)
  /-- RWCTL_CNT (R249): Reads a rule's applied or restarted match counter. -/
  | rwctlCnt (h : Hdr) (d a : BitVec 6)
  /-- RWCTL_CLR (R249): Zeroes every match counter of the core's table. -/
  | rwctlClr (h : Hdr)
  /-- TFILL (R227): Writes a repeated byte pattern at the start of each destination row. -/
  | tfill (h : Hdr) (e f g : BitVec 6)
  /-- NOP_RECORD (R77): A NOP command record completes with no other effect. -/
  | nopRecord (part queue : Nat)
  /-- LAUNCH_RECORD (R80): A launch record is checked and its launch enters placement. -/
  | launchRecord (part queue : Nat)
  /-- WAIT_RECORD (R79): A WAIT record stops fetch from its queue until its semaphore condition holds. -/
  | waitRecord (part queue : Nat)
  /-- WAIT_PROCEED (R79): The semaphore condition holds; the CP acquires at device scope and resumes fetch. -/
  | waitProceed (part queue : Nat)
  /-- SIGNAL_RECORD (R79): A SIGNAL record waits for every earlier launch of its queue to complete. -/
  | signalRecord (part queue : Nat)
  /-- SIGNAL_UPDATE (R79): After the earlier launches complete the semaphore is stored or added as a device-scope
  release atomic. -/
  | signalUpdate (part queue : Nat)
  /-- INVAL (R358): Drops the context's TLB and walk-cache entries overlapping a range and waits for accesses through
  them. -/
  | inval (part ctx va len tag : Nat)
  /-- INVAL_FLUSH (R358): INVAL followed by write-back and invalidation of every L1 in the partition. -/
  | invalFlush (part ctx va len tag : Nat)
  /-- INVAL_CTX (R358): INVAL_FLUSH over every page of the context. -/
  | invalCtx (part ctx tag : Nat)
  /-- INSTALL_CONTEXT (R346): Installs a context record, validating it and its rule table. -/
  | installContext (part addr tag : Nat)
  /-- REMOVE_CONTEXT (R346): Waits for no launch of the context, performs INVAL_CTX and frees the id. -/
  | removeContext (part ctx tag : Nat)
  /-- BIND_QUEUE (R370): Binds an idle command queue to a context with its ring. -/
  | bindQueue (part queue ctx base size tag : Nat)
  /-- CANCEL_LAUNCH (R371): Cancels the oldest uncompleted launch of a queue with a tag. -/
  | cancelLaunch (part queue ltag tag : Nat)
  /-- POWER_LIMIT (R378): Sets the module power limit for the port's partitions. -/
  | powerLimit (part watts tag : Nat)
  /-- ATTEST (R377): Writes a signed attestation report with the nonce and measurements. -/
  | attest (part addr nonce tag : Nat)
  /-- BLOCK_PLACE (R86): The distributor places a block or gang on a core with a matching split or an empty core. -/
  | blockPlace (launch core : Nat)
  /-- LAUNCH_AGE (R84): A launch that waits 8 ms for its next block is treated as priority 7. -/
  | launchAge (launch : Nat)
  /-- DROOP_EXCLUSION_END (R85): A core's 2 ms droop exclusion expires. -/
  | droopExclusionEnd (core : Nat)
  /-- CORE_DRAIN (R87): After 100 µs without room the distributor marks a core draining. -/
  | coreDrain (launch core : Nat)
  /-- CORE_CARVE (R87): A drained or empty core is carved once its L1 write-backs are acknowledged. -/
  | coreCarve (launch core : Nat)
  /-- PHASE_TIMEOUT (R88): A launch held for phase passes its phasewait limit and completes PHASE_TIMEOUT. -/
  | phaseTimeout (launch : Nat)
  /-- COMET_FORWARD (R92): An idle region block holding the comet forwards it to the next ring position. -/
  | cometForward (launch : Nat)
  /-- BLOCK_EXIT (R101): After the last warp ends and its accesses are acknowledged the block's rows are freed. -/
  | blockExit (block : Nat)
  /-- LAUNCH_COMPLETE (R76): The launch's last block exits; a device-scope release precedes the completion entry. -/
  | launchComplete (launch : Nat)
  /-- SLEEP_EXPIRE (R102): A sleeping warp's count runs out and it becomes a candidate again. -/
  | sleepExpire (warp : Nat)
  /-- YIELD_END (R102): A yielding warp's 64-cycle limit passes. -/
  | yieldEnd (warp : Nat)
  /-- NPR_OVERRUN (R104): The npr count reaches 16,384 and the warp traps NPR_OVERRUN. -/
  | nprOverrun (warp : Nat)
  /-- BOWAIT_EXPIRE (R316): A bowait limit passes and the wait returns 0. -/
  | bowaitExpire (warp : Nat) (slotB : Bool)
  /-- BATON_GRANT (R213): The baton is granted to a waiter, after an empty tile queue and table load when the context
  changes. -/
  | batonGrant (core : Nat)
  /-- RE_CONTEXT_GRANT (R120): A warp with a risen trigger is granted an RE context and enters PROMOTING. -/
  | reContextGrant (warp : Nat)
  /-- PROMOTION_COMPLETE (R121): The RE front end is ready and the promoting warp enters RE. -/
  | promotionComplete (warp : Nat)
  /-- DEMOTION_COMPLETE (R121): A demoting warp's entries and stores have drained and fetch returns to the IE. -/
  | demotionComplete (warp : Nat)
  /-- ISSUE_BUDGET_PERIOD (R110): A 64-cycle period begins and the RE issue budgets are renewed. -/
  | issueBudgetPeriod (core : Nat)
  /-- TILE_UNIT_START (R216): A unit starts an accepted tile instruction once its dependences have finished. -/
  | tileUnitStart (core : Nat) (unit : TileUnit)
  /-- CHAIN_RENDEZVOUS (R221): Every chain member has arrived; checks run and the stream starts or all trap. -/
  | chainRendezvous (core : Nat)
  /-- REWRITE_TIMEOUT (R231): 16 cycles pass since the last word entered the window and a flush begins. -/
  | rewriteTimeout (core : Nat)
  /-- COPY_START (R303): A freed descriptor slot takes the copy at the head of the load unit. -/
  | copyStart (core : Nat)
  /-- COPY_PIECE (R305): A 64 B piece is read, written and credited to the barrier object. -/
  | copyPiece (core slot : Nat)
  /-- COPY_BUDGET_PERIOD (R309): A 4,096-cycle period begins and copy budgets are renewed. -/
  | copyBudgetPeriod (core : Nat)
  /-- INJECTION_BUDGET_PERIOD (R361): A 4,096-mesh-cycle period begins and injection budgets are renewed. -/
  | injectionBudgetPeriod (cluster : Nat)
  /-- MEMORY_BUDGET_PERIOD (R362): A 4,096-mesh-cycle period begins and partition memory budgets are renewed. -/
  | memoryBudgetPeriod (part : Nat)
  /-- TRANSLATION_WALK_COMPLETE (R354): A page walk ends, making a TLB entry or returning a fault to every merged
  request. -/
  | translationWalkComplete (core ctx va : Nat) (write : Bool)
  /-- MEMORY_REPLY (R264): A line or reply arrives at the issuing core and the waiting access completes. -/
  | memoryReply (core line : Nat)
  /-- HOME_READ (R286): A read reaches its home slice, which pulls recorded entries before replying. -/
  | homeRead (core line : Nat)
  /-- PULL_REQUEST (R286): A core asked by a home writes back its dirty lines up to the named epoch. -/
  | pullRequest (core epoch : Nat)
  /-- WRITE_BACK (R281): Dirty bytes reach their home slice, are merged and acknowledged. -/
  | writeBack (core line : Nat)
  /-- RELEASE_RECORD (R285): A release write arrives at its home, which enters the record and applies the write. -/
  | releaseRecord (sender : Sender) (line epoch : Nat) (bytes : List (Nat × Byte))
  /-- ATOMIC_BATCH (R295): An atomic batch reaches its executing unit and is applied indivisibly in lane order. -/
  | atomicBatch (unit : AtomUnit) (addr : Nat) (op : BitVec 4) (wide : Bool) (operands : List (Word × Word))
  /-- COMBINE_WINDOW_CLOSE (R290): A home's read-combining window closes and serves every merged read with one read. -/
  | combineWindowClose (line : Nat)
  /-- RECALL (R298): A home recalls registered holders' accumulate-state partials before serving an access. -/
  | recall (line : Nat)
  /-- REDC_RECALL (R299): A target core recalls reduction-buffer partials before an access to a registered segment. -/
  | redcRecall (core segment : Nat)
  /-- REMOTE_TIMEOUT (R375): A remote access unanswered for 1 ms is answered locally as poisoned. -/
  | remoteTimeout (warp : Nat)
  /-- PREEMPT (R388): The distributor pre-empts blocks at blocking points to make room for a higher-priority launch. -/
  | preempt (block : Nat)
  /-- FORCED_PREEMPT (R389): After a further 8 ms with no pre-emption possible the CP forces one. -/
  | forcedPreempt (block : Nat)
  /-- PREEMPT_DEADLINE (R389): A forced pre-emption's deadline passes and warps outside npr stop. -/
  | preemptDeadline (block : Nat)
  /-- BLOCK_SAVE (R391): A stopped block's copies drain, its state and L1 are written back and its image is written. -/
  | blockSave (block : Nat)
  /-- BLOCK_RESTORE (R391): A saved block is checked, copied into a core's pool and resumed. -/
  | blockRestore (launch block core : Nat)
  /-- PHASE_STEP_DOWN (R131): Notice of a downward step: capacity drops and each core plans and starts evacuation. -/
  | phaseStepDown (die phase : Nat)
  /-- ROW_MAP_SWITCH (R132): Once write-backs, copies and evictions finish the row map switches and the die reports
  completion. -/
  | rowMapSwitch (die : Nat)
  /-- CLOCK_RESTART (R136): The stopped core clock restarts at the new phase's frequency. -/
  | clockRestart (die : Nat)
  /-- PHASE_STEP_COMPLETE (R132): The voltage reaches the new phase and the step completes. -/
  | phaseStepComplete (die : Nat)
  /-- PHASE_STEP_UP (R138): An upward step raises voltage then clock, rejoins rows and adds L1 ways. -/
  | phaseStepUp (die phase : Nat)
  /-- BUS_RETRY (R406): A DRAM bus transfer that failed parity or CRC is repeated. -/
  | busRetry (burst : Nat) (passes : Bool)
  /-- LANE_SWAP (R406): After the fifth failure the failing lane is located and a spare swapped in before a sixth
  attempt. -/
  | laneSwap (burst : Nat) (lane : Option Nat) (passes : Bool)
  /-- LINK_RETRAIN_COMPLETE (R414): A link finishes retraining and its cost changes in the routing tables. -/
  | linkRetrainComplete (link : LinkId)
  /-- FULL_WIDTH_RESTORED (R415): A link repaired by retraining returns to full width and cost 16. -/
  | fullWidthRestored (link : LinkId)
  /-- ROLLBACK (R408): A launch that consumed poison or was reset is stopped, flushed, restored from snapshot and
  replayed or completed. -/
  | rollback (launch : Nat)
  /-- SNAPSHOT_COPY (R409): A launch's first write to a snapshotted piece stalls while the CP copies the piece into the
  pool. -/
  | snapshotCopy (launch piece : Nat)
  /-- AUDIT_REPLAY_COMPLETE (R411): An audit replay ends and its store signatures are compared. -/
  | auditReplayComplete (launch block core : Nat) (signatures : List Word)
  /-- CLUSTER_STALL_TIMEOUT (R412): No warp of a cluster has retired a packet for 100 ms while one was ready. -/
  | clusterStallTimeout (cluster : Nat)
  /-- CONTAINMENT_RESET (R412): A cluster's cores stop, lines are discarded, links re-initialise and affected launches
  roll back. -/
  | containmentReset (cluster : Nat)
  /-- SELF_CHECK_COMPLETE (R412): Reset cores finish their self-check and return to service or go offline. -/
  | selfCheckComplete (cluster : Nat) (failed : List Nat)
  /-- INFIELD_TEST_DUE (R413): A cluster's in-field test falls due and placement on it stops. -/
  | infieldTestDue (cluster : Nat)
  /-- INFIELD_TEST_START (R413): With no warp in npr or holding, the cluster's blocks are saved and the test starts. -/
  | infieldTestStart (cluster : Nat)
  /-- INFIELD_TEST_FORCE (R413): 50 ms after falling due the test forces pre-emption of its blocks. -/
  | infieldTestForce (cluster : Nat)
  /-- INFIELD_TEST_END (R413): The test ends after 4 ms and the cores return to placement. -/
  | infieldTestEnd (cluster : Nat) (raised : List (Nat × Nat × Nat))
  /-- TILE_UNIT_FINISH (R216): A unit finishes an accepted tile instruction, or the affected part of it: destination
  bytes are written and credited, and scoreboard ranges and dependents are released. -/
  | tileUnitFinish (core : Nat) (unit : TileUnit)
  /-- STATUS_READ (R368): Reading a partition page's status returns it and clears bits 1 to 4. -/
  | statusRead (port part : Nat)
  /-- REGISTER_WRITE (R367): A write to a register BAR location with no behaviour of its own stores or is ignored. -/
  | registerWrite (port offset value : Nat)
  /-- RING_SIZE_WRITE (R368): Writing a ring's size checks base and size and configures or refuses the ring. -/
  | ringSizeWrite (port part : Nat) (ring : RingKind) (size : Nat)
  /-- QUEUE_DOORBELL (R369): A host writes a command queue's new tail and the command processor fetches records up to
  it. -/
  | queueDoorbell (port part queue tail : Nat)
  /-- CONTROL_DOORBELL (R369): A host advances the control ring's tail and the CP fetches translation-control requests. -/
  | controlDoorbell (port part tail : Nat)
  /-- ADMIN_DOORBELL (R370): A host advances the admin ring's tail and the CP fetches admin requests. -/
  | adminDoorbell (port part tail : Nat)
  /-- APERTURE_BAR_ACCESS (R363): A host read or write through a port's aperture BAR reaches device physical memory as
  an access of the command-processor thread. -/
  | apertureBarAccess (port : Nat) (write : Bool) (addr : Nat) (bytes : List Byte)
  /-- COMPLETION_HEAD_WRITE (R369): A host writes the completion head register, freeing ring room so that completions
  waiting on a full completion ring are written in order. -/
  | completionHeadWrite (port part head : Nat)
  /-- REMOTE_ACCESS (R374): An access from another device arrives at a home and is checked against the domain group. -/
  | remoteAccess (group : Nat) (write : Bool) (addr : Nat) (bytes : List Byte)
  /-- CORE_SAMPLE (R85): The power manager's 10 µs sample excludes or readmits cores for heat and droop. -/
  | coreSample (core celsius : Nat)
  /-- DROOP_EVENT (R85): A core records a droop event, which counts towards its droop exclusion. -/
  | droopEvent (core : Nat)
  /-- PATROL_SCRUB (R403): Patrol scrub rewrites a DRAM line whose error was corrected. -/
  | patrolScrub (line : Nat)
  /-- LANE_LOSS (R414): A link loses a lane and retrains to half width. -/
  | laneLoss (link : LinkId) (lane : Nat)
  /-- LINK_LEVEL_RETRY (R406): A mesh, die-to-die or domain-link flit fails its CRC and is retried; a mesh flit that
  fails its fifth attempt is completed with a poisoned tail and logged. -/
  | linkLevelRetry (path : FlitPath) (attempt : Nat) (passes : Bool)
  /-- ROUTE_ADVERTISEMENT (R415): A route advertisement updates link costs and route weights. -/
  | routeAdvertisement (dest : Nat) (routes : List (Nat × Nat))
  /-- DRAM_TRANSFER_COMPLETE (R406): A 64 B DRAM burst completes at its controller, where it is checked by array ECC
  and bus parity or CRC, corrected or poisoned, and filled into L2. -/
  | dramTransferComplete (burst : Nat) (outcome : DramOutcome)
  /-- SET_CONFIGURATION (R366): Mailbox request that checks and applies a partition configuration record. -/
  | setConfiguration
  /-- READ_CONFIGURATION (R365): Mailbox request that writes the configuration in force to the data area. -/
  | readConfiguration
  /-- SET_DEVICE_NUMBER (R365): Mailbox request that sets the device's domain number. -/
  | setDeviceNumber
  /-- STAGE_IMAGE (R365): Mailbox request that verifies a signed firmware image for the next reset. -/
  | stageImage
  /-- MAILBOX_UNKNOWN_OP (R365): A reserved mailbox op completes with result 4 and changes nothing. -/
  | mailboxUnknownOp
  /-- MODULE_RESET (R372): Module reset: the security processor verifies, measures and starts the images and writes the
  boot record. -/
  | moduleReset
  /-- CAPACITY_TABLE_UPDATE (R129): The capacity table is rewritten after a row code change and its generation rises. -/
  | capacityTableUpdate
  deriving DecidableEq, Repr

end Sys2Proof
end

