-- ==== Sys2Proof/WellFormed.lean ====
section
/-! DEFINITION. When an instruction is well formed by itself (spec/02 R39, R46, R52): the checks of decode that
need neither the declared register count nor the other words of the packet, which Machine/Packet.lean makes. -/

namespace Sys2Proof

/-- A guard of N = 1, P = 0 would never hold and is no guard (R39). -/
def Hdr.guardOk (h : Hdr) : Bool := !(h.n && h.p == 0)

/-- The header of a word that reads a register through field [11:6] (R52). -/
def Hdr.wfA (h : Hdr) : Bool := h.guardOk

/-- The header of a word that reads no register through field [11:6]: U must be 0 (R52). -/
def Hdr.wfNoA (h : Hdr) : Bool := h.guardOk && !h.u

/-- The header of a word whose field a names a register only when it is not 0 (R52, R100, R317). -/
def Hdr.wfOpt (h : Hdr) (a : BitVec 6) : Bool := h.guardOk && (!h.u || a != 0)

/-- The first register of a pair is even (R46). -/
def even6 (d : BitVec 6) : Bool := d.toNat % 2 == 0

/-- The first register of a quad is a multiple of 4 (R46). -/
def quad6 (d : BitVec 6) : Bool := d.toNat % 4 == 0

/-- The data register of a memory word of width code w (R51, R258): a pair for .q, a quad for .o. -/
def widthFits (w : BitVec 2) (d : BitVec 6) : Bool :=
  match w.toNat with
  | 2 => even6 d
  | 3 => quad6 d
  | _ => true

/-- The instruction breaks no rule that its own fields show (R39, R46, R52). A device step names units that
exist (R12, R77, R345, R364). -/
def Instr.wf : Instr → Bool
  | .nop .. => true
  | .imx .. => true
  | .bra h _ => h.wfNoA
  | .brx h _ => h.wfA
  | .call h _ => h.wfNoA
  | .ret h => h.wfNoA
  | .rcv .. => true
  | .join .. => true
  | .exit h => h.wfNoA
  | .trap h a _ => h.wfOpt a
  | .brk h _ => h.wfNoA
  | .yield h => h.wfNoA
  | .loop h _ _ => h.wfNoA
  | .sleep h a _ => h.wfOpt a
  | .hintPromote h => h.wfNoA
  | .hintDemote h => h.wfNoA
  | .nprOff h => h.wfNoA
  | .nprOn h => h.wfNoA
  | .sreg h _ a _ => h.wfOpt a
  | .sregw h _ a _ => h.wfOpt a
  | .setnfCode h _ i => h.wfNoA && decide (i.toNat ≤ 20)
  | .setnfReg h _ _ => h.wfA
  | .post h _ _ _ => h.wfA
  | .icinv h _ _ => h.wfA
  | .ifence h => h.wfNoA
  | .stop h => h.wfNoA
  | .svc h a _ => h.wfOpt a
  | .sadd h _ _ _ => h.wfA
  | .ssub h _ _ _ => h.wfA
  | .smul h _ _ _ => h.wfA
  | .smulh h _ _ _ => h.wfA
  | .sdivu h _ _ _ => h.wfA
  | .sremu h _ _ _ => h.wfA
  | .sand h _ _ _ => h.wfA
  | .sor h _ _ _ => h.wfA
  | .sxor h _ _ _ => h.wfA
  | .sshl h _ _ _ => h.wfA
  | .sshr h _ _ _ => h.wfA
  | .ssar h _ _ _ => h.wfA
  | .saddi h _ _ _ => h.wfA
  | .smovi h _ _ => h.wfNoA
  | .smov h _ _ => h.wfA
  | .scmp h _ _ _ _ => h.wfA
  | .scmpi h _ _ _ _ => h.wfA
  | .ssel h _ _ _ => h.wfA
  | .smin h _ _ _ => h.wfA
  | .smax h _ _ _ => h.wfA
  | .sclz h _ _ => h.wfA
  | .spopc h _ _ => h.wfA
  | .slea h _ _ _ => h.wfA
  | .sget h _ _ _ => h.wfA
  | .sbc h _ _ => h.wfA
  | .smask h _ _ _ => h.wfA
  | .spredToS h _ _ => h.wfA
  | .spredToP h _ _ => h.wfA
  | .sld h _ _ _ => h.wfA
  | .sst h _ _ _ => h.wfA
  | .bufld h _ _ _ => h.wfA
  | .vadd h _ _ _ _ => h.wfA
  | .vsub h _ _ _ _ => h.wfA
  | .vmul h _ _ _ _ => h.wfA
  | .vfma h _ _ _ _ => h.wfA
  | .vmin h _ _ _ _ => h.wfA
  | .vmax h _ _ _ _ => h.wfA
  | .vcmp h _ _ _ _ _ => h.wfA
  | .vabs h _ _ _ => h.wfA
  | .vneg h _ _ _ => h.wfA
  | .vmulh h _ _ _ _ => h.wfA
  | .vamin h _ _ _ _ => h.wfA
  | .vamax h _ _ _ _ => h.wfA
  | .vdp4 h _ _ _ _ => h.wfA
  | .vshl h _ _ _ _ => h.wfA
  | .vshr h _ _ _ _ => h.wfA
  | .vrint h _ _ _ => h.wfA
  | .vclamp h _ _ _ _ => h.wfA
  | .vand h _ _ _ => h.wfA
  | .vor h _ _ _ => h.wfA
  | .vxor h _ _ _ => h.wfA
  | .vandn h _ _ _ => h.wfA
  | .vmov h _ _ => h.wfA
  | .vmovi h _ _ => h.wfNoA
  | .vsel h _ _ _ => h.wfA
  | .vcvt h _ _ _ _ _ => h.wfA
  | .vpack h d _ _ => h.wfA && even6 d
  | .unpackNibbles h d a => h.wfA && even6 d && even6 a
  | .unpackHighBits h d _ => h.wfA && quad6 d
  | .unpackWiden h d _ => h.wfA && even6 d
  | .vclz h _ _ w => h.wfA && decide (w.toNat ≤ 3)
  | .vpopc h _ _ w => h.wfA && decide (w.toNat ≤ 3)
  | .vbrev h _ _ w => h.wfA && decide (w.toNat ≤ 3)
  | .vperm h _ _ _ => h.wfA
  | .vlane h _ w => h.wfNoA && decide (w.toNat ≤ 3)
  | .rcp h _ _ _ => h.wfA
  | .rsqrt h _ _ _ => h.wfA
  | .sqrt h _ _ _ => h.wfA
  | .exp2 h _ _ _ => h.wfA
  | .log2 h _ _ _ => h.wfA
  | .sin h _ _ _ => h.wfA
  | .cos h _ _ _ => h.wfA
  | .tanh h _ _ _ => h.wfA
  | .erf h _ _ _ => h.wfA
  | .exd h _ _ _ => h.wfA
  | .shfl h _ _ _ => h.wfA
  | .shfli h _ _ _ => h.wfA
  | .bcast h _ _ _ => h.wfA
  | .voteOr h _ _ => h.wfA
  | .voteAnd h _ _ => h.wfA
  | .voteMask h _ _ => h.wfA
  | .voteSame h _ _ => h.wfA
  | .voteCnt h _ _ => h.wfA
  | .red h _ _ _ o _ => h.wfA && decide (o.toNat ≤ 5)
  | .scan h _ _ _ o _ => h.wfA && decide (o.toNat ≤ 5)
  | .redseg h _ _ o _ => h.wfA && decide (o.toNat ≤ 5)
  | .xswap h _ _ _ => h.wfA
  | .vmatch h _ _ _ => h.wfA
  | .vcompact h _ _ => h.wfA
  | .ldl h w d _ _ _ => h.wfA && widthFits w d
  | .ldc h w d _ _ _ => h.wfA && widthFits w d
  | .ldk h w d _ _ => h.wfA && widthFits w d
  | .ldg h w d _ _ => h.wfA && widthFits w d
  | .stl h w d _ _ _ => h.wfA && widthFits w d
  | .stc h w d _ _ _ => h.wfA && widthFits w d
  | .stk h w d _ _ => h.wfA && widthFits w d
  | .stg h w d _ _ => h.wfA && widthFits w d
  | .ldbD h _ _ _ => h.wfA
  | .ldbQ h d _ _ => h.wfA && even6 d
  | .atomg h _ _ _ => h.wfA
  | .atoml h _ _ _ _ => h.wfA
  | .atomc h _ _ _ _ => h.wfA
  | .redg h _ _ _ => h.wfA
  | .redc h _ _ _ _ => h.wfA
  | .fenceAcq h s => h.wfNoA && decide (s.toNat ≤ 4)
  | .fenceRel h s => h.wfNoA && decide (s.toNat ≤ 4)
  | .fenceAr h s => h.wfNoA && decide (s.toNat ≤ 4)
  | .fenceSc h s => h.wfNoA && decide (s.toNat ≤ 4)
  | .boset h _ _ _ _ => h.wfA
  | .bomark h _ _ _ _ => h.wfA
  | .boadd h _ _ _ _ => h.wfA
  | .bowait h _ _ _ _ => h.wfA
  | .bopeek h _ _ _ _ => h.wfA
  | .bar h a _ => h.wfOpt a
  | .ldrag h d _ z _ => h.wfA && decide (z.toNat ≤ 3) && even6 d
  | .prf h _ g _ _ => h.wfA && decide (g.toNat ≠ 3)
  | .cp h e f _ => h.wfA && even6 e && even6 f
  | .cpm h e f _ => h.wfA && even6 e && even6 f
  | .wld h e _ => h.wfA && even6 e
  | .wldt h e _ => h.wfA && even6 e
  | .mma h e _ => h.wfA && even6 e
  | .mmarx h _ => h.wfA
  | .aread h e _ _ => h.wfA && even6 e
  | .azero h _ => h.wfA
  | .ttr h e f _ => h.wfA && even6 e && even6 f
  | .tscl h _ => h.wfA
  | .tcvt h e f _ => h.wfA && even6 e && even6 f
  | .batonTake h => h.wfNoA
  | .batonGive h => h.wfNoA
  | .batonTry h _ => h.wfNoA
  | .batonOvf h _ => h.wfNoA
  | .rwctlOff h => h.wfNoA
  | .rwctlOn h => h.wfNoA
  | .rwctlFlush h => h.wfNoA
  | .rwctlMask h _ => h.wfA
  | .rwctlCnt h _ _ => h.wfA
  | .rwctlClr h => h.wfNoA
  | .tfill h e _ _ => h.wfA && even6 e
  | .queueDoorbell port part queue _ => decide (port < 2) && decide (part < 4) && decide (queue < 64)
  | .nopRecord part queue => decide (part < 4) && decide (queue < 64)
  | .launchRecord part queue => decide (part < 4) && decide (queue < 64)
  | .waitRecord part queue => decide (part < 4) && decide (queue < 64)
  | .waitProceed part queue => decide (part < 4) && decide (queue < 64)
  | .signalRecord part queue => decide (part < 4) && decide (queue < 64)
  | .signalUpdate part queue => decide (part < 4) && decide (queue < 64)
  | .controlDoorbell port part _ => decide (port < 2) && decide (part < 4)
  | .inval part ctx _ _ _ => decide (part < 4) && decide (ctx < 4096)
  | .invalFlush part ctx _ _ _ => decide (part < 4) && decide (ctx < 4096)
  | .invalCtx part ctx _ => decide (part < 4) && decide (ctx < 4096)
  | .adminDoorbell port part _ => decide (port < 2) && decide (part < 4)
  | .installContext part _ _ => decide (part < 4)
  | .removeContext part ctx _ => decide (part < 4) && decide (ctx < 4096)
  | .bindQueue part queue ctx _ _ _ => decide (part < 4) && decide (queue < 64) && decide (ctx < 4096)
  | .cancelLaunch part queue _ _ => decide (part < 4) && decide (queue < 64)
  | .powerLimit part _ _ => decide (part < 4)
  | .attest part _ _ _ => decide (part < 4)
  | .ringSizeWrite port part _ _ => decide (port < 2) && decide (part < 4)
  | .statusRead port part => decide (port < 2) && decide (part < 4)
  | .registerWrite port _ _ => decide (port < 2)
  | .setConfiguration => true
  | .readConfiguration => true
  | .setDeviceNumber => true
  | .stageImage => true
  | .mailboxUnknownOp => true
  | .moduleReset => true
  | .blockPlace _ core => decide (core < 256)
  | .launchAge _ => true
  | .coreSample core _ => decide (core < 256)
  | .droopExclusionEnd core => decide (core < 256)
  | .coreDrain _ core => decide (core < 256)
  | .coreCarve _ core => decide (core < 256)
  | .phaseTimeout _ => true
  | .cometForward _ => true
  | .blockExit block => decide (block < 4096)
  | .launchComplete _ => true
  | .sleepExpire warp => decide (warp < 12288)
  | .yieldEnd warp => decide (warp < 12288)
  | .nprOverrun warp => decide (warp < 12288)
  | .bowaitExpire warp _ => decide (warp < 12288)
  | .batonGrant core => decide (core < 256)
  | .reContextGrant warp => decide (warp < 12288)
  | .promotionComplete warp => decide (warp < 12288)
  | .demotionComplete warp => decide (warp < 12288)
  | .issueBudgetPeriod core => decide (core < 256)
  | .tileUnitStart core _ => decide (core < 256)
  | .chainRendezvous core => decide (core < 256)
  | .rewriteTimeout core => decide (core < 256)
  | .copyStart core => decide (core < 256)
  | .copyPiece core slot => decide (core < 256) && decide (slot < 2)
  | .copyBudgetPeriod core => decide (core < 256)
  | .injectionBudgetPeriod cluster => decide (cluster < 64)
  | .memoryBudgetPeriod part => decide (part < 4)
  | .translationWalkComplete core ctx _ _ => decide (core < 256) && decide (ctx < 4096)
  | .memoryReply core _ => decide (core < 256)
  | .homeRead core _ => decide (core < 256)
  | .pullRequest core _ => decide (core < 256)
  | .writeBack core _ => decide (core < 256)
  | .releaseRecord (.own core) _ _ _ | .releaseRecord (.inbound _ core) _ _ _ => decide (core < 256)
  | .atomicBatch _ _ _ _ _ => true
  | .combineWindowClose _ => true
  | .recall _ => true
  | .redcRecall core _ => decide (core < 256)
  | .remoteAccess _ _ _ _ => true
  | .remoteTimeout warp => decide (warp < 12288)
  | .preempt block => decide (block < 4096)
  | .forcedPreempt block => decide (block < 4096)
  | .preemptDeadline block => decide (block < 4096)
  | .blockSave block => decide (block < 4096)
  | .blockRestore _ _ core => decide (core < 256)
  | .phaseStepDown die phase => decide (die < 4) && decide (phase < 4)
  | .rowMapSwitch die => decide (die < 4)
  | .clockRestart die => decide (die < 4)
  | .phaseStepComplete die => decide (die < 4)
  | .phaseStepUp die phase => decide (die < 4) && decide (phase < 4)
  | .capacityTableUpdate => true
  | .busRetry _ _ => true
  | .laneSwap _ _ _ => true
  | .patrolScrub _ => true
  | .laneLoss l n => l.ok && decide (n < l.lanes)
  | .linkRetrainComplete l => l.ok
  | .routeAdvertisement _ _ => true
  | .fullWidthRestored l => l.ok
  | .rollback _ => true
  | .snapshotCopy _ _ => true
  | .auditReplayComplete _ _ core _ => decide (core < 256)
  | .clusterStallTimeout cluster => decide (cluster < 64)
  | .containmentReset cluster => decide (cluster < 64)
  | .selfCheckComplete cluster _ => decide (cluster < 64)
  | .infieldTestDue cluster => decide (cluster < 64)
  | .infieldTestStart cluster => decide (cluster < 64)
  | .infieldTestForce cluster => decide (cluster < 64)
  | .infieldTestEnd cluster _ => decide (cluster < 64)
  | .tileUnitFinish core _ => decide (core < 256)
  | .droopEvent core => decide (core < 256)
  | .dramTransferComplete _ _ => true
  | .apertureBarAccess port _ _ _ => decide (port < 2)
  | .completionHeadWrite port part _ => decide (port < 2) && decide (part < 4)
  | .linkLevelRetry p n _ => p.ok && decide (1 ≤ n) && decide (n ≤ p.transfers)

end Sys2Proof
end

