-- ==== Sys2Proof/Decode.lean ====
section
/-! DEFINITION. The decoder and the encoder, from the opcode map and the operand formats (spec/02 R38-R52).
A word is read by its opcode into a candidate instruction, which is accepted only when encoding it again gives
the same word (every unused bit is zero, R45) and it is well formed (R39, R46, R52). -/

namespace Sys2Proof

/-- Bits 31 to 26 of a word followed by its bits 25 to 0 (R38). -/
def wordBits (h : Hdr) (x : BitVec 26) : W32 :=
  BitVec.ofBool h.c ++ BitVec.ofBool h.u ++ BitVec.ofBool h.n ++ h.p ++ x

/-- The header bits of a word (R38). -/
def hdrOf (w : W32) : Hdr :=
  ⟨w.getLsbD 31, w.getLsbD 30, w.getLsbD 29, w.extractLsb' 26 3⟩

/-- The word of an instruction, laid out as the opcode map and its format give it (R38, R45, R51);
a device step has none. -/
def encode : Instr → Option W32
  | .nop c => some (wordBits ⟨c, false, false, 0#3⟩ (0x0#26))
  | .imx x => some (wordBits ⟨false, false, false, 0#3⟩ (0x01#8 ++ x))
  | .bra h o => some (wordBits h (0x2#8 ++ o))
  | .brx h a => some (wordBits h (0xC0#14 ++ a ++ 0x0#6))
  | .call h o => some (wordBits h (0x4#8 ++ o))
  | .ret h => some (wordBits h (0x140000#26))
  | .rcv c o => some (wordBits ⟨c, false, false, 0#3⟩ (0x6#8 ++ o))
  | .join c => some (wordBits ⟨c, false, false, 0#3⟩ (0x1C0000#26))
  | .exit h => some (wordBits h (0x200000#26))
  | .trap h a i => some (wordBits h (0x240#14 ++ a ++ i))
  | .brk h i => some (wordBits h (0xA000#20 ++ i))
  | .yield h => some (wordBits h (0x2C0000#26))
  | .loop h d i => some (wordBits h (0xC#8 ++ d ++ 0x0#6 ++ i))
  | .sleep h a i => some (wordBits h (0x340#14 ++ a ++ i))
  | .hintPromote h => some (wordBits h (0x380001#26))
  | .hintDemote h => some (wordBits h (0x380002#26))
  | .nprOff h => some (wordBits h (0x3C0000#26))
  | .nprOn h => some (wordBits h (0x3C0001#26))
  | .sreg h d a i => some (wordBits h (0x10#8 ++ d ++ a ++ i))
  | .sregw h d a i => some (wordBits h (0x11#8 ++ d ++ a ++ i))
  | .setnfCode h f i => some (wordBits h (0x120#12 ++ f ++ 0x0#6 ++ i))
  | .setnfReg h f a => some (wordBits h (0x121#12 ++ f ++ a ++ 0x0#6))
  | .post h e f g => some (wordBits h (0x13#8 ++ e ++ f ++ g))
  | .icinv h a b => some (wordBits h (0x500#14 ++ a ++ b))
  | .ifence h => some (wordBits h (0x540000#26))
  | .stop h => some (wordBits h (0x580000#26))
  | .svc h a i => some (wordBits h (0x5C0#14 ++ a ++ i))
  | .sadd h d a b => some (wordBits h (0x18#8 ++ d ++ a ++ b))
  | .ssub h d a b => some (wordBits h (0x19#8 ++ d ++ a ++ b))
  | .smul h d a b => some (wordBits h (0x1A#8 ++ d ++ a ++ b))
  | .smulh h d a b => some (wordBits h (0x1B#8 ++ d ++ a ++ b))
  | .sdivu h d a b => some (wordBits h (0x1C#8 ++ d ++ a ++ b))
  | .sremu h d a b => some (wordBits h (0x1D#8 ++ d ++ a ++ b))
  | .sand h d a b => some (wordBits h (0x1E#8 ++ d ++ a ++ b))
  | .sor h d a b => some (wordBits h (0x1F#8 ++ d ++ a ++ b))
  | .sxor h d a b => some (wordBits h (0x20#8 ++ d ++ a ++ b))
  | .sshl h d a b => some (wordBits h (0x21#8 ++ d ++ a ++ b))
  | .sshr h d a b => some (wordBits h (0x22#8 ++ d ++ a ++ b))
  | .ssar h d a b => some (wordBits h (0x23#8 ++ d ++ a ++ b))
  | .saddi h d a i => some (wordBits h (0x24#8 ++ d ++ a ++ i))
  | .smovi h d i => some (wordBits h (0x25#8 ++ d ++ 0x0#6 ++ i))
  | .smov h d a => some (wordBits h (0x26#8 ++ d ++ a ++ 0x0#6))
  | .scmp h d q a b => some (wordBits h (0x27#8 ++ d ++ q ++ a ++ b))
  | .scmpi h d q a i => some (wordBits h (0x28#8 ++ d ++ q ++ a ++ i))
  | .ssel h d a b => some (wordBits h (0x29#8 ++ d ++ a ++ b))
  | .smin h d a b => some (wordBits h (0x2A#8 ++ d ++ a ++ b))
  | .smax h d a b => some (wordBits h (0x2B#8 ++ d ++ a ++ b))
  | .sclz h d a => some (wordBits h (0x2C#8 ++ d ++ a ++ 0x0#6))
  | .spopc h d a => some (wordBits h (0x2D#8 ++ d ++ a ++ 0x0#6))
  | .slea h d a b => some (wordBits h (0x2E#8 ++ d ++ a ++ b))
  | .sget h d a b => some (wordBits h (0x2F#8 ++ d ++ a ++ b))
  | .sbc h d a => some (wordBits h (0x30#8 ++ d ++ a ++ 0x0#6))
  | .smask h d a i => some (wordBits h (0x31#8 ++ d ++ a ++ i))
  | .spredToS h d a => some (wordBits h (0x32#8 ++ d ++ 0x0#3 ++ a ++ 0x0#6))
  | .spredToP h d a => some (wordBits h (0x190#11 ++ d ++ a ++ 0x20#6))
  | .sld h d x k => some (wordBits h (0x33#8 ++ d ++ x ++ 0x0#3 ++ k))
  | .sst h d x k => some (wordBits h (0x34#8 ++ d ++ x ++ 0x0#3 ++ k))
  | .bufld h d a i => some (wordBits h (0x35#8 ++ d ++ a ++ i))
  | .vadd h f d a b => some (wordBits h (0xE#6 ++ f ++ d ++ a ++ b))
  | .vsub h f d a b => some (wordBits h (0xF#6 ++ f ++ d ++ a ++ b))
  | .vmul h f d a b => some (wordBits h (0x10#6 ++ f ++ d ++ a ++ b))
  | .vfma h f d a b => some (wordBits h (0x11#6 ++ f ++ d ++ a ++ b))
  | .vmin h f d a b => some (wordBits h (0x12#6 ++ f ++ d ++ a ++ b))
  | .vmax h f d a b => some (wordBits h (0x13#6 ++ f ++ d ++ a ++ b))
  | .vcmp h f d q a b => some (wordBits h (0x14#6 ++ f ++ d ++ q ++ a ++ b))
  | .vabs h f d a => some (wordBits h (0x15#6 ++ f ++ d ++ a ++ 0x0#6))
  | .vneg h f d a => some (wordBits h (0x16#6 ++ f ++ d ++ a ++ 0x0#6))
  | .vmulh h f d a b => some (wordBits h (0x17#6 ++ f ++ d ++ a ++ b))
  | .vamin h f d a b => some (wordBits h (0x18#6 ++ f ++ d ++ a ++ b))
  | .vamax h f d a b => some (wordBits h (0x19#6 ++ f ++ d ++ a ++ b))
  | .vdp4 h f d a b => some (wordBits h (0x1A#6 ++ f ++ d ++ a ++ b))
  | .vshl h f d a b => some (wordBits h (0x1B#6 ++ f ++ d ++ a ++ b))
  | .vshr h f d a b => some (wordBits h (0x1C#6 ++ f ++ d ++ a ++ b))
  | .vrint h f d a => some (wordBits h (0x1D#6 ++ f ++ d ++ a ++ 0x0#6))
  | .vclamp h f d a b => some (wordBits h (0x1E#6 ++ f ++ d ++ a ++ b))
  | .vand h d a b => some (wordBits h (0x80#8 ++ d ++ a ++ b))
  | .vor h d a b => some (wordBits h (0x81#8 ++ d ++ a ++ b))
  | .vxor h d a b => some (wordBits h (0x82#8 ++ d ++ a ++ b))
  | .vandn h d a b => some (wordBits h (0x83#8 ++ d ++ a ++ b))
  | .vmov h d a => some (wordBits h (0x84#8 ++ d ++ a ++ 0x0#6))
  | .vmovi h d i => some (wordBits h (0x85#8 ++ d ++ 0x0#6 ++ i))
  | .vsel h d a b => some (wordBits h (0x86#8 ++ d ++ a ++ b))
  | .vcvt h d a s t q => some (wordBits h (0x87#8 ++ d ++ a ++ s ++ t ++ q))
  | .vpack h d a b => some (wordBits h (0x88#8 ++ d ++ a ++ b))
  | .unpackNibbles h d a => some (wordBits h (0x89#8 ++ d ++ a ++ 0x0#6))
  | .unpackHighBits h d a => some (wordBits h (0x89#8 ++ d ++ a ++ 0x1#6))
  | .unpackWiden h d a => some (wordBits h (0x89#8 ++ d ++ a ++ 0x2#6))
  | .vclz h d a w => some (wordBits h (0x8A#8 ++ d ++ a ++ 0x0#3 ++ w))
  | .vpopc h d a w => some (wordBits h (0x8B#8 ++ d ++ a ++ 0x0#3 ++ w))
  | .vbrev h d a w => some (wordBits h (0x8C#8 ++ d ++ a ++ 0x0#3 ++ w))
  | .vperm h d a b => some (wordBits h (0x8D#8 ++ d ++ a ++ b))
  | .vlane h d w => some (wordBits h (0x8E#8 ++ d ++ 0x0#9 ++ w))
  | .rcp h d a f => some (wordBits h (0xA0#8 ++ d ++ a ++ 0x0#4 ++ f))
  | .rsqrt h d a f => some (wordBits h (0xA1#8 ++ d ++ a ++ 0x0#4 ++ f))
  | .sqrt h d a f => some (wordBits h (0xA2#8 ++ d ++ a ++ 0x0#4 ++ f))
  | .exp2 h d a f => some (wordBits h (0xA3#8 ++ d ++ a ++ 0x0#4 ++ f))
  | .log2 h d a f => some (wordBits h (0xA4#8 ++ d ++ a ++ 0x0#4 ++ f))
  | .sin h d a f => some (wordBits h (0xA5#8 ++ d ++ a ++ 0x0#4 ++ f))
  | .cos h d a f => some (wordBits h (0xA6#8 ++ d ++ a ++ 0x0#4 ++ f))
  | .tanh h d a f => some (wordBits h (0xA7#8 ++ d ++ a ++ 0x0#4 ++ f))
  | .erf h d a f => some (wordBits h (0xA8#8 ++ d ++ a ++ 0x0#4 ++ f))
  | .exd h d a f => some (wordBits h (0xA9#8 ++ d ++ a ++ 0x0#4 ++ f))
  | .shfl h d a b => some (wordBits h (0xB0#8 ++ d ++ a ++ b))
  | .shfli h d a i => some (wordBits h (0xB1#8 ++ d ++ a ++ i))
  | .bcast h d a b => some (wordBits h (0xB2#8 ++ d ++ a ++ b))
  | .voteOr h d a => some (wordBits h (0x598#11 ++ d ++ 0x0#3 ++ a ++ 0x0#6))
  | .voteAnd h d a => some (wordBits h (0x598#11 ++ d ++ 0x0#3 ++ a ++ 0x1#6))
  | .voteMask h d a => some (wordBits h (0xB3#8 ++ d ++ 0x0#3 ++ a ++ 0x2#6))
  | .voteSame h d a => some (wordBits h (0x598#11 ++ d ++ a ++ 0x3#6))
  | .voteCnt h d a => some (wordBits h (0xB3#8 ++ d ++ 0x0#3 ++ a ++ 0x4#6))
  | .red h d a m o f => some (wordBits h (0xB4#8 ++ d ++ a ++ m ++ o ++ f))
  | .scan h d a m o f => some (wordBits h (0xB5#8 ++ d ++ a ++ m ++ o ++ f))
  | .redseg h d a o f => some (wordBits h (0xB6#8 ++ d ++ a ++ 0x0#1 ++ o ++ f))
  | .xswap h d a b => some (wordBits h (0xB7#8 ++ d ++ a ++ b))
  | .vmatch h d a w => some (wordBits h (0xB8#8 ++ d ++ a ++ 0x0#4 ++ w))
  | .vcompact h d a => some (wordBits h (0xB9#8 ++ d ++ a ++ 0x0#6))
  | .ldl h w d x z k => some (wordBits h (0x30#6 ++ w ++ d ++ x ++ z ++ k))
  | .ldc h w d x z k => some (wordBits h (0x31#6 ++ w ++ d ++ x ++ z ++ k))
  | .ldk h w d x k => some (wordBits h (0x32#6 ++ w ++ d ++ x ++ 0x0#3 ++ k))
  | .ldg h w d x k => some (wordBits h (0x33#6 ++ w ++ d ++ x ++ 0x0#3 ++ k))
  | .stl h w d x z k => some (wordBits h (0x34#6 ++ w ++ d ++ x ++ z ++ k))
  | .stc h w d x z k => some (wordBits h (0x35#6 ++ w ++ d ++ x ++ z ++ k))
  | .stk h w d x k => some (wordBits h (0x36#6 ++ w ++ d ++ x ++ 0x0#3 ++ k))
  | .stg h w d x k => some (wordBits h (0x37#6 ++ w ++ d ++ x ++ 0x0#3 ++ k))
  | .ldbD h d x k => some (wordBits h (0xE0#8 ++ d ++ x ++ 0x0#3 ++ k))
  | .ldbQ h d x k => some (wordBits h (0xE1#8 ++ d ++ x ++ 0x0#3 ++ k))
  | .atomg h d x k => some (wordBits h (0xE2#8 ++ d ++ x ++ 0x0#3 ++ k))
  | .atoml h d x z k => some (wordBits h (0xE3#8 ++ d ++ x ++ z ++ k))
  | .atomc h d x z k => some (wordBits h (0xE4#8 ++ d ++ x ++ z ++ k))
  | .redg h d x k => some (wordBits h (0xE5#8 ++ d ++ x ++ 0x0#3 ++ k))
  | .redc h d x z k => some (wordBits h (0xE6#8 ++ d ++ x ++ z ++ k))
  | .fenceAcq h s => some (wordBits h (0x738000#23 ++ s))
  | .fenceRel h s => some (wordBits h (0x738001#23 ++ s))
  | .fenceAr h s => some (wordBits h (0x738002#23 ++ s))
  | .fenceSc h s => some (wordBits h (0x738003#23 ++ s))
  | .boset h d x z k => some (wordBits h (0xE8#8 ++ d ++ x ++ 0x0#1 ++ z ++ k))
  | .bomark h d x z k => some (wordBits h (0xE9#8 ++ d ++ x ++ 0x0#1 ++ z ++ k))
  | .boadd h d x z k => some (wordBits h (0xEA#8 ++ d ++ x ++ 0x0#1 ++ z ++ k))
  | .bowait h d x z k => some (wordBits h (0xEB#8 ++ d ++ x ++ 0x0#1 ++ z ++ k))
  | .bopeek h d x z k => some (wordBits h (0xEC#8 ++ d ++ x ++ 0x0#1 ++ z ++ k))
  | .bar h a i => some (wordBits h (0x3B40#14 ++ a ++ 0x0#2 ++ i))
  | .ldrag h d x z k => some (wordBits h (0xEE#8 ++ d ++ x ++ z ++ k))
  | .prf h t g x k => some (wordBits h (0xEF#8 ++ t ++ g ++ x ++ 0x0#3 ++ k))
  | .cp h e f g => some (wordBits h (0xF0#8 ++ e ++ f ++ g))
  | .cpm h e f g => some (wordBits h (0xF1#8 ++ e ++ f ++ g))
  | .wld h e f => some (wordBits h (0xF2#8 ++ e ++ f ++ 0x0#6))
  | .wldt h e f => some (wordBits h (0xF3#8 ++ e ++ f ++ 0x0#6))
  | .mma h e f => some (wordBits h (0xF4#8 ++ e ++ f ++ 0x0#6))
  | .mmarx h f => some (wordBits h (0x3D40#14 ++ f ++ 0x0#6))
  | .aread h e f g => some (wordBits h (0xF6#8 ++ e ++ f ++ g))
  | .azero h f => some (wordBits h (0x3DC0#14 ++ f ++ 0x0#6))
  | .ttr h e f g => some (wordBits h (0xF8#8 ++ e ++ f ++ g))
  | .tscl h f => some (wordBits h (0x3E40#14 ++ f ++ 0x0#6))
  | .tcvt h e f g => some (wordBits h (0xFA#8 ++ e ++ f ++ g))
  | .batonTake h => some (wordBits h (0x3EC0000#26))
  | .batonGive h => some (wordBits h (0x3EC0001#26))
  | .batonTry h e => some (wordBits h (0xFB#8 ++ e ++ 0x2#12))
  | .batonOvf h e => some (wordBits h (0xFB#8 ++ e ++ 0x3#12))
  | .rwctlOff h => some (wordBits h (0x3F00000#26))
  | .rwctlOn h => some (wordBits h (0x3F00001#26))
  | .rwctlFlush h => some (wordBits h (0x3F00002#26))
  | .rwctlMask h a => some (wordBits h (0x3F00#14 ++ a ++ 0x3#6))
  | .rwctlCnt h d a => some (wordBits h (0xFC#8 ++ d ++ a ++ 0x4#6))
  | .rwctlClr h => some (wordBits h (0x3F00005#26))
  | .tfill h e f g => some (wordBits h (0xFD#8 ++ e ++ f ++ g))
  | .queueDoorbell .. => none
  | .nopRecord .. => none
  | .launchRecord .. => none
  | .waitRecord .. => none
  | .waitProceed .. => none
  | .signalRecord .. => none
  | .signalUpdate .. => none
  | .controlDoorbell .. => none
  | .inval .. => none
  | .invalFlush .. => none
  | .invalCtx .. => none
  | .adminDoorbell .. => none
  | .installContext .. => none
  | .removeContext .. => none
  | .bindQueue .. => none
  | .cancelLaunch .. => none
  | .powerLimit .. => none
  | .attest .. => none
  | .ringSizeWrite .. => none
  | .statusRead .. => none
  | .registerWrite .. => none
  | .setConfiguration .. => none
  | .readConfiguration .. => none
  | .setDeviceNumber .. => none
  | .stageImage .. => none
  | .mailboxUnknownOp .. => none
  | .moduleReset .. => none
  | .blockPlace .. => none
  | .launchAge .. => none
  | .coreSample .. => none
  | .droopExclusionEnd .. => none
  | .coreDrain .. => none
  | .coreCarve .. => none
  | .phaseTimeout .. => none
  | .cometForward .. => none
  | .blockExit .. => none
  | .launchComplete .. => none
  | .sleepExpire .. => none
  | .yieldEnd .. => none
  | .nprOverrun .. => none
  | .bowaitExpire .. => none
  | .batonGrant .. => none
  | .reContextGrant .. => none
  | .promotionComplete .. => none
  | .demotionComplete .. => none
  | .issueBudgetPeriod .. => none
  | .tileUnitStart .. => none
  | .chainRendezvous .. => none
  | .rewriteTimeout .. => none
  | .copyStart .. => none
  | .copyPiece .. => none
  | .copyBudgetPeriod .. => none
  | .injectionBudgetPeriod .. => none
  | .memoryBudgetPeriod .. => none
  | .translationWalkComplete .. => none
  | .memoryReply .. => none
  | .homeRead .. => none
  | .pullRequest .. => none
  | .writeBack .. => none
  | .releaseRecord .. => none
  | .atomicBatch .. => none
  | .combineWindowClose .. => none
  | .recall .. => none
  | .redcRecall .. => none
  | .remoteAccess .. => none
  | .remoteTimeout .. => none
  | .preempt .. => none
  | .forcedPreempt .. => none
  | .preemptDeadline .. => none
  | .blockSave .. => none
  | .blockRestore .. => none
  | .phaseStepDown .. => none
  | .rowMapSwitch .. => none
  | .clockRestart .. => none
  | .phaseStepComplete .. => none
  | .phaseStepUp .. => none
  | .capacityTableUpdate .. => none
  | .busRetry .. => none
  | .laneSwap .. => none
  | .patrolScrub .. => none
  | .laneLoss .. => none
  | .linkRetrainComplete .. => none
  | .routeAdvertisement .. => none
  | .fullWidthRestored .. => none
  | .rollback .. => none
  | .snapshotCopy .. => none
  | .auditReplayComplete .. => none
  | .clusterStallTimeout .. => none
  | .containmentReset .. => none
  | .selfCheckComplete .. => none
  | .infieldTestDue .. => none
  | .infieldTestStart .. => none
  | .infieldTestForce .. => none
  | .infieldTestEnd .. => none
  | .tileUnitFinish .. => none
  | .droopEvent .. => none
  | .dramTransferComplete .. => none
  | .apertureBarAccess .. => none
  | .completionHeadWrite .. => none
  | .linkLevelRetry .. => none

/-- Opcodes 0x00 to 0x0F of the map (R51). -/
def readRow0 (w : W32) : Option Instr :=
  match (w.extractLsb' 18 4).toNat with
  | 0x0 => some (.nop (w.getLsbD 31))
  | 0x1 => some (.imx (w.extractLsb' 0 18))
  | 0x2 => some (.bra (hdrOf w) (w.extractLsb' 0 18))
  | 0x3 => some (.brx (hdrOf w) (w.extractLsb' 6 6))
  | 0x4 => some (.call (hdrOf w) (w.extractLsb' 0 18))
  | 0x5 => some (.ret (hdrOf w))
  | 0x6 => some (.rcv (w.getLsbD 31) (w.extractLsb' 0 18))
  | 0x7 => some (.join (w.getLsbD 31))
  | 0x8 => some (.exit (hdrOf w))
  | 0x9 => some (.trap (hdrOf w) (w.extractLsb' 6 6) (w.extractLsb' 0 6))
  | 0xA => some (.brk (hdrOf w) (w.extractLsb' 0 6))
  | 0xB => some (.yield (hdrOf w))
  | 0xC => some (.loop (hdrOf w) (w.extractLsb' 12 6) (w.extractLsb' 0 6))
  | 0xD => some (.sleep (hdrOf w) (w.extractLsb' 6 6) (w.extractLsb' 0 6))
  | 0xE =>
    match (w.extractLsb' 0 2).toNat with
    | 1 => some (.hintPromote (hdrOf w))
    | 2 => some (.hintDemote (hdrOf w))
    | _ => none
  | 0xF =>
    match (w.extractLsb' 0 1).toNat with
    | 0 => some (.nprOff (hdrOf w))
    | 1 => some (.nprOn (hdrOf w))
    | _ => none
  | _ => none

/-- Opcodes 0x10 to 0x1F of the map (R51). -/
def readRow1 (w : W32) : Option Instr :=
  match (w.extractLsb' 18 4).toNat with
  | 0x0 => some (.sreg (hdrOf w) (w.extractLsb' 12 6) (w.extractLsb' 6 6) (w.extractLsb' 0 6))
  | 0x1 => some (.sregw (hdrOf w) (w.extractLsb' 12 6) (w.extractLsb' 6 6) (w.extractLsb' 0 6))
  | 0x2 =>
    match (w.extractLsb' 14 1).toNat with
    | 0 => some (.setnfCode (hdrOf w) (w.extractLsb' 12 2) (w.extractLsb' 0 6))
    | 1 => some (.setnfReg (hdrOf w) (w.extractLsb' 12 2) (w.extractLsb' 6 6))
    | _ => none
  | 0x3 => some (.post (hdrOf w) (w.extractLsb' 12 6) (w.extractLsb' 6 6) (w.extractLsb' 0 6))
  | 0x4 => some (.icinv (hdrOf w) (w.extractLsb' 6 6) (w.extractLsb' 0 6))
  | 0x5 => some (.ifence (hdrOf w))
  | 0x6 => some (.stop (hdrOf w))
  | 0x7 => some (.svc (hdrOf w) (w.extractLsb' 6 6) (w.extractLsb' 0 6))
  | 0x8 => some (.sadd (hdrOf w) (w.extractLsb' 12 6) (w.extractLsb' 6 6) (w.extractLsb' 0 6))
  | 0x9 => some (.ssub (hdrOf w) (w.extractLsb' 12 6) (w.extractLsb' 6 6) (w.extractLsb' 0 6))
  | 0xA => some (.smul (hdrOf w) (w.extractLsb' 12 6) (w.extractLsb' 6 6) (w.extractLsb' 0 6))
  | 0xB => some (.smulh (hdrOf w) (w.extractLsb' 12 6) (w.extractLsb' 6 6) (w.extractLsb' 0 6))
  | 0xC => some (.sdivu (hdrOf w) (w.extractLsb' 12 6) (w.extractLsb' 6 6) (w.extractLsb' 0 6))
  | 0xD => some (.sremu (hdrOf w) (w.extractLsb' 12 6) (w.extractLsb' 6 6) (w.extractLsb' 0 6))
  | 0xE => some (.sand (hdrOf w) (w.extractLsb' 12 6) (w.extractLsb' 6 6) (w.extractLsb' 0 6))
  | 0xF => some (.sor (hdrOf w) (w.extractLsb' 12 6) (w.extractLsb' 6 6) (w.extractLsb' 0 6))
  | _ => none

/-- Opcodes 0x20 to 0x2F of the map (R51). -/
def readRow2 (w : W32) : Option Instr :=
  match (w.extractLsb' 18 4).toNat with
  | 0x0 => some (.sxor (hdrOf w) (w.extractLsb' 12 6) (w.extractLsb' 6 6) (w.extractLsb' 0 6))
  | 0x1 => some (.sshl (hdrOf w) (w.extractLsb' 12 6) (w.extractLsb' 6 6) (w.extractLsb' 0 6))
  | 0x2 => some (.sshr (hdrOf w) (w.extractLsb' 12 6) (w.extractLsb' 6 6) (w.extractLsb' 0 6))
  | 0x3 => some (.ssar (hdrOf w) (w.extractLsb' 12 6) (w.extractLsb' 6 6) (w.extractLsb' 0 6))
  | 0x4 => some (.saddi (hdrOf w) (w.extractLsb' 12 6) (w.extractLsb' 6 6) (w.extractLsb' 0 6))
  | 0x5 => some (.smovi (hdrOf w) (w.extractLsb' 12 6) (w.extractLsb' 0 6))
  | 0x6 => some (.smov (hdrOf w) (w.extractLsb' 12 6) (w.extractLsb' 6 6))
  | 0x7 => some (.scmp (hdrOf w) (w.extractLsb' 15 3) (w.extractLsb' 12 3) (w.extractLsb' 6 6) (w.extractLsb' 0 6))
  | 0x8 => some (.scmpi (hdrOf w) (w.extractLsb' 15 3) (w.extractLsb' 12 3) (w.extractLsb' 6 6) (w.extractLsb' 0 6))
  | 0x9 => some (.ssel (hdrOf w) (w.extractLsb' 12 6) (w.extractLsb' 6 6) (w.extractLsb' 0 6))
  | 0xA => some (.smin (hdrOf w) (w.extractLsb' 12 6) (w.extractLsb' 6 6) (w.extractLsb' 0 6))
  | 0xB => some (.smax (hdrOf w) (w.extractLsb' 12 6) (w.extractLsb' 6 6) (w.extractLsb' 0 6))
  | 0xC => some (.sclz (hdrOf w) (w.extractLsb' 12 6) (w.extractLsb' 6 6))
  | 0xD => some (.spopc (hdrOf w) (w.extractLsb' 12 6) (w.extractLsb' 6 6))
  | 0xE => some (.slea (hdrOf w) (w.extractLsb' 12 6) (w.extractLsb' 6 6) (w.extractLsb' 0 6))
  | 0xF => some (.sget (hdrOf w) (w.extractLsb' 12 6) (w.extractLsb' 6 6) (w.extractLsb' 0 6))
  | _ => none

/-- Opcodes 0x30 to 0x3F of the map (R51). -/
def readRow3 (w : W32) : Option Instr :=
  match (w.extractLsb' 18 4).toNat with
  | 0x0 => some (.sbc (hdrOf w) (w.extractLsb' 12 6) (w.extractLsb' 6 6))
  | 0x1 => some (.smask (hdrOf w) (w.extractLsb' 12 6) (w.extractLsb' 6 6) (w.extractLsb' 0 6))
  | 0x2 =>
    match (w.extractLsb' 5 1).toNat with
    | 0 => some (.spredToS (hdrOf w) (w.extractLsb' 12 6) (w.extractLsb' 6 3))
    | 1 => some (.spredToP (hdrOf w) (w.extractLsb' 12 3) (w.extractLsb' 6 6))
    | _ => none
  | 0x3 => some (.sld (hdrOf w) (w.extractLsb' 12 6) (w.extractLsb' 6 6) (w.extractLsb' 0 3))
  | 0x4 => some (.sst (hdrOf w) (w.extractLsb' 12 6) (w.extractLsb' 6 6) (w.extractLsb' 0 3))
  | 0x5 => some (.bufld (hdrOf w) (w.extractLsb' 12 6) (w.extractLsb' 6 6) (w.extractLsb' 0 6))
  | 0x8 => some (.vadd (hdrOf w) (w.extractLsb' 18 2) (w.extractLsb' 12 6) (w.extractLsb' 6 6) (w.extractLsb' 0 6))
  | 0x9 => some (.vadd (hdrOf w) (w.extractLsb' 18 2) (w.extractLsb' 12 6) (w.extractLsb' 6 6) (w.extractLsb' 0 6))
  | 0xA => some (.vadd (hdrOf w) (w.extractLsb' 18 2) (w.extractLsb' 12 6) (w.extractLsb' 6 6) (w.extractLsb' 0 6))
  | 0xB => some (.vadd (hdrOf w) (w.extractLsb' 18 2) (w.extractLsb' 12 6) (w.extractLsb' 6 6) (w.extractLsb' 0 6))
  | 0xC => some (.vsub (hdrOf w) (w.extractLsb' 18 2) (w.extractLsb' 12 6) (w.extractLsb' 6 6) (w.extractLsb' 0 6))
  | 0xD => some (.vsub (hdrOf w) (w.extractLsb' 18 2) (w.extractLsb' 12 6) (w.extractLsb' 6 6) (w.extractLsb' 0 6))
  | 0xE => some (.vsub (hdrOf w) (w.extractLsb' 18 2) (w.extractLsb' 12 6) (w.extractLsb' 6 6) (w.extractLsb' 0 6))
  | 0xF => some (.vsub (hdrOf w) (w.extractLsb' 18 2) (w.extractLsb' 12 6) (w.extractLsb' 6 6) (w.extractLsb' 0 6))
  | _ => none

/-- Opcodes 0x40 to 0x4F of the map (R51). -/
def readRow4 (w : W32) : Option Instr :=
  match (w.extractLsb' 18 4).toNat with
  | 0x0 => some (.vmul (hdrOf w) (w.extractLsb' 18 2) (w.extractLsb' 12 6) (w.extractLsb' 6 6) (w.extractLsb' 0 6))
  | 0x1 => some (.vmul (hdrOf w) (w.extractLsb' 18 2) (w.extractLsb' 12 6) (w.extractLsb' 6 6) (w.extractLsb' 0 6))
  | 0x2 => some (.vmul (hdrOf w) (w.extractLsb' 18 2) (w.extractLsb' 12 6) (w.extractLsb' 6 6) (w.extractLsb' 0 6))
  | 0x3 => some (.vmul (hdrOf w) (w.extractLsb' 18 2) (w.extractLsb' 12 6) (w.extractLsb' 6 6) (w.extractLsb' 0 6))
  | 0x4 => some (.vfma (hdrOf w) (w.extractLsb' 18 2) (w.extractLsb' 12 6) (w.extractLsb' 6 6) (w.extractLsb' 0 6))
  | 0x5 => some (.vfma (hdrOf w) (w.extractLsb' 18 2) (w.extractLsb' 12 6) (w.extractLsb' 6 6) (w.extractLsb' 0 6))
  | 0x6 => some (.vfma (hdrOf w) (w.extractLsb' 18 2) (w.extractLsb' 12 6) (w.extractLsb' 6 6) (w.extractLsb' 0 6))
  | 0x7 => some (.vfma (hdrOf w) (w.extractLsb' 18 2) (w.extractLsb' 12 6) (w.extractLsb' 6 6) (w.extractLsb' 0 6))
  | 0x8 => some (.vmin (hdrOf w) (w.extractLsb' 18 2) (w.extractLsb' 12 6) (w.extractLsb' 6 6) (w.extractLsb' 0 6))
  | 0x9 => some (.vmin (hdrOf w) (w.extractLsb' 18 2) (w.extractLsb' 12 6) (w.extractLsb' 6 6) (w.extractLsb' 0 6))
  | 0xA => some (.vmin (hdrOf w) (w.extractLsb' 18 2) (w.extractLsb' 12 6) (w.extractLsb' 6 6) (w.extractLsb' 0 6))
  | 0xB => some (.vmin (hdrOf w) (w.extractLsb' 18 2) (w.extractLsb' 12 6) (w.extractLsb' 6 6) (w.extractLsb' 0 6))
  | 0xC => some (.vmax (hdrOf w) (w.extractLsb' 18 2) (w.extractLsb' 12 6) (w.extractLsb' 6 6) (w.extractLsb' 0 6))
  | 0xD => some (.vmax (hdrOf w) (w.extractLsb' 18 2) (w.extractLsb' 12 6) (w.extractLsb' 6 6) (w.extractLsb' 0 6))
  | 0xE => some (.vmax (hdrOf w) (w.extractLsb' 18 2) (w.extractLsb' 12 6) (w.extractLsb' 6 6) (w.extractLsb' 0 6))
  | 0xF => some (.vmax (hdrOf w) (w.extractLsb' 18 2) (w.extractLsb' 12 6) (w.extractLsb' 6 6) (w.extractLsb' 0 6))
  | _ => none

/-- Opcodes 0x50 to 0x5F of the map (R51). -/
def readRow5 (w : W32) : Option Instr :=
  match (w.extractLsb' 18 4).toNat with
  | 0x0 => some (.vcmp (hdrOf w) (w.extractLsb' 18 2) (w.extractLsb' 15 3) (w.extractLsb' 12 3) (w.extractLsb' 6 6) (w.extractLsb' 0 6))
  | 0x1 => some (.vcmp (hdrOf w) (w.extractLsb' 18 2) (w.extractLsb' 15 3) (w.extractLsb' 12 3) (w.extractLsb' 6 6) (w.extractLsb' 0 6))
  | 0x2 => some (.vcmp (hdrOf w) (w.extractLsb' 18 2) (w.extractLsb' 15 3) (w.extractLsb' 12 3) (w.extractLsb' 6 6) (w.extractLsb' 0 6))
  | 0x3 => some (.vcmp (hdrOf w) (w.extractLsb' 18 2) (w.extractLsb' 15 3) (w.extractLsb' 12 3) (w.extractLsb' 6 6) (w.extractLsb' 0 6))
  | 0x4 => some (.vabs (hdrOf w) (w.extractLsb' 18 2) (w.extractLsb' 12 6) (w.extractLsb' 6 6))
  | 0x5 => some (.vabs (hdrOf w) (w.extractLsb' 18 2) (w.extractLsb' 12 6) (w.extractLsb' 6 6))
  | 0x6 => some (.vabs (hdrOf w) (w.extractLsb' 18 2) (w.extractLsb' 12 6) (w.extractLsb' 6 6))
  | 0x7 => some (.vabs (hdrOf w) (w.extractLsb' 18 2) (w.extractLsb' 12 6) (w.extractLsb' 6 6))
  | 0x8 => some (.vneg (hdrOf w) (w.extractLsb' 18 2) (w.extractLsb' 12 6) (w.extractLsb' 6 6))
  | 0x9 => some (.vneg (hdrOf w) (w.extractLsb' 18 2) (w.extractLsb' 12 6) (w.extractLsb' 6 6))
  | 0xA => some (.vneg (hdrOf w) (w.extractLsb' 18 2) (w.extractLsb' 12 6) (w.extractLsb' 6 6))
  | 0xB => some (.vneg (hdrOf w) (w.extractLsb' 18 2) (w.extractLsb' 12 6) (w.extractLsb' 6 6))
  | 0xC => some (.vmulh (hdrOf w) (w.extractLsb' 18 2) (w.extractLsb' 12 6) (w.extractLsb' 6 6) (w.extractLsb' 0 6))
  | 0xD => some (.vmulh (hdrOf w) (w.extractLsb' 18 2) (w.extractLsb' 12 6) (w.extractLsb' 6 6) (w.extractLsb' 0 6))
  | 0xE => some (.vmulh (hdrOf w) (w.extractLsb' 18 2) (w.extractLsb' 12 6) (w.extractLsb' 6 6) (w.extractLsb' 0 6))
  | 0xF => some (.vmulh (hdrOf w) (w.extractLsb' 18 2) (w.extractLsb' 12 6) (w.extractLsb' 6 6) (w.extractLsb' 0 6))
  | _ => none

/-- Opcodes 0x60 to 0x6F of the map (R51). -/
def readRow6 (w : W32) : Option Instr :=
  match (w.extractLsb' 18 4).toNat with
  | 0x0 => some (.vamin (hdrOf w) (w.extractLsb' 18 2) (w.extractLsb' 12 6) (w.extractLsb' 6 6) (w.extractLsb' 0 6))
  | 0x1 => some (.vamin (hdrOf w) (w.extractLsb' 18 2) (w.extractLsb' 12 6) (w.extractLsb' 6 6) (w.extractLsb' 0 6))
  | 0x2 => some (.vamin (hdrOf w) (w.extractLsb' 18 2) (w.extractLsb' 12 6) (w.extractLsb' 6 6) (w.extractLsb' 0 6))
  | 0x3 => some (.vamin (hdrOf w) (w.extractLsb' 18 2) (w.extractLsb' 12 6) (w.extractLsb' 6 6) (w.extractLsb' 0 6))
  | 0x4 => some (.vamax (hdrOf w) (w.extractLsb' 18 2) (w.extractLsb' 12 6) (w.extractLsb' 6 6) (w.extractLsb' 0 6))
  | 0x5 => some (.vamax (hdrOf w) (w.extractLsb' 18 2) (w.extractLsb' 12 6) (w.extractLsb' 6 6) (w.extractLsb' 0 6))
  | 0x6 => some (.vamax (hdrOf w) (w.extractLsb' 18 2) (w.extractLsb' 12 6) (w.extractLsb' 6 6) (w.extractLsb' 0 6))
  | 0x7 => some (.vamax (hdrOf w) (w.extractLsb' 18 2) (w.extractLsb' 12 6) (w.extractLsb' 6 6) (w.extractLsb' 0 6))
  | 0x8 => some (.vdp4 (hdrOf w) (w.extractLsb' 18 2) (w.extractLsb' 12 6) (w.extractLsb' 6 6) (w.extractLsb' 0 6))
  | 0x9 => some (.vdp4 (hdrOf w) (w.extractLsb' 18 2) (w.extractLsb' 12 6) (w.extractLsb' 6 6) (w.extractLsb' 0 6))
  | 0xA => some (.vdp4 (hdrOf w) (w.extractLsb' 18 2) (w.extractLsb' 12 6) (w.extractLsb' 6 6) (w.extractLsb' 0 6))
  | 0xB => some (.vdp4 (hdrOf w) (w.extractLsb' 18 2) (w.extractLsb' 12 6) (w.extractLsb' 6 6) (w.extractLsb' 0 6))
  | 0xC => some (.vshl (hdrOf w) (w.extractLsb' 18 2) (w.extractLsb' 12 6) (w.extractLsb' 6 6) (w.extractLsb' 0 6))
  | 0xD => some (.vshl (hdrOf w) (w.extractLsb' 18 2) (w.extractLsb' 12 6) (w.extractLsb' 6 6) (w.extractLsb' 0 6))
  | 0xE => some (.vshl (hdrOf w) (w.extractLsb' 18 2) (w.extractLsb' 12 6) (w.extractLsb' 6 6) (w.extractLsb' 0 6))
  | 0xF => some (.vshl (hdrOf w) (w.extractLsb' 18 2) (w.extractLsb' 12 6) (w.extractLsb' 6 6) (w.extractLsb' 0 6))
  | _ => none

/-- Opcodes 0x70 to 0x7F of the map (R51). -/
def readRow7 (w : W32) : Option Instr :=
  match (w.extractLsb' 18 4).toNat with
  | 0x0 => some (.vshr (hdrOf w) (w.extractLsb' 18 2) (w.extractLsb' 12 6) (w.extractLsb' 6 6) (w.extractLsb' 0 6))
  | 0x1 => some (.vshr (hdrOf w) (w.extractLsb' 18 2) (w.extractLsb' 12 6) (w.extractLsb' 6 6) (w.extractLsb' 0 6))
  | 0x2 => some (.vshr (hdrOf w) (w.extractLsb' 18 2) (w.extractLsb' 12 6) (w.extractLsb' 6 6) (w.extractLsb' 0 6))
  | 0x3 => some (.vshr (hdrOf w) (w.extractLsb' 18 2) (w.extractLsb' 12 6) (w.extractLsb' 6 6) (w.extractLsb' 0 6))
  | 0x4 => some (.vrint (hdrOf w) (w.extractLsb' 18 2) (w.extractLsb' 12 6) (w.extractLsb' 6 6))
  | 0x5 => some (.vrint (hdrOf w) (w.extractLsb' 18 2) (w.extractLsb' 12 6) (w.extractLsb' 6 6))
  | 0x6 => some (.vrint (hdrOf w) (w.extractLsb' 18 2) (w.extractLsb' 12 6) (w.extractLsb' 6 6))
  | 0x7 => some (.vrint (hdrOf w) (w.extractLsb' 18 2) (w.extractLsb' 12 6) (w.extractLsb' 6 6))
  | 0x8 => some (.vclamp (hdrOf w) (w.extractLsb' 18 2) (w.extractLsb' 12 6) (w.extractLsb' 6 6) (w.extractLsb' 0 6))
  | 0x9 => some (.vclamp (hdrOf w) (w.extractLsb' 18 2) (w.extractLsb' 12 6) (w.extractLsb' 6 6) (w.extractLsb' 0 6))
  | 0xA => some (.vclamp (hdrOf w) (w.extractLsb' 18 2) (w.extractLsb' 12 6) (w.extractLsb' 6 6) (w.extractLsb' 0 6))
  | 0xB => some (.vclamp (hdrOf w) (w.extractLsb' 18 2) (w.extractLsb' 12 6) (w.extractLsb' 6 6) (w.extractLsb' 0 6))
  | _ => none

/-- Opcodes 0x80 to 0x8F of the map (R51). -/
def readRow8 (w : W32) : Option Instr :=
  match (w.extractLsb' 18 4).toNat with
  | 0x0 => some (.vand (hdrOf w) (w.extractLsb' 12 6) (w.extractLsb' 6 6) (w.extractLsb' 0 6))
  | 0x1 => some (.vor (hdrOf w) (w.extractLsb' 12 6) (w.extractLsb' 6 6) (w.extractLsb' 0 6))
  | 0x2 => some (.vxor (hdrOf w) (w.extractLsb' 12 6) (w.extractLsb' 6 6) (w.extractLsb' 0 6))
  | 0x3 => some (.vandn (hdrOf w) (w.extractLsb' 12 6) (w.extractLsb' 6 6) (w.extractLsb' 0 6))
  | 0x4 => some (.vmov (hdrOf w) (w.extractLsb' 12 6) (w.extractLsb' 6 6))
  | 0x5 => some (.vmovi (hdrOf w) (w.extractLsb' 12 6) (w.extractLsb' 0 6))
  | 0x6 => some (.vsel (hdrOf w) (w.extractLsb' 12 6) (w.extractLsb' 6 6) (w.extractLsb' 0 6))
  | 0x7 => some (.vcvt (hdrOf w) (w.extractLsb' 12 6) (w.extractLsb' 6 6) (w.extractLsb' 4 2) (w.extractLsb' 2 2) (w.extractLsb' 0 2))
  | 0x8 => some (.vpack (hdrOf w) (w.extractLsb' 12 6) (w.extractLsb' 6 6) (w.extractLsb' 0 6))
  | 0x9 =>
    match (w.extractLsb' 0 2).toNat with
    | 0 => some (.unpackNibbles (hdrOf w) (w.extractLsb' 12 6) (w.extractLsb' 6 6))
    | 1 => some (.unpackHighBits (hdrOf w) (w.extractLsb' 12 6) (w.extractLsb' 6 6))
    | 2 => some (.unpackWiden (hdrOf w) (w.extractLsb' 12 6) (w.extractLsb' 6 6))
    | _ => none
  | 0xA => some (.vclz (hdrOf w) (w.extractLsb' 12 6) (w.extractLsb' 6 6) (w.extractLsb' 0 3))
  | 0xB => some (.vpopc (hdrOf w) (w.extractLsb' 12 6) (w.extractLsb' 6 6) (w.extractLsb' 0 3))
  | 0xC => some (.vbrev (hdrOf w) (w.extractLsb' 12 6) (w.extractLsb' 6 6) (w.extractLsb' 0 3))
  | 0xD => some (.vperm (hdrOf w) (w.extractLsb' 12 6) (w.extractLsb' 6 6) (w.extractLsb' 0 6))
  | 0xE => some (.vlane (hdrOf w) (w.extractLsb' 12 6) (w.extractLsb' 0 3))
  | _ => none

/-- Opcodes 0xA0 to 0xAF of the map (R51). -/
def readRowA (w : W32) : Option Instr :=
  match (w.extractLsb' 18 4).toNat with
  | 0x0 => some (.rcp (hdrOf w) (w.extractLsb' 12 6) (w.extractLsb' 6 6) (w.extractLsb' 0 2))
  | 0x1 => some (.rsqrt (hdrOf w) (w.extractLsb' 12 6) (w.extractLsb' 6 6) (w.extractLsb' 0 2))
  | 0x2 => some (.sqrt (hdrOf w) (w.extractLsb' 12 6) (w.extractLsb' 6 6) (w.extractLsb' 0 2))
  | 0x3 => some (.exp2 (hdrOf w) (w.extractLsb' 12 6) (w.extractLsb' 6 6) (w.extractLsb' 0 2))
  | 0x4 => some (.log2 (hdrOf w) (w.extractLsb' 12 6) (w.extractLsb' 6 6) (w.extractLsb' 0 2))
  | 0x5 => some (.sin (hdrOf w) (w.extractLsb' 12 6) (w.extractLsb' 6 6) (w.extractLsb' 0 2))
  | 0x6 => some (.cos (hdrOf w) (w.extractLsb' 12 6) (w.extractLsb' 6 6) (w.extractLsb' 0 2))
  | 0x7 => some (.tanh (hdrOf w) (w.extractLsb' 12 6) (w.extractLsb' 6 6) (w.extractLsb' 0 2))
  | 0x8 => some (.erf (hdrOf w) (w.extractLsb' 12 6) (w.extractLsb' 6 6) (w.extractLsb' 0 2))
  | 0x9 => some (.exd (hdrOf w) (w.extractLsb' 12 6) (w.extractLsb' 6 6) (w.extractLsb' 0 2))
  | _ => none

/-- Opcodes 0xB0 to 0xBF of the map (R51). -/
def readRowB (w : W32) : Option Instr :=
  match (w.extractLsb' 18 4).toNat with
  | 0x0 => some (.shfl (hdrOf w) (w.extractLsb' 12 6) (w.extractLsb' 6 6) (w.extractLsb' 0 6))
  | 0x1 => some (.shfli (hdrOf w) (w.extractLsb' 12 6) (w.extractLsb' 6 6) (w.extractLsb' 0 6))
  | 0x2 => some (.bcast (hdrOf w) (w.extractLsb' 12 6) (w.extractLsb' 6 6) (w.extractLsb' 0 6))
  | 0x3 =>
    match (w.extractLsb' 0 3).toNat with
    | 0 => some (.voteOr (hdrOf w) (w.extractLsb' 12 3) (w.extractLsb' 6 3))
    | 1 => some (.voteAnd (hdrOf w) (w.extractLsb' 12 3) (w.extractLsb' 6 3))
    | 2 => some (.voteMask (hdrOf w) (w.extractLsb' 12 6) (w.extractLsb' 6 3))
    | 3 => some (.voteSame (hdrOf w) (w.extractLsb' 12 3) (w.extractLsb' 6 6))
    | 4 => some (.voteCnt (hdrOf w) (w.extractLsb' 12 6) (w.extractLsb' 6 3))
    | _ => none
  | 0x4 => some (.red (hdrOf w) (w.extractLsb' 12 6) (w.extractLsb' 6 6) (w.extractLsb' 5 1) (w.extractLsb' 2 3) (w.extractLsb' 0 2))
  | 0x5 => some (.scan (hdrOf w) (w.extractLsb' 12 6) (w.extractLsb' 6 6) (w.extractLsb' 5 1) (w.extractLsb' 2 3) (w.extractLsb' 0 2))
  | 0x6 => some (.redseg (hdrOf w) (w.extractLsb' 12 6) (w.extractLsb' 6 6) (w.extractLsb' 2 3) (w.extractLsb' 0 2))
  | 0x7 => some (.xswap (hdrOf w) (w.extractLsb' 12 6) (w.extractLsb' 6 6) (w.extractLsb' 0 6))
  | 0x8 => some (.vmatch (hdrOf w) (w.extractLsb' 12 6) (w.extractLsb' 6 6) (w.extractLsb' 0 2))
  | 0x9 => some (.vcompact (hdrOf w) (w.extractLsb' 12 6) (w.extractLsb' 6 6))
  | _ => none

/-- Opcodes 0xC0 to 0xCF of the map (R51). -/
def readRowC (w : W32) : Option Instr :=
  match (w.extractLsb' 18 4).toNat with
  | 0x0 => some (.ldl (hdrOf w) (w.extractLsb' 18 2) (w.extractLsb' 12 6) (w.extractLsb' 6 6) (w.extractLsb' 3 3) (w.extractLsb' 0 3))
  | 0x1 => some (.ldl (hdrOf w) (w.extractLsb' 18 2) (w.extractLsb' 12 6) (w.extractLsb' 6 6) (w.extractLsb' 3 3) (w.extractLsb' 0 3))
  | 0x2 => some (.ldl (hdrOf w) (w.extractLsb' 18 2) (w.extractLsb' 12 6) (w.extractLsb' 6 6) (w.extractLsb' 3 3) (w.extractLsb' 0 3))
  | 0x3 => some (.ldl (hdrOf w) (w.extractLsb' 18 2) (w.extractLsb' 12 6) (w.extractLsb' 6 6) (w.extractLsb' 3 3) (w.extractLsb' 0 3))
  | 0x4 => some (.ldc (hdrOf w) (w.extractLsb' 18 2) (w.extractLsb' 12 6) (w.extractLsb' 6 6) (w.extractLsb' 3 3) (w.extractLsb' 0 3))
  | 0x5 => some (.ldc (hdrOf w) (w.extractLsb' 18 2) (w.extractLsb' 12 6) (w.extractLsb' 6 6) (w.extractLsb' 3 3) (w.extractLsb' 0 3))
  | 0x6 => some (.ldc (hdrOf w) (w.extractLsb' 18 2) (w.extractLsb' 12 6) (w.extractLsb' 6 6) (w.extractLsb' 3 3) (w.extractLsb' 0 3))
  | 0x7 => some (.ldc (hdrOf w) (w.extractLsb' 18 2) (w.extractLsb' 12 6) (w.extractLsb' 6 6) (w.extractLsb' 3 3) (w.extractLsb' 0 3))
  | 0x8 => some (.ldk (hdrOf w) (w.extractLsb' 18 2) (w.extractLsb' 12 6) (w.extractLsb' 6 6) (w.extractLsb' 0 3))
  | 0x9 => some (.ldk (hdrOf w) (w.extractLsb' 18 2) (w.extractLsb' 12 6) (w.extractLsb' 6 6) (w.extractLsb' 0 3))
  | 0xA => some (.ldk (hdrOf w) (w.extractLsb' 18 2) (w.extractLsb' 12 6) (w.extractLsb' 6 6) (w.extractLsb' 0 3))
  | 0xB => some (.ldk (hdrOf w) (w.extractLsb' 18 2) (w.extractLsb' 12 6) (w.extractLsb' 6 6) (w.extractLsb' 0 3))
  | 0xC => some (.ldg (hdrOf w) (w.extractLsb' 18 2) (w.extractLsb' 12 6) (w.extractLsb' 6 6) (w.extractLsb' 0 3))
  | 0xD => some (.ldg (hdrOf w) (w.extractLsb' 18 2) (w.extractLsb' 12 6) (w.extractLsb' 6 6) (w.extractLsb' 0 3))
  | 0xE => some (.ldg (hdrOf w) (w.extractLsb' 18 2) (w.extractLsb' 12 6) (w.extractLsb' 6 6) (w.extractLsb' 0 3))
  | 0xF => some (.ldg (hdrOf w) (w.extractLsb' 18 2) (w.extractLsb' 12 6) (w.extractLsb' 6 6) (w.extractLsb' 0 3))
  | _ => none

/-- Opcodes 0xD0 to 0xDF of the map (R51). -/
def readRowD (w : W32) : Option Instr :=
  match (w.extractLsb' 18 4).toNat with
  | 0x0 => some (.stl (hdrOf w) (w.extractLsb' 18 2) (w.extractLsb' 12 6) (w.extractLsb' 6 6) (w.extractLsb' 3 3) (w.extractLsb' 0 3))
  | 0x1 => some (.stl (hdrOf w) (w.extractLsb' 18 2) (w.extractLsb' 12 6) (w.extractLsb' 6 6) (w.extractLsb' 3 3) (w.extractLsb' 0 3))
  | 0x2 => some (.stl (hdrOf w) (w.extractLsb' 18 2) (w.extractLsb' 12 6) (w.extractLsb' 6 6) (w.extractLsb' 3 3) (w.extractLsb' 0 3))
  | 0x3 => some (.stl (hdrOf w) (w.extractLsb' 18 2) (w.extractLsb' 12 6) (w.extractLsb' 6 6) (w.extractLsb' 3 3) (w.extractLsb' 0 3))
  | 0x4 => some (.stc (hdrOf w) (w.extractLsb' 18 2) (w.extractLsb' 12 6) (w.extractLsb' 6 6) (w.extractLsb' 3 3) (w.extractLsb' 0 3))
  | 0x5 => some (.stc (hdrOf w) (w.extractLsb' 18 2) (w.extractLsb' 12 6) (w.extractLsb' 6 6) (w.extractLsb' 3 3) (w.extractLsb' 0 3))
  | 0x6 => some (.stc (hdrOf w) (w.extractLsb' 18 2) (w.extractLsb' 12 6) (w.extractLsb' 6 6) (w.extractLsb' 3 3) (w.extractLsb' 0 3))
  | 0x7 => some (.stc (hdrOf w) (w.extractLsb' 18 2) (w.extractLsb' 12 6) (w.extractLsb' 6 6) (w.extractLsb' 3 3) (w.extractLsb' 0 3))
  | 0x8 => some (.stk (hdrOf w) (w.extractLsb' 18 2) (w.extractLsb' 12 6) (w.extractLsb' 6 6) (w.extractLsb' 0 3))
  | 0x9 => some (.stk (hdrOf w) (w.extractLsb' 18 2) (w.extractLsb' 12 6) (w.extractLsb' 6 6) (w.extractLsb' 0 3))
  | 0xA => some (.stk (hdrOf w) (w.extractLsb' 18 2) (w.extractLsb' 12 6) (w.extractLsb' 6 6) (w.extractLsb' 0 3))
  | 0xB => some (.stk (hdrOf w) (w.extractLsb' 18 2) (w.extractLsb' 12 6) (w.extractLsb' 6 6) (w.extractLsb' 0 3))
  | 0xC => some (.stg (hdrOf w) (w.extractLsb' 18 2) (w.extractLsb' 12 6) (w.extractLsb' 6 6) (w.extractLsb' 0 3))
  | 0xD => some (.stg (hdrOf w) (w.extractLsb' 18 2) (w.extractLsb' 12 6) (w.extractLsb' 6 6) (w.extractLsb' 0 3))
  | 0xE => some (.stg (hdrOf w) (w.extractLsb' 18 2) (w.extractLsb' 12 6) (w.extractLsb' 6 6) (w.extractLsb' 0 3))
  | 0xF => some (.stg (hdrOf w) (w.extractLsb' 18 2) (w.extractLsb' 12 6) (w.extractLsb' 6 6) (w.extractLsb' 0 3))
  | _ => none

/-- Opcodes 0xE0 to 0xEF of the map (R51). -/
def readRowE (w : W32) : Option Instr :=
  match (w.extractLsb' 18 4).toNat with
  | 0x0 => some (.ldbD (hdrOf w) (w.extractLsb' 12 6) (w.extractLsb' 6 6) (w.extractLsb' 0 3))
  | 0x1 => some (.ldbQ (hdrOf w) (w.extractLsb' 12 6) (w.extractLsb' 6 6) (w.extractLsb' 0 3))
  | 0x2 => some (.atomg (hdrOf w) (w.extractLsb' 12 6) (w.extractLsb' 6 6) (w.extractLsb' 0 3))
  | 0x3 => some (.atoml (hdrOf w) (w.extractLsb' 12 6) (w.extractLsb' 6 6) (w.extractLsb' 3 3) (w.extractLsb' 0 3))
  | 0x4 => some (.atomc (hdrOf w) (w.extractLsb' 12 6) (w.extractLsb' 6 6) (w.extractLsb' 3 3) (w.extractLsb' 0 3))
  | 0x5 => some (.redg (hdrOf w) (w.extractLsb' 12 6) (w.extractLsb' 6 6) (w.extractLsb' 0 3))
  | 0x6 => some (.redc (hdrOf w) (w.extractLsb' 12 6) (w.extractLsb' 6 6) (w.extractLsb' 3 3) (w.extractLsb' 0 3))
  | 0x7 =>
    match (w.extractLsb' 3 2).toNat with
    | 0 => some (.fenceAcq (hdrOf w) (w.extractLsb' 0 3))
    | 1 => some (.fenceRel (hdrOf w) (w.extractLsb' 0 3))
    | 2 => some (.fenceAr (hdrOf w) (w.extractLsb' 0 3))
    | 3 => some (.fenceSc (hdrOf w) (w.extractLsb' 0 3))
    | _ => none
  | 0x8 => some (.boset (hdrOf w) (w.extractLsb' 12 6) (w.extractLsb' 6 6) (w.extractLsb' 3 2) (w.extractLsb' 0 3))
  | 0x9 => some (.bomark (hdrOf w) (w.extractLsb' 12 6) (w.extractLsb' 6 6) (w.extractLsb' 3 2) (w.extractLsb' 0 3))
  | 0xA => some (.boadd (hdrOf w) (w.extractLsb' 12 6) (w.extractLsb' 6 6) (w.extractLsb' 3 2) (w.extractLsb' 0 3))
  | 0xB => some (.bowait (hdrOf w) (w.extractLsb' 12 6) (w.extractLsb' 6 6) (w.extractLsb' 3 2) (w.extractLsb' 0 3))
  | 0xC => some (.bopeek (hdrOf w) (w.extractLsb' 12 6) (w.extractLsb' 6 6) (w.extractLsb' 3 2) (w.extractLsb' 0 3))
  | 0xD => some (.bar (hdrOf w) (w.extractLsb' 6 6) (w.extractLsb' 0 4))
  | 0xE => some (.ldrag (hdrOf w) (w.extractLsb' 12 6) (w.extractLsb' 6 6) (w.extractLsb' 3 3) (w.extractLsb' 0 3))
  | 0xF => some (.prf (hdrOf w) (w.extractLsb' 14 4) (w.extractLsb' 12 2) (w.extractLsb' 6 6) (w.extractLsb' 0 3))
  | _ => none

/-- Opcodes 0xF0 to 0xFF of the map (R51). -/
def readRowF (w : W32) : Option Instr :=
  match (w.extractLsb' 18 4).toNat with
  | 0x0 => some (.cp (hdrOf w) (w.extractLsb' 12 6) (w.extractLsb' 6 6) (w.extractLsb' 0 6))
  | 0x1 => some (.cpm (hdrOf w) (w.extractLsb' 12 6) (w.extractLsb' 6 6) (w.extractLsb' 0 6))
  | 0x2 => some (.wld (hdrOf w) (w.extractLsb' 12 6) (w.extractLsb' 6 6))
  | 0x3 => some (.wldt (hdrOf w) (w.extractLsb' 12 6) (w.extractLsb' 6 6))
  | 0x4 => some (.mma (hdrOf w) (w.extractLsb' 12 6) (w.extractLsb' 6 6))
  | 0x5 => some (.mmarx (hdrOf w) (w.extractLsb' 6 6))
  | 0x6 => some (.aread (hdrOf w) (w.extractLsb' 12 6) (w.extractLsb' 6 6) (w.extractLsb' 0 6))
  | 0x7 => some (.azero (hdrOf w) (w.extractLsb' 6 6))
  | 0x8 => some (.ttr (hdrOf w) (w.extractLsb' 12 6) (w.extractLsb' 6 6) (w.extractLsb' 0 6))
  | 0x9 => some (.tscl (hdrOf w) (w.extractLsb' 6 6))
  | 0xA => some (.tcvt (hdrOf w) (w.extractLsb' 12 6) (w.extractLsb' 6 6) (w.extractLsb' 0 6))
  | 0xB =>
    match (w.extractLsb' 0 2).toNat with
    | 0 => some (.batonTake (hdrOf w))
    | 1 => some (.batonGive (hdrOf w))
    | 2 => some (.batonTry (hdrOf w) (w.extractLsb' 12 6))
    | 3 => some (.batonOvf (hdrOf w) (w.extractLsb' 12 6))
    | _ => none
  | 0xC =>
    match (w.extractLsb' 0 3).toNat with
    | 0 => some (.rwctlOff (hdrOf w))
    | 1 => some (.rwctlOn (hdrOf w))
    | 2 => some (.rwctlFlush (hdrOf w))
    | 3 => some (.rwctlMask (hdrOf w) (w.extractLsb' 6 6))
    | 4 => some (.rwctlCnt (hdrOf w) (w.extractLsb' 12 6) (w.extractLsb' 6 6))
    | 5 => some (.rwctlClr (hdrOf w))
    | _ => none
  | 0xD => some (.tfill (hdrOf w) (w.extractLsb' 12 6) (w.extractLsb' 6 6) (w.extractLsb' 0 6))
  | _ => none

/-- The instruction the opcode of a word names, its fields read where the format puts them (R45, R51);
none for a reserved opcode or sub-code. -/
def readWord (w : W32) : Option Instr :=
  match (w.extractLsb' 22 4).toNat with
  | 0x0 => readRow0 w
  | 0x1 => readRow1 w
  | 0x2 => readRow2 w
  | 0x3 => readRow3 w
  | 0x4 => readRow4 w
  | 0x5 => readRow5 w
  | 0x6 => readRow6 w
  | 0x7 => readRow7 w
  | 0x8 => readRow8 w
  | 0xA => readRowA w
  | 0xB => readRowB w
  | 0xC => readRowC w
  | 0xD => readRowD w
  | 0xE => readRowE w
  | 0xF => readRowF w
  | _ => none

/-- Why a word is no instruction (R52); every one of these traps ILLEGAL. -/
inductive DecodeError where
  /-- A reserved opcode or a reserved sub-code of an opcode. -/
  | reserved
  /-- A nonzero bit in a field that the instruction does not use. -/
  | unusedField
  /-- A guard, reuse bit, code or register number the instruction does not allow. -/
  | illFormed
  /-- The bytes are no whole word. -/
  | truncated
  deriving DecidableEq, Repr

/-- The instruction of a word, or why there is none (R51, R52). -/
def decodeWord (w : W32) : Except DecodeError Instr :=
  match readWord w with
  | none => .error .reserved
  | some i => if encode i = some w then (if i.wf then .ok i else .error .illFormed) else .error .unusedField

/-- The instruction at the head of a byte string, with the bytes that follow it: a word is four bytes,
least significant first (R4, R38). -/
def decode : List Byte → Except DecodeError (Instr × List Byte)
  | b0 :: b1 :: b2 :: b3 :: rest => (decodeWord (b3 ++ b2 ++ b1 ++ b0)).map fun i => (i, rest)
  | _ => .error .truncated

/-- The host's question: the instruction read from a word numbered as the opcode table numbers it. -/
def decodeTableWord (nbits w : Nat) : Option Instr :=
  if nbits = 32 then
    match decode (leBytes w 4) with
    | .ok (i, _) => some i
    | .error _ => none
  else none

end Sys2Proof
end

