-- ==== Sys2Proof/Config.lean ====
section
/-! DEFINITION. What one JX-840 fixes, and the values the spec leaves free. A free value is an opaque constant with
no body: nothing can compute it, so a theorem about it holds whatever it is. -/

/-- An error in a store of the device (R403): the unit and the place as a log entry names them, an address in it, laid out
as the entry's (R405), and whether the store's code corrects it. -/
structure Sys2Proof.Upset where
  unit : Nat
  place : Nat
  addr : Nat
  fixed : Bool
  syndrome : Nat
  deriving DecidableEq, Repr

namespace Sys2Proof.Config

/-- The number of core cycles that have passed when a step observes a cycle count: free (log 4). -/
opaque elapsed : Nat → Nat
/-- A counter's events since it was last observed: free (R123, R272; log 4). -/
opaque counted : Nat → Nat
/-- The value a special function delivers, given the function's number, the descriptor and the operand
elements: free inside the bound of R189 (log 6). -/
opaque approx : Nat → Word → Nat → Nat → Nat
/-- The SM3 digest of a byte string (R241, R372, R377): uninterpreted (log 14). -/
opaque sm3 : List Byte → BitVec 256
/-- Whether an SM2 signature of a digest verifies under the key a table or image names (R241, R372; log 14). -/
opaque sm2Verifies : BitVec 256 → BitVec 256 → BitVec 512 → Bool
/-- The SM2 signature of a digest under the device identity key (R377; log 14). -/
opaque identitySign : BitVec 256 → BitVec 512
/-- The digest of the stored firmware image i, 0 to 3 in boot order (R372; log 14). -/
opaque imageDigest : Nat → BitVec 256
/-- Whether the stored firmware image i verifies at a module reset (R372; log 14). -/
opaque imageVerifies : Nat → Nat → Bool
/-- How many bytes an image is that a host stages (R365), and of the image with a digest whether it verifies and which of
the four it is (R372; log 14). -/
opaque imageBytes : Nat → Nat
opaque stagedVerifies : BitVec 256 → Bool
opaque stagedKind : BitVec 256 → Nat
/-- The firmware version word of image i (R372; log 14). -/
opaque imageVersion : Nat → BitVec 16
/-- The firmware version word of a staged image with a digest, and the bytes of a staged rule table with it (R365, R372;
log 14). -/
opaque stagedVersion : BitVec 256 → BitVec 16
opaque stagedTable : BitVec 256 → List Byte
/-- Byte i of the identity certificate chain (R367, R377; log 14). -/
opaque certificate : Nat → Byte
/-- The draw that chooses a block for an audit replay with probability 2^-k (R411; log 22). -/
opaque auditDraw : Nat → Nat → Bool
/-- I/O-die microseconds that pass between two entries of the error logs (R405): free (log 4). -/
opaque microseconds : Nat → Nat
/-- A choice the spec leaves open, by the number of the draw and a position in it: which value a byte of an
overlapping copy receives (R305; log 11), whether a repeated bus transfer passes (R406), which cores fail their
self-check (R412). -/
opaque choice : Nat → Nat → Bool
/-- Whether another device of the domain, of whose frame windows nothing is known here, accepts an access of a domain
group to a range of its memory (R374; log 21). -/
opaque peerAccepts : Nat → Nat → Nat → Nat → Bool
/-- The power in watts that the module draws as time passes: free (R37, R378; log 4). -/
opaque moduleDraw : Nat → Nat
/-- The bus lane that a locating test pattern names (R406). -/
opaque lane : Nat → Nat
/-- Whether an error strikes a store of the device as time passes, and which: free (R403; log 59). -/
opaque upset : Nat → Option Upset

/-- The lowest-safe-phase code of a physical row before any in-field test: the published minimum counts of
R128 (log 9). -/
def rowCode (row : Nat) : Nat :=
  if row < 5376 then 0 else if row < 5888 then 1 else if row < 6144 then 2 else if row < 6464 then 3 else 4


/-- Physical rows of a core's pool (R125). -/
def physRows : Nat := 6528
/-- Logical rows of a core's pool at most (R126). -/
def poolRows : Nat := 6144
/-- Rows of the rename pool (R19). -/
def renameRows : Nat := 256
/-- Warp slots of a core (R18). -/
def warpSlots : Nat := 48
/-- Block slots of a core (R18). -/
def blockSlots : Nat := 16
/-- Cores of the device (R11). -/
def cores : Nat := 256
/-- Bytes of an HBM stack that a page may map (R350). -/
def hbmBytes : Nat := 48 * 10 ^ 9
/-- Bytes of LPDDR 6 that a page may map (R350). -/
def lpddrBytes : Nat := 1536 * 10 ^ 9
/-- The count at which a warp inside an npr span traps (R104). -/
def nprLimit : Nat := 16384

/-- The standard descriptors that setnf loads by code (R147). -/
def standardNf : List Word :=
  [0x0000000400000040#64, 0x0000000400000041#64, 0x0000000400000080#64, 0x0000000400000081#64,
   0x0000000400000100#64, 0x0000000400000101#64, 0x0000000400000200#64, 0x0000000400000201#64,
   0x0000000400000400#64, 0x0000000400000401#64, 0x000000007FFA5C02#64, 0x000000000FEBC202#64,
   0x0000000001E52902#64, 0x000000000FE3C102#64, 0x0000004200E1A082#64, 0x0000000001E12882#64,
   0x0000004400219062#64, 0x0000004400611862#64, 0x0000004400209042#64, 0x0000004202C21083#64,
   0x000000420FE04084#64]

/-- The standard descriptor of a code (R147); codes above 20 are refused at decode (R106). -/
def standardOf (code : Nat) : Word := standardNf.getD code 0#64

end Sys2Proof.Config
end

