-- ==== Sys2Proof/Machine/State.lean ====
section
/-! DEFINITION. The state of the module as plain data: every piece of state the spec gives the JX-840
(INVENTORY.md lists each with its rule and reset value), the reasons a step stops, and the state after reset. -/

namespace Sys2Proof.Machine

open Sys2Proof

/-! ## Warps -/

/-- The register file of a warp (R23 to R26): v-register r of lane l stands at key 32 r + l. -/
structure Regs where
  v : Tab Word := []
  s : Tab Word := []
  p : Tab W32 := []
  nf : Tab Word := [(0, 0x000000000FEBC202#64), (1, 0x000000000FE3C102#64), (2, 0x0000004200E1A082#64), (3, 0x0000000400000200#64)]
  /-- Poisoned words of the v-registers: 32 × register + lane (R403). -/
  bad : List Nat := []
  deriving DecidableEq, Repr

/-- A program-counter slot (R93). -/
structure Path where
  live : Bool := false
  pc : Nat := 0
  mask : W32 := 0#32
  deriving DecidableEq, Repr

/-- The control state of a warp (R93): both slots, the innermost region and the exited lanes. -/
structure Ctl where
  a : Path := {}
  b : Path := {}
  rpc : W32 := 0xFFFFFFFF#32
  rmask : W32 := 0xFFFFFFFF#32
  rarr : W32 := 0#32
  exited : W32 := 0#32
  deriving DecidableEq, Repr

/-- What happens after the packet of a pending transfer besides the new control state (R428). -/
inductive PendKind where
  | control
  | svc (number : Word)
  | stop
  deriving DecidableEq, Repr

/-- A pending transfer (R428): the control state fixed at issue, and the trap or stop that follows. -/
structure Pend where
  ctl : Ctl
  kind : PendKind := .control
  slotB : Bool := false
  deriving DecidableEq, Repr

/-- What keeps a group from issuing (R123): the rewrite window (R232), a range of the scoreboard (R310), a tile queue or
scoreboard without room (R215, R310), or earlier tile and copy instructions that a release or an acquire waits for (R284,
R301). -/
inductive Hold where
  | window | range | queue | fence
  /-- A DRAM channel that repeats a transfer, by its key (R406). -/
  | dram (channel : Nat)
  deriving DecidableEq, Repr

/-- What a slot waits for (R111, R395 wake). -/
inductive Wait where
  | none
  | bar (number : Nat)
  /-- The object's block and offset, the token, the limit, the destination register and the space and scope of field z. -/
  | bowait (block offset : Nat) (token : Bool) (limit : Nat) (d : Nat) (z : BitVec 2)
  | baton
  | take (d : Nat) (addr : Word)
  /-- Own registers d and a, the lanes active here, the partner's block and warp and the tag. -/
  | xswap (d a : Nat) (lanes : W32) (block warp tag : Nat)
  /-- A chained mma or an mmarx at the rendezvous; its instruction stands in the tile queue. It is the slot's own word,
  or the rewrite window has delivered it and the slot stands further on (R221, R237). -/
  | chain (own : Bool)
  /-- A group that has not issued: a flush or a full rewrite window, a range, or the tile queue or scoreboard holds it
  (R215, R232, R310). -/
  | room (why : Hold)
  /-- An access of the RE to another device that no route reaches, and the address it waits at (R375). -/
  | remote (addr : Nat)
  deriving DecidableEq, Repr

/-- What a word that executes again finds of a wait that it has begun or ended (R44, R201, R316, R320, R375, R391; log
53): a `bar` at which the warp's arrival stands, and whether its phase has completed since; a `bowait` with its
object's address, its token and what is left of its limit, or with its result; the lanes and values that an exchange
has handed over; a rendezvous that is over; or an access whose answer is poison. -/
inductive Wake where
  | none
  | bar (number : Nat) (done : Bool)
  | bowait (addr : Nat) (token : Bool) (limit : Nat)
  | done (result : Bool)
  | swapped (lanes : W32) (vals : List Word)
  | met
  | poisoned (addr : Nat)
  deriving DecidableEq, Repr

/-- What a slot holds inside its packet (R41 to R44, R49, R53). -/
structure Micro where
  /-- The next word to issue, or the blocking word while the slot waits. -/
  word : Nat := 0
  /-- The next word belongs to the chain group that has begun. -/
  mid : Bool := false
  /-- The fetched and checked packet; empty when none is held. -/
  pkt : List W32 := []
  /-- Payloads of prefixes waiting for the word they attach to, first prefix first. -/
  pfx : List (BitVec 18) := []
  /-- The register values that the words of the group read (R44). -/
  src : Regs := {}
  wait : Wait := .none
  /-- The first word of the chain group that is issuing. -/
  group : Nat := 0
  /-- Words of the group that have met poison on the IE: the group ends without them (R382). -/
  did : List Nat := []
  /-- What words of the packet find of waits that they have begun or ended, by word (log 53). -/
  wakes : Tab Wake := []
  deriving DecidableEq, Repr

/-- Whether a warp slot is in use, and how its warp stands (R395). -/
inductive WarpStat where
  | absent | running | stopped | halted | ended
  deriving DecidableEq, Repr

/-- The engine states of R121. -/
inductive Engine where
  | ie | promoting | re | demoting
  deriving DecidableEq, Repr

/-- The register a reuse latch holds (R55), if it is valid. -/
inductive Latch where
  | invalid | vreg (r : Nat) | sreg (r : Nat) | preg (r : Nat)
  deriving DecidableEq, Repr

/-- A release fence whose release write is still to come, for the lanes named, and whether its release writes back
eagerly, as a `fence.sc` does (R276, R288, R301). -/
structure RelPend where
  scope : Nat
  lanes : W32
  eager : Bool := false
  deriving DecidableEq, Repr

/-- A load of the IE from another device that has no reply yet (R375, R390): its slot's control state and registers as it
issued, its word with its prefixes, its word's byte address, and the address that no route reached. -/
structure PendLoad where
  slotB : Bool
  ctl : Ctl
  src : Regs
  word : W32
  pfx : List (BitVec 18)
  waddr : Word
  addr : Nat
  deriving DecidableEq, Repr

/-- A warp (R18, R27, R28, R93, R395). -/
structure Warp where
  stat : WarpStat := .absent
  block : Nat := 0
  idx : Nat := 0
  regs : Regs := {}
  ctl : Ctl := {}
  ma : Micro := {}
  mb : Micro := {}
  pend : Option Pend := none
  dsp : Nat := 0
  cause : BitVec 8 := 0#8
  taddr : Word := 0#64
  waddr : Word := 0#64
  synd : BitVec 16 := 0#16
  pass : Bool := false
  /-- The stopped warp stopped after a `stop`: its image holds cause 0 (R384). -/
  byStop : Bool := false
  stepping : Bool := false
  /-- The step covers a packet, its resume point being one (R401). -/
  stepPacket : Bool := false
  npr : Bool := false
  nprCount : Nat := 0
  sleep : Nat := 0
  yielding : Bool := false
  engine : Engine := .ie
  /-- A context of the RE is granted: fetch on the IE stops at the next packet boundary, where PROMOTING begins (R121). -/
  granted : Bool := false
  /-- The warp is displaced before it has come onto the RE, and demotes from there (R120, R121). -/
  displaced : Bool := false
  /-- When the trigger of each class last rose, in the order of its core's rises (R120). -/
  risen : Tab Nat := []
  holds : List Word := []
  /-- Barriers at which the warp trails (R119, class 2). -/
  trailing : List Nat := []
  requested : Bool := false
  sole : Bool := false
  /-- Issue-budget periods of 64 cycles until classes 2 and 3 promote again (R119). -/
  cooling : Nat := 0
  suspended : Bool := false
  cmask : BitVec 3 := 7#3
  skip : Nat := 0
  /-- The pattern length of the rewritten group that the warp has trapped in: its skip count from its resume on (R251). -/
  restart : Nat := 0
  /-- A remote load of the warp that has no reply yet; there is one at most (R390). -/
  reply : Option PendLoad := none
  /-- Pending release fences, each of some lanes; a lane stands in one at most. -/
  rel : List RelPend := []
  sig : Word := 0#64
  retired : Nat := 0
  stamp : Nat := 0
  /-- Consecutive cycles for which the warp has been ready without issuing (R111). -/
  waited : Nat := 0
  lastB : Bool := false
  latch : Latch := .invalid
  pbase : Word := 0#64
  deriving DecidableEq, Repr

/-! ## Blocks -/

/-- One of the 16 barriers of a block (R317): the form fixed for the phase and the warps arrived. -/
structure Bar where
  fixed : Bool := false
  mask : W32 := 0#32
  arrived : W32 := 0#32
  deriving DecidableEq, Repr

/-- Why a block is being saved (R394 reason). -/
inductive SaveReason where
  | preempt | forced | trap | evict | test | step
  deriving DecidableEq, Repr

/-- A watchpoint (R400). -/
structure Watch where
  v : Bool := true
  kind : Nat
  size : Nat
  base : Nat
  deriving DecidableEq, Repr

/-- A resident block (R17, R30, R90, R317, R394). -/
structure Block where
  used : Bool := false
  launch : Nat := 0
  lin : Nat := 0
  warps : Nat := 0
  regs : Nat := 8
  scratchSize : Nat := 0
  scratch : Memory := []
  /-- Poisoned 8-byte words of the scratchpad, by word number. -/
  poison : List Nat := []
  bars : Tab Bar := []
  slot : Nat := 0
  debug : Bool := false
  watch : List Watch := []
  saving : Option SaveReason := none
  deadline : Bool := false
  /-- A warp of the block steps (R401). -/
  steps : Bool := false
  takers : List Nat := []
  replay : Bool := false
  deriving DecidableEq, Repr

/-! ## Cores -/

/-- An L1 line (R263, R264, R283): the line's number (physical address / 128), its valid bytes by offset, each
with its dirty bit, the poisoned 8-byte words, the epoch tag, and the prefetch and protection marks. -/
structure Line where
  line : Nat
  bytes : Tab (Byte × Bool) := []
  poison : List Nat := []
  epoch : Nat := 0
  /-- The way of its set that the line stands in (R263). -/
  way : Nat := 0
  prefetched : Bool := false
  /-- The block and the warp that the line is protected for (R112). -/
  guard : Option (Nat × Nat) := none
  deriving DecidableEq, Repr

/-- Partial results of reductions at a core (R298, R299): a line of global memory in the accumulate state, or a
64-byte segment of cluster memory in the reduction buffer. A partial stands at its address. -/
structure Partials where
  /-- The line number, or the target block's key times 2^21 plus the segment's offset. -/
  place : Nat
  op : BitVec 4
  wide : Bool
  words : Tab Word := []
  /-- The way of the L1 that a line in the accumulate state takes (R263, R298). -/
  way : Nat := 0
  deriving DecidableEq, Repr

/-- A translation (R347, R348, R353): the page of a context and what its leaf gives. -/
structure TlbEntry where
  ctx : Nat
  va : Nat
  size : Nat
  frame : Nat
  w : Bool
  x : Bool
  dty : Bool
  snap : Bool
  deriving DecidableEq, Repr

/-- A pointer entry of a walk cache (R353): the context, the level of the table it leads to, the bits of the
virtual address above that table's reach, and the table's physical address. -/
structure WalkEntry where
  ctx : Nat
  level : Nat
  tag : Nat
  table : Nat
  deriving DecidableEq, Repr

/-- A packet held by an instruction cache (R107, R402). -/
structure CachedPacket where
  ctx : Nat
  va : Nat
  words : List W32
  deriving DecidableEq, Repr

/-- A weight bank (R204): loaded, the latched descriptor, scales present, weight bytes at 384 column + byte,
scale exponents at 24 column + group (127 where none is listed). -/
structure Bank where
  loaded : Bool := false
  fmt : Word := 0#64
  scaled : Bool := false
  bytes : Tab Byte := []
  scales : Tab Byte := []
  /-- Poisoned 8-byte words: of the weights, and from 3,072 on of the scales (R403). -/
  poison : List Nat := []
  deriving DecidableEq, Repr

/-- Where a warp goes back to for a tile word that the rewrite window has delivered: the first word of its chain group,
the control state at its entry and, for a rewritten group, the words to pass by unrewritten (R250, R251). -/
structure Back where
  word : Nat
  ctl : Ctl
  pend : Option Pend
  skip : Nat
  deriving DecidableEq, Repr

/-- An accepted tile or copy instruction (R215, R235, R396): its opcode, issuing warp and slot, the kept values of
slots 0 to 4, the formats latched for t1 and t2, and whether a rewrite made it (R252). -/
structure TileOp where
  op : Nat
  word : W32
  warp : Nat
  block : Nat
  slotB : Bool
  vals : List Word
  f1 : Word
  f2 : Word
  /-- A rule's replacement word: the rule's index and the byte address of the group's first original word. -/
  rewritten : Option (Nat × Word) := none
  /-- The byte address of the word. -/
  addr : Word := 0#64
  /-- Pages of global memory checked at acceptance (R307): virtual and physical address of each 64 KiB piece. -/
  pages : List (Nat × Nat) := []
  /-- A chained word that the window has delivered. -/
  back : Option Back := none
  /-- The word issued in a group that makes no WATCH check (R383). -/
  pass : Bool := false
  /-- The record that the writes of a release write to global memory carry (R284). -/
  entry : Option Nat := none
  deriving DecidableEq, Repr

/-- A saved engine that is still to be rebuilt (R214, R320, R396): its block, the warp that is to hold the baton again,
where one held it, the instructions that had not started, and the engine's state. -/
structure EngineImage where
  block : Nat
  holder : Option Nat
  ops : List TileOp
  bank0 : Bank := {}
  bank1 : Bank := {}
  accum : Tab W32 := []
  badAccum : List Nat := []
  overflow : Bool := false
  deriving DecidableEq, Repr

/-- A tile word held in the rewrite window (R230). -/
structure HeldWord where
  tile : TileOp
  /-- The first word of its chain group, and the control state at entry. -/
  group : Nat
  ctl : Ctl
  pend : Option Pend
  deriving DecidableEq, Repr

/-- A copy descriptor in progress (R303, R305): the instruction and the next byte to move. -/
structure Copy where
  tile : TileOp
  row : Nat := 0
  offset : Nat := 0
  /-- Source bytes as they stood at the start, where source and destination overlap: by 2^32 × row + byte (R305). -/
  before : Tab Byte := []
  deriving DecidableEq, Repr

/-- What a range of the scoreboard is keyed on (R310). -/
inductive RangeKey where
  | pool (block : Nat)
  | window (block : Nat)
  | stack
  | global
  deriving DecidableEq, Repr

/-- A range held by the scoreboard (R310), from first to last byte, and whether it is a destination. -/
structure Range where
  key : RangeKey
  first : Nat
  last : Nat
  dest : Bool
  tile : TileOp
  deriving DecidableEq, Repr

/-- A value code's field inside a rule (R236). -/
structure FieldRef where
  width : Nat
  lo : Nat
  v : Nat
  deriving DecidableEq, Repr

/-- A guard term (R243). -/
structure Guard where
  op : Nat
  a : FieldRef
  b : FieldRef
  k : Word
  deriving DecidableEq, Repr

/-- An edit term (R244). -/
structure Edit where
  op : Nat
  word : Nat
  slot : Nat
  dst : FieldRef
  s : FieldRef
  t : FieldRef
  k : Word
  deriving DecidableEq, Repr

/-- A rewrite rule (R242). -/
structure Rule where
  cls : Nat
  enabled : Bool
  pattern : List Nat
  output : List Nat
  source : List (List Nat)
  guards : List Guard
  edits : List Edit
  deriving DecidableEq, Repr

/-- The carve of a core (R20, R86, R127): register and scratch rows of a block, slots and L1 ways. -/
structure Carve where
  regRows : Nat := 0
  scratchRows : Nat := 0
  slots : Nat := 0
  ways : Nat := 0
  deriving DecidableEq, Repr

/-- A downward step's plan for one core (R131). -/
structure EvacPlan where
  slots : Nat
  ways : Nat
  /-- New physical rows of logical rows, and how many of them are copied (R131, R132). -/
  moves : Tab Nat
  copied : Nat
  deriving DecidableEq, Repr

/-- A core (R19) with every unit it holds. -/
structure Core where
  cycle : Word := 0#64
  /-- Dispatch slots of the IE and of the RE that are still to be charged in the present cycle (R109, R123). -/
  ieLeft : Nat := 0
  reLeft : Nat := 0
  /-- The codes that those slots can count, the warps and pipes that the present cycle has dispatched on, and the words
  of the RE among them (R109, R116, R123). -/
  ieIdle : List Nat := []
  reIdle : List Nat := []
  took : List Nat := []
  pipes : List Nat := []
  reWords : Nat := 0
  counters : Tab Word := []
  codes : Tab Nat := []
  corrections : Tab Nat := []
  /-- Physical rows of logical rows that the row map does not leave at their own number (R126). -/
  remap : Tab Nat := []
  rows : Nat := 6144
  carve : Carve := {}
  plan : Option EvacPlan := none
  draining : Option Nat := none
  hot : Bool := false
  /-- Times of droop events, in the I/O die's microseconds (R85). -/
  droops : List Nat := []
  droopOut : Bool := false
  failed : Bool := false
  l1 : List Line := []
  acc : List Partials := []
  /-- Lines of the L1, plain and accumulating, most recently used first (R263). -/
  recent : List Nat := []
  redBuf : List Partials := []
  redHolders : Tab (List Nat) := []
  epoch : Nat := 1
  icache : List CachedPacket := []
  tlb : List TlbEntry := []
  accum : Tab W32 := []
  /-- Poisoned 8-byte words of the accumulators: 32 × row + pair of columns (R403). -/
  badAccum : List Nat := []
  bank0 : Bank := {}
  bank1 : Bank := {}
  overflow : Bool := false
  baton : Option Nat := none
  batonQueue : List Nat := []
  batonCtx : Nat := 0
  queue : List TileOp := []
  streamBusy : Option TileOp := none
  loadBusy : Option TileOp := none
  copy0 : Option Copy := none
  copy1 : Option Copy := none
  copied : Tab Nat := []
  ranges : List Range := []
  window : List HeldWord := []
  /-- A flush of the window is under way: every held word is forced (R231). -/
  flushing : Bool := false
  /-- The rule table that the stage holds, by its address and its rules; none is the default table (R247). -/
  table : Option (Nat × List Rule) := none
  applied : Tab Word := []
  restarted : Tab Word := []
  reWarps : List Nat := []
  reWaiting : List Nat := []
  /-- Triggers of the core's warps that have risen so far (R120). -/
  rises : Nat := 0
  reUsed : Tab Nat := []
  /-- Cycles of holds that reach into the next budget period (R110). -/
  reCarry : Tab Nat := []
  savedEngines : List EngineImage := []
  deriving DecidableEq, Repr

/-! ## Stacks, clusters, dies -/

/-- A phase step in progress on a compute die (R130 to R138). -/
structure PhaseStep where
  target : Nat
  source : Nat
  stage : Nat
  evicted : Nat
  copied : Nat
  deriving DecidableEq, Repr

/-- A compute die (R34, R128). -/
structure Die where
  phase : Nat := 3
  step : Option PhaseStep := none
  clockStopped : Bool := false
  /-- Requests for a step that wait, oldest first: whether upward, and the phase (R137). -/
  waiting : List (Bool × Nat) := []
  deriving DecidableEq, Repr

/-- In-field test and containment state of a cluster (R412, R413). -/
structure Cluster where
  testDue : Bool := false
  testing : Bool := false
  resetting : Bool := false
  injected : Nat := 0
  tlb : List TlbEntry := []
  deriving DecidableEq, Repr

/-- A stack: scratchpad bytes (R262), its allocations (launch, base, size), and the last-level TLB, by router of the cache
die (R353). -/
structure Stack where
  bytes : Memory := []
  poison : List Nat := []
  allocs : List (Nat × Nat × Nat) := []
  tlb : Tab (List TlbEntry) := []
  walkCache : List WalkEntry := []
  deriving DecidableEq, Repr

/-! ## The command processor -/

/-- A launch record's fields (R80), after the translation of R82. -/
structure LaunchRec where
  tag : Nat := 0
  irq : Bool := false
  code : Nat := 0
  pool : Nat := 0
  entry : Nat := 0
  poolwords : Nat := 0
  gridX : Nat := 1
  gridY : Nat := 1
  gridZ : Nat := 1
  warps : Nat := 1
  regs : Nat := 8
  l1min : Nat := 4
  rwmask : Nat := 1
  scratchL : Nat := 16384
  scratchK : Nat := 0
  priv : Nat := 0
  mmrev : Nat := 2
  prio : Nat := 0
  bpc : Nat := 0
  gang : Nat := 1
  ordered : Bool := false
  region : Bool := false
  phwait : Bool := false
  audit : Bool := false
  snap : Bool := false
  arena : Nat := 0
  arenasize : Nat := 0
  snappool : Nat := 0
  snappages : Nat := 0
  replays : Nat := 0
  auditk : Nat := 0
  cards : Nat := 0
  cardarea : Nat := 0
  phasewait : Nat := 0
  deriving DecidableEq, Repr

/-- How a launch stands between its record and its completion entry (R74 to R76, R88). -/
inductive LaunchPhase where
  | unused | waiting | held | running | done
  deriving DecidableEq, Repr

/-- What the model keeps of a saved warp beside its image, which has no place for it (log 13): the word index of the
slot that is not the resume slot, whether the pending transfer is that slot's, the trap-cause register, whether it has
trapped POISON, the store signature, the pending release fence, the class 4 trigger, what the words of each slot's group
find of their waits, the skip count of its resume, its load without a reply, and whether the warp has ended. -/
structure Kept where
  idx : Nat
  word : Nat
  pendOther : Bool
  cause : BitVec 8
  poisoned : Bool := false
  sig : Word
  rel : List RelPend := []
  requested : Bool := false
  wakesA : Tab Wake := []
  wakesB : Tab Wake := []
  restart : Nat := 0
  reply : Option PendLoad := none
  ended : Bool := false
  deriving DecidableEq, Repr

/-- A saved block (R391, R394): its linear index, save slot and whether the host must settle it. -/
structure Saved where
  lin : Nat
  slot : Nat
  stopped : Bool
  evicted : Bool
  holder : Bool
  kept : List Kept := []
  /-- The recorded instructions of its engine section, with what that has no place for (log 13). -/
  ops : List TileOp := []
  /-- A warp of this block has trapped or stopped: its image settles the block and those saved with it (R387). -/
  told : Bool := false
  /-- Its place in the order of saves (R135). -/
  order : Nat := 0
  deriving DecidableEq, Repr

/-- The card queue and the colour of a ring position of a region, the slot that each card stands in, and how many cards the
queue has taken so far (R90 to R92; log 32). -/
structure CardQueue where
  cards : List (BitVec 512) := []
  slots : List Nat := []
  put : Nat := 0
  black : Bool := false
  deriving DecidableEq, Repr

/-- A launch (R74 to R92, R262, R408 to R411). -/
structure Launch where
  phase : LaunchPhase := .unused
  part : Nat := 0
  queue : Nat := 0
  ctx : Nat := 0
  record : LaunchRec := {}
  recordAt : Nat := 0
  /-- The queue's head behind the launch's record (R369). -/
  nextAt : Nat := 0
  next : Nat := 0
  exited : List Nat := []
  saved : List Saved := []
  aged : Bool := false
  started : Bool := false
  rollbacks : Nat := 0
  snaps : List Nat := []
  unprotected : Bool := false
  /-- The comet's position and colour, and whether it has come round to position 0 (R92). -/
  comet : Nat := 0
  cometBlack : Bool := false
  cometBack : Bool := false
  /-- The card queues of a region, by ring position. -/
  ring : Tab CardQueue := []
  ended : Bool := false
  replaying : List Nat := []
  mismatch : Bool := false
  /-- The core and the store signatures of blocks chosen for a replay, by linear index (R411). -/
  signatures : Tab (Nat × List Word) := []
  order : Nat := 0
  /-- A rollback of the launch is to come: its warps stop (R408). -/
  undoing : Bool := false
  /-- The status with which an abort or a cancel ends the launch once its warps have stopped (R371, R387). -/
  ending : Option Nat := none
  deriving DecidableEq, Repr

/-- What holds fetch from a command queue (R75, R79). -/
inductive QueueHold where
  | free
  | wait (addr value : Nat) (equal : Bool) (tag : Nat) (irq : Bool)
  deriving DecidableEq, Repr

/-- A SIGNAL record that waits for the launches named (R79). -/
structure Signal where
  addr : Nat
  value : Nat
  add : Bool
  tag : Nat
  irq : Bool
  /-- The queue's head behind the record (R369). -/
  head : Nat
  launches : List Nat
  deriving DecidableEq, Repr

/-- A command queue (R75, R370). -/
structure Queue where
  bound : Bool := false
  ctx : Nat := 0
  base : Nat := 0
  size : Nat := 0
  head : Nat := 0
  tail : Nat := 0
  /-- Units behind the tail that a record's stated length passes over (R78). -/
  skip : Nat := 0
  hold : QueueHold := .free
  signals : List Signal := []
  deriving DecidableEq, Repr

/-- A ring of a partition page (R368). -/
structure Ring where
  base : Nat := 0
  size : Nat := 0
  configured : Bool := false
  head : Nat := 0
  tail : Nat := 0
  /-- The pass flips the valid bit of completion entries (R369). -/
  pass : Bool := true
  /-- Requests with no completion entry, in ring order: the tag and the head behind the entry (R369). -/
  heads : List (Nat × Nat) := []
  deriving DecidableEq, Repr

/-- A partition: its configuration entry (R366) and its page (R368). -/
structure Partition where
  port : Nat := 0
  group : Nat := 0
  inj : Nat := 0
  mem : Nat := 0
  arena : Nat := 0
  arenasize : Nat := 0
  snappool : Nat := 0
  snappages : Nat := 0
  win0 : List (Nat × Nat) := []
  win1 : List (Nat × Nat) := []
  completion : Ring := {}
  event : Ring := {}
  control : Ring := {}
  admin : Ring := {}
  doorbellError : Bool := false
  eventsLostBit : Bool := false
  outsideWindow : Bool := false
  refusedRing : Bool := false
  eventsLost : Nat := 0
  /-- Completions that wait for the ring, each with the vector of its completion interrupt, or 0 (R77, R363). -/
  backlog : List (List Byte × Nat) := []
  memUsed : Nat := 0
  deriving DecidableEq, Repr

/-- An installed context (R346). -/
structure Context where
  part : Nat := 0
  solo : Bool := false
  root : Word := 0#64
  /-- The address that the record names its table by, and the table where it is accepted (R247, R344). -/
  rtab : Nat := 0
  table : Option (List Rule) := none
  digest : BitVec 256 := 0
  ibud : List Nat := []
  cbud : Nat := 0
  deriving DecidableEq, Repr

/-! ## Homes, DRAM and links -/

/-- A tag of an L2 slice (R266, R267): its line, whether the line is to be written to DRAM, and the zero flag, with which
it holds no data row. -/
structure L2Tag where
  line : Nat
  dirty : Bool := false
  zero : Bool := false
  deriving DecidableEq, Repr

/-- A line read or reply in flight (R264, R271, R290): the line, the reading core, whether it fills the L1 and,
once its home has read it, the bytes and the poisoned words it carries. -/
structure Flight where
  line : Nat
  core : Nat
  fill : Bool
  data : Option (List Byte × List Nat) := none
  /-- A demand access of the core has asked for the line meanwhile (R272). -/
  demanded : Bool := false
  /-- The block and the warp that the line is protected for: an urgent warp's prefetch (R112). -/
  guard : Option (Nat × Nat) := none
  deriving DecidableEq, Repr

/-- An entry of the array-ECC log (R405). -/
structure EccEntry where
  kind : Nat
  unit : Nat
  place : Nat
  part : Nat
  repeats : Nat
  syndrome : Nat
  addr : Nat
  time : Nat
  deriving DecidableEq, Repr

/-- An entry of the transfer log (R405). -/
structure XferEntry where
  kind : Nat
  path : Nat
  place : Nat
  attempts : Nat
  lane : Nat
  spares : Nat
  part : Nat
  addr : Nat
  time : Nat
  deriving DecidableEq, Repr

/-- A die-to-die or domain link (R414). -/
structure Link where
  half : Bool := false
  retraining : Bool := false
  cost : Nat := 16
  window : Nat := 256
  /-- The arbitration weight in halves of the full one. -/
  weight : Nat := 2
  deriving DecidableEq, Repr

/-- The management mailbox (R365). -/
structure Mailbox where
  command : Nat := 0
  result : Nat := 0
  argument : Nat := 0
  data : Memory := []
  deriving DecidableEq, Repr

/-- The slot of a warp that issues: the warp's key (48 core + warp slot) and which of its slots. -/
structure Turn where
  warp : Nat
  slotB : Bool
  deriving DecidableEq, Repr

/-! ## The module -/

/-- The state of the module. Tables are keyed: cores by device core number, warps by 48 core + warp slot, blocks
by 16 core + block slot, launches by serial number, queues by 64 partition + queue, contexts by id. A physical
address is a device physical address of R368, plus 2^64 × (d + 1) in the memory of another device d. -/
structure State where
  /-- The model's own: events still to happen, oldest first (log 3). -/
  agenda : List Instr := []
  /-- The model's own: which warp slots issue next (log 3). -/
  turns : List Turn := []
  /-- The model's own: the warp slot that is issuing. -/
  cur : Turn := ⟨0, false⟩
  /-- The model's own: numbers the free values drawn so far. -/
  fresh : Nat := 0
  warps : Tab Warp := []
  blocks : Tab Block := []
  cores : Tab Core := []
  clusters : Tab Cluster := []
  stackMem : Tab Stack := []
  dies : Tab Die := []
  mem : Memory := []
  poison : List Nat := []
  /-- Tags of the L2 slices by 1024 × slice + set, most recently used first (R266). -/
  l2 : Tab (List L2Tag) := []
  zeroLines : List Nat := []
  records : Tab (List (Nat × Nat)) := []
  /-- Lines with a release record, least recently used first (R285). -/
  recordOrder : List Nat := []
  holders : Tab (List Nat) := []
  windows : Tab (List Nat) := []
  flights : List Flight := []
  launches : Tab Launch := []
  launchCount : Nat := 0
  saveCount : Nat := 0
  queues : Tab Queue := []
  contexts : Tab (Option Context) := []
  parts : Tab Partition := []
  layout : Nat := 1
  mailbox : Mailbox := {}
  /-- Images verified by Stage image, by kind, with the digest that the next module reset starts (R365). -/
  staged : Tab (BitVec 256) := []
  device : Nat := 0
  /-- The partition pages accept doorbells: bit 0 of their status (R368). -/
  booted : Bool := false
  /-- Images verified and started at the last module reset (R372). -/
  bootResult : Nat := 0xF
  /-- Staged images that a module reset has started in the place of stored ones, by kind: their digests (R365, R372). -/
  images : Tab (BitVec 256) := []
  generation : Nat := 0
  /-- Published core entries of the capacity table: flags, N at phases 3 to 0, retired rows (R129). -/
  capTable : Tab (List Nat) := []
  /-- Microseconds of the I/O die since module reset, as far as they have been observed (R405). -/
  micros : Nat := 0
  /-- Corrected errors suppressed at a location since its last log entry (R405). -/
  suppressed : Tab Nat := []
  ecc : List EccEntry := []
  xfer : List XferEntry := []
  powerLimits : Tab Nat := []
  spares : Tab Nat := []
  /-- Transfers made of a failing DRAM burst (R406). -/
  attempts : Tab Nat := []
  /-- 32-byte chunks whose array cells hold an error that array ECC corrects, with its syndrome (R403). -/
  cells : Tab Nat := []
  /-- Such chunks that have been read since, whose corrections are to be logged (R405). -/
  corrected : List Nat := []
  links : Tab Link := []
  /-- Routes to other devices: the first link of each, and its weight (R373, R415). -/
  routes : Tab (List (Nat × Nat)) := []
  /-- What was last advertised of them: the first link, and the cost beyond it (R414). -/
  adverts : Tab (List (Nat × Nat)) := []
  /-- First links and weights from a stack to the one it has no link to (R15, R415). -/
  crossings : Tab (List (Nat × Nat)) := [(0, [(0, 32), (1, 32)]), (1, [(0, 32), (1, 32)]), (2, [(0, 32), (1, 32)]), (3, [(0, 32), (1, 32)])]
  peers : Tab (List (Nat × Nat × Nat)) := []
  /-- MSI-X messages that a port has signalled, by 64 × port + vector (R77, R363, R369). -/
  msix : Tab Nat := []
  issued : Nat := 0
  deriving DecidableEq, Repr

/-- Why the machine stops with a fault. No word and no event of the model ends in a fault: the list is closed
with the one reason the interface keeps for a state outside the model. -/
inductive Fault where
  /-- Raised by nobody; safe. -/
  | unreachable
  deriving DecidableEq, Repr

/-- Why a step has no meaning here. -/
inductive Refusal where
  /-- Raised by an arm of exec whose instruction has no meaning yet, by its mnemonic; safe. -/
  | notModelled (mnemonic : String)
  deriving DecidableEq, Repr

/-- The module right after reset (R372, R126, R204, R283): every unit empty, every die at FULL, every ring
unconfigured, no context installed, no launch. The values the spec does not give are those of logs 1, 5, 7 to 9. -/
def State.reset : State := {}

end Sys2Proof.Machine
end

