-- ==== Sys2Proof/Machine/Store.lean ====
section
/-! DEFINITION. Reading and writing the sparse tables of the state and the bytes of a memory (spec/00 R4;
the canonical form is log 1's). -/

namespace Sys2Proof

/-- The entry of a table at a key, or the default where none is listed. -/
def Tab.get {α : Type} (d : α) : Tab α → Nat → α
  | [], _ => d
  | (j, a) :: t, k => if j = k then a else Tab.get d t k

/-- The table with the entry at a key replaced; keys stay in rising order. -/
def Tab.put {α : Type} : Tab α → Nat → α → Tab α
  | [], k, a => [(k, a)]
  | (j, b) :: t, k, a =>
    if j < k then (j, b) :: Tab.put t k a else (k, a) :: if j = k then t else (j, b) :: t

/-- The table without the entry at a key. -/
def Tab.drop {α : Type} (t : Tab α) (k : Nat) : Tab α := t.filter (fun e => !(e.1 == k))

/-- Whether the keys of a table rise strictly. -/
def Tab.sorted {α : Type} : Tab α → Bool
  | [] => true
  | (j, _) :: t => t.all (fun e => decide (j < e.1)) && Tab.sorted t

/-- The canonical form of a memory: addresses strictly rising, no zero byte listed (log 1). -/
def Memory.wf (m : Memory) : Bool := Tab.sorted m && m.all (fun e => !(e.2 == 0#8))

/-- The byte at an address: zero where none is listed (log 1). -/
def Memory.byte (m : Memory) (a : Nat) : Byte := Tab.get 0#8 m a

/-- The memory with one byte written; a zero byte is not listed. -/
def Memory.set (m : Memory) (a : Nat) (b : Byte) : Memory :=
  if b = 0#8 then Tab.drop m a else Tab.put m a b

/-- The n bytes from an address upward. -/
def Memory.read (m : Memory) (a : Nat) : Nat → List Byte
  | 0 => []
  | n + 1 => m.byte a :: Memory.read m (a + 1) n

/-- The memory with a byte string written from an address upward. -/
def Memory.write (m : Memory) (a : Nat) : List Byte → Memory
  | [] => m
  | b :: bs => Memory.write (m.set a b) (a + 1) bs

/-- The little-endian number of n bytes (R4). -/
def Memory.num (m : Memory) (a n : Nat) : Nat := leNat (m.read a n)

/-- The bytes of an address range dropped, so that they read zero. -/
def Memory.clear (m : Memory) (a n : Nat) : Memory := m.filter (fun e => !(decide (a ≤ e.1) && decide (e.1 < a + n)))

/-- A list with one element added at the end unless it is there. -/
def addOnce {α : Type} [DecidableEq α] (l : List α) (a : α) : List α := if a ∈ l then l else l ++ [a]

/-- A list without an element. -/
def without {α : Type} [DecidableEq α] (l : List α) (a : α) : List α := l.filter (fun b => decide (b ≠ a))

/-- The list with its entry at a position replaced. -/
def setAt {α : Type} (l : List α) (i : Nat) (a : α) : List α := l.set i a

/-- The least of a list under a measure, the first among equals. -/
def leastBy {α : Type} (f : α → Nat) : List α → Option α
  | [] => none
  | a :: t =>
    match leastBy f t with
    | none => some a
    | some b => if f b < f a then some b else some a

end Sys2Proof
end

