-- ==== Sys2Proof/Machine/Ops.lean ====
section
/-! DEFINITION. The named operations over the state: its tables, the issuing slot, registers, the agenda, and
taking a trap, which every trapping word and event shares (spec/19 R381 to R385). -/

namespace Sys2Proof.Machine

/-! ## Tables of the state -/

def State.warp (s : State) (k : Nat) : Warp := Tab.get {} s.warps k
def State.setWarp (s : State) (k : Nat) (w : Warp) : State := { s with warps := Tab.put s.warps k w }
def State.block (s : State) (b : Nat) : Block := Tab.get {} s.blocks b
def State.setBlock (s : State) (b : Nat) (x : Block) : State := { s with blocks := Tab.put s.blocks b x }
def State.core (s : State) (c : Nat) : Core := Tab.get {} s.cores c
def State.setCore (s : State) (c : Nat) (x : Core) : State := { s with cores := Tab.put s.cores c x }
def State.cluster (s : State) (c : Nat) : Cluster := Tab.get {} s.clusters c
def State.setCluster (s : State) (c : Nat) (x : Cluster) : State := { s with clusters := Tab.put s.clusters c x }
def State.stack (s : State) (k : Nat) : Stack := Tab.get {} s.stackMem k
def State.setStack (s : State) (k : Nat) (x : Stack) : State := { s with stackMem := Tab.put s.stackMem k x }
def State.die (s : State) (k : Nat) : Die := Tab.get {} s.dies k
def State.setDie (s : State) (k : Nat) (x : Die) : State := { s with dies := Tab.put s.dies k x }
def State.launch (s : State) (k : Nat) : Launch := Tab.get {} s.launches k
def State.setLaunch (s : State) (k : Nat) (x : Launch) : State := { s with launches := Tab.put s.launches k x }
def State.queue (s : State) (k : Nat) : Queue := Tab.get {} s.queues k
def State.setQueue (s : State) (k : Nat) (x : Queue) : State := { s with queues := Tab.put s.queues k x }
def State.context (s : State) (k : Nat) : Option Context := Tab.get none s.contexts k
def State.setContext (s : State) (k : Nat) (x : Option Context) : State := { s with contexts := Tab.put s.contexts k x }
def State.part (s : State) (k : Nat) : Partition := Tab.get {} s.parts k
def State.setPart (s : State) (k : Nat) (x : Partition) : State := { s with parts := Tab.put s.parts k x }
def State.link (s : State) (k : Nat) : Link := Tab.get {} s.links k
def State.setLink (s : State) (k : Nat) (x : Link) : State := { s with links := Tab.put s.links k x }

/-- The 32 lanes of a warp in order (R18). -/
def lanes : List Nat := List.range 32

/-- The core of a warp and of a block, by their keys. -/
def coreOfWarp (k : Nat) : Nat := k / 48
def coreOfBlock (b : Nat) : Nat := b / 16
/-- The cluster and the stack of a core (R12). -/
def clusterOf (c : Nat) : Nat := c / 4
def stackOf (c : Nat) : Nat := c / 64
/-- The cores of a cluster. -/
def coresOfCluster (u : Nat) : List Nat := (List.range 4).map (4 * u + ·)

/-- The keys of the warp slots of a core, and of its block slots. -/
def warpSlotsOf (c : Nat) : List Nat := (List.range 48).map (48 * c + ·)
def blockSlotsOf (c : Nat) : List Nat := (List.range 16).map (16 * c + ·)

/-- The keys of a block's warps. -/
def State.warpsOf (s : State) (b : Nat) : List Nat :=
  (warpSlotsOf (coreOfBlock b)).filter fun k =>
    decide ((s.warp k).stat ≠ .absent) && decide ((s.warp k).block = b)

/-- Whether a warp is resident and has not ended. -/
def State.liveWarp (s : State) (k : Nat) : Bool :=
  match (s.warp k).stat with
  | .absent | .ended => false
  | _ => true

/-! ## The issuing slot -/

def Warp.micro (w : Warp) (b : Bool) : Micro := if b then w.mb else w.ma
def Warp.setMicro (w : Warp) (b : Bool) (m : Micro) : Warp := if b then { w with mb := m } else { w with ma := m }
def Ctl.path (c : Ctl) (b : Bool) : Path := if b then c.b else c.a
def Ctl.setPath (c : Ctl) (b : Bool) (p : Path) : Ctl := if b then { c with b := p } else { c with a := p }

/-- The warp that issues. -/
def State.cw (s : State) : Warp := s.warp s.cur.warp
def State.setCw (s : State) (w : Warp) : State := s.setWarp s.cur.warp w
/-- What the issuing slot holds inside its packet. -/
def State.mic (s : State) : Micro := s.cw.micro s.cur.slotB
def State.setMic (s : State) (m : Micro) : State := s.setCw (s.cw.setMicro s.cur.slotB m)
/-- The issuing slot's path, lane mask and packet (R93). -/
def State.path (s : State) : Path := s.cw.ctl.path s.cur.slotB
def State.mask (s : State) : W32 := s.path.mask
def State.pc (s : State) : Nat := s.path.pc
/-- The core, block and launch of the issuing warp. -/
def State.here (s : State) : Nat := coreOfWarp s.cur.warp
def State.myBlock (s : State) : Nat := s.cw.block
def State.myLaunch (s : State) : Launch := s.launch (s.block s.myBlock).launch
def State.myCtx (s : State) : Nat := s.myLaunch.ctx

/-- The byte address of a word of a packet (R41). -/
def wordAddr (codeBase pc word : Nat) : Word := BitVec.ofNat 64 (codeBase + 12 * pc + 4 * word)

/-- The code base of a warp (R80). -/
def State.codeBase (s : State) (k : Nat) : Nat := (s.launch (s.block (s.warp k).block).launch).record.code

/-- The byte address of the word a slot stands at. -/
def State.slotAddr (s : State) (t : Turn) : Word :=
  wordAddr (s.codeBase t.warp) ((s.warp t.warp).ctl.path t.slotB).pc ((s.warp t.warp).micro t.slotB).word

/-- The byte address of the word that issues. -/
def State.myAddr (s : State) : Word := s.slotAddr s.cur

/-! ## Reading registers: the values at the start of the chain group (R44) -/

/-- `S[r]` (R24). -/
def State.rdS (s : State) (r : Nat) : Word := Tab.get 0#64 s.mic.src.s r
/-- `V[r][l]` (R23). -/
def State.rdV (s : State) (r l : Nat) : Word := Tab.get 0#64 s.mic.src.v (32 * r + l)
/-- `P[r][l]`: p0 reads true (R25). -/
def State.rdP (s : State) (r l : Nat) : Bool := r == 0 || (Tab.get 0#32 s.mic.src.p r).getLsbD l
/-- `NF[i]` (R26). -/
def State.rdNf (s : State) (i : Nat) : Word := Tab.get 0#64 s.mic.src.nf i

/-- The guard of a word in a lane: P[P][l] XOR N (R39). -/
def State.guard (s : State) (h : Hdr) (l : Nat) : Bool := s.rdP h.p.toNat l != h.n
/-- Lane l stands in the issuing slot's mask. -/
def State.inMask (s : State) (l : Nat) : Bool := s.mask.getLsbD l
/-- `active(l)` (R8). -/
def State.active (s : State) (h : Hdr) (l : Nat) : Bool := s.inMask l && s.guard h l
/-- A uniform instruction takes effect when some lane of the mask has its guard true (R40). -/
def State.taken (s : State) (h : Hdr) : Bool := lanes.any (s.active h)
/-- The active lanes in increasing order. -/
def State.activeLanes (s : State) (h : Hdr) : List Nat := lanes.filter (s.active h)

/-- The number whose bit i is f i, for i below n. -/
def bitSum (f : Nat → Bool) : Nat → Nat
  | 0 => 0
  | n + 1 => bitSum f n + (if f n then 2 ^ n else 0)

/-- The 32-bit mask of the lanes that meet a test. -/
def laneMask (f : Nat → Bool) : W32 := BitVec.ofNat 32 (bitSum f 32)

/-! ## Writing registers -/

/-- A write to a register drops the latch that holds it (R55). -/
def Latch.after (l w : Latch) : Latch := if l = w then .invalid else l

/-- The warp with `S[r] := x`. -/
def Warp.putS (w : Warp) (r : Nat) (x : Word) : Warp :=
  { w with regs := { w.regs with s := Tab.put w.regs.s r x }, latch := w.latch.after (.sreg r) }

/-- The table of v-registers with lane l of register r set to f l in every lane that meets a test. -/
def putLanes (t : Tab Word) (r : Nat) (act : Nat → Bool) (f : Nat → Word) : Tab Word :=
  lanes.foldl (fun t l => if act l then Tab.put t (32 * r + l) (f l) else t) t

/-- The warp with `V[r][l] := f l`, good (R403), in the lanes that meet a test. -/
def Warp.putV (w : Warp) (r : Nat) (act : Nat → Bool) (f : Nat → Word) : Warp :=
  { w with
    regs := { w.regs with v := putLanes w.regs.v r act f, bad := w.regs.bad.filter fun n => !(n / 32 == r && act (n % 32)) }
    latch := w.latch.after (.vreg r) }

/-- The warp with `P[r][l] := f l` in the lanes that meet a test; a write to p0 is discarded (R25). -/
def Warp.putP (w : Warp) (r : Nat) (act f : Nat → Bool) : Warp :=
  if r = 0 then w else
    { w with
      regs := { w.regs with
        p := Tab.put w.regs.p r (laneMask fun l => if act l then f l else (Tab.get 0#32 w.regs.p r).getLsbD l) },
      latch := w.latch.after (.preg r) }

/-- The warp with `NF[i] := x` (R26). -/
def Warp.putNf (w : Warp) (i : Nat) (x : Word) : Warp :=
  { w with regs := { w.regs with nf := Tab.put w.regs.nf i x } }

def State.putS (s : State) (r : Nat) (x : Word) : State := s.setCw (s.cw.putS r x)
def State.putV (s : State) (r : Nat) (act : Nat → Bool) (f : Nat → Word) : State := s.setCw (s.cw.putV r act f)
def State.putP (s : State) (r : Nat) (act f : Nat → Bool) : State := s.setCw (s.cw.putP r act f)
def State.putNf (s : State) (i : Nat) (x : Word) : State := s.setCw (s.cw.putNf i x)

/-! ## Immediates -/

/-- The immediate of a format I word with its prefixes (R49), as the number its bits make. -/
def immBits (pfx : List (BitVec 18)) (i : Nat) : Nat :=
  match pfx with
  | [] => i
  | [p] => p.toNat * 64 + i
  | p :: q :: _ => p.toNat * 2 ^ 24 + q.toNat * 64 + i

/-- The width of the immediate that the prefixes make (R49). -/
def immWidth (pfx : List (BitVec 18)) : Nat :=
  match pfx with
  | [] => 6
  | [_] => 24
  | _ :: _ :: _ => 42

/-- The sign-extended immediate of the issuing word (R49). -/
def State.imm (s : State) (i : BitVec 6) : Int :=
  sextNat (immBits s.mic.pfx i.toNat) (immWidth s.mic.pfx)

/-- The immediate read as an unsigned field (R100). -/
def State.immU (s : State) (i : BitVec 6) : Nat := immBits s.mic.pfx i.toNat

/-- The byte offset that a format M word's prefix carries, or 0 (R47). -/
def State.off (s : State) : Int :=
  match s.mic.pfx with
  | [] => 0
  | p :: _ => p.toInt

/-- `S[a]`, or 0 where a is 0 and names no register (R100). -/
def State.rdOpt (s : State) (a : BitVec 6) : Word := if a = 0#6 then 0#64 else s.rdS a.toNat

/-! ## The agenda and the free values -/

/-- Adds a device step to the end of the agenda, unless it stands there already (log 3). -/
def State.later (s : State) (i : Instr) : State := { s with agenda := addOnce s.agenda i }

/-- Draws the number of the next free value (log 4). -/
def State.draw (s : State) : Nat × State := (s.fresh, { s with fresh := s.fresh + 1 })

/-! ## Cycles and stall counters -/

/-- Free shares of a count among counters, the last of which takes the rest: draw number i and the share's place
make each share (log 4). -/
def shareOut (i rest : Nat) : List Nat → Tab Word → Tab Word
  | [], t => t
  | [c], t => Tab.put t c (Tab.get 0#64 t c + BitVec.ofNat 64 rest)
  | c :: cs, t =>
    let n := min (Config.counted (64 * i + c)) rest
    shareOut i (rest - n) cs (Tab.put t c (Tab.get 0#64 t c + BitVec.ofNat 64 n))

/-! ## Traps -/

/-- The causes of R381. -/
inductive Cause where
  | stopped | illegal | pipeClash | regRange | format | align | bounds | page | protection | baton | divStack
  | nprOverrun | software | break | svc | watch | poison
  deriving DecidableEq, Repr

/-- The code of a cause (R381). -/
def Cause.code : Cause → Nat
  | .stopped => 0x00 | .illegal => 0x01 | .pipeClash => 0x02 | .regRange => 0x03 | .format => 0x04
  | .align => 0x05 | .bounds => 0x06 | .page => 0x07 | .protection => 0x08 | .baton => 0x09
  | .divStack => 0x0A | .nprOverrun => 0x0B | .software => 0x0C | .break => 0x0D | .svc => 0x0E
  | .watch => 0x0F | .poison => 0x10

/-- What a trap records: its cause, the trap address, the byte address of the word, the syndrome of R355, the
REWRITTEN flag of R250 and whether the resume sets the pass flag (R381, R383). -/
structure TrapInfo where
  cause : Cause
  taddr : Word
  waddr : Word
  synd : BitVec 16 := 0#16
  rewritten : Bool := false
  pass : Bool := false
  deriving DecidableEq, Repr

/-- A slot stands at a packet boundary: no word of its packet has issued. -/
def Micro.atBoundary (m : Micro) : Bool := m.word == 0 && !m.mid

/-- A warp stands at a packet boundary: every live slot does, and no transfer is pending. -/
def Warp.atBoundary (w : Warp) : Bool :=
  (!w.ctl.a.live || w.ma.atBoundary) && (!w.ctl.b.live || w.mb.atBoundary) && w.pend.isNone

/-- A wait of a group that has not issued (R215, R232, R310). -/
def Wait.forRoom : Wait → Bool
  | .room _ => true
  | _ => false

/-- Some live slot of the warp waits at a word that has issued. -/
def Warp.waits (w : Warp) : Bool :=
  let waits (m : Micro) : Bool := decide (m.wait ≠ .none) && !m.wait.forRoom
  (w.ctl.a.live && waits w.ma) || (w.ctl.b.live && waits w.mb)

/-- A wait of a slot that blocks its whole warp: all of R111 but `bar`, at which the other slot goes on (R317). -/
def Wait.ofWarp : Wait → Bool
  | .bowait _ _ _ _ _ _ | .baton | .take _ _ | .xswap _ _ _ _ _ _ | .chain _ => true
  | .none | .bar _ | .room _ | .remote _ => false

/-- A slot's word waits for the reply of another device (R375). -/
def Wait.isRemote : Wait → Bool
  | .remote _ => true
  | _ => false

/-- The wait of a slot is one of R111. -/
def Wait.blocks : Wait → Bool
  | .bar _ => true
  | w => w.ofWarp

/-- The warp is blocked (R111): a slot waits at a word that blocks the warp, or every live slot at a word of R111. -/
def Warp.blocked (w : Warp) : Bool :=
  (w.ctl.a.live && w.ma.wait.ofWarp) || (w.ctl.b.live && w.mb.wait.ofWarp) ||
    ((w.ctl.a.live || w.ctl.b.live) && (!w.ctl.a.live || w.ma.wait.blocks) && (!w.ctl.b.live || w.mb.wait.blocks))

/-- The words of the warp run on the RE: it is promoted, or finishes a packet there before it leaves (R121). -/
def Warp.onRe (w : Warp) : Bool := decide (w.engine = .re) || decide (w.engine = .demoting)

/-- The warp could issue but for what timing and the units decide (R111): it is neither blocked, asleep, yielding nor
draining, no load of another device is unanswered (R390), and a live slot does not wait. One that a context is granted
issues only what is left of its packets (R121). -/
def Warp.ready (w : Warp) : Bool :=
  let goes (p : Path) (m : Micro) : Bool := p.live && decide (m.wait = .none) && !(w.granted && m.atBoundary)
  decide (w.stat = .running) && !w.blocked && w.sleep == 0 && !w.yielding && w.reply.isNone &&
    !(w.ma.wait.isRemote || w.mb.wait.isRemote) && (decide (w.engine = .ie) || decide (w.engine = .re)) && (goes w.ctl.a w.ma || goes w.ctl.b w.mb)

/-- A number of cycles as a warp counts them: its span's (R104) and those it has been ready for without issuing (R111). -/
def Warp.spend (w : Warp) (n : Nat) : Warp :=
  { w with nprCount := if w.npr then min (w.nprCount + n) Config.nprLimit else w.nprCount
           waited := if w.ready then w.waited + n else 0 }

/-- A number of cycles passes for the warps of a core; a span that reaches its limit overruns (R104). -/
def State.spend (s : State) (c n : Nat) : State :=
  (warpSlotsOf c).foldl (fun (s : State) k =>
    if s.liveWarp k then
      let s := s.setWarp k ((s.warp k).spend n)
      if (s.warp k).npr ∧ (s.warp k).nprCount = Config.nprLimit then s.later (.nprOverrun k) else s
    else s) s

/-! ## Triggers and contexts of the RE (R119 to R121) -/

/-- Whether a trigger of a warp stands (R119). -/
def Warp.triggered (w : Warp) : Bool := !w.holds.isEmpty || !w.trailing.isEmpty || w.requested || w.sole

/-- The class of a warp: the lowest class number among its risen triggers; after a demotion classes 2 and 3 do not count
for a while (R119). -/
def Warp.cls (w : Warp) : Option Nat :=
  if !w.holds.isEmpty then some 1
  else if !w.trailing.isEmpty && w.cooling == 0 then some 2
  else if w.sole && w.cooling == 0 then some 3
  else if w.requested then some 4
  else none

/-- The place of a warp among those that wait for a context: by class, then by the time its trigger rose (R120). -/
def Warp.turnOf (w : Warp) : Nat := w.cls.getD 5 * 2 ^ 64 + Tab.get 0 w.risen (w.cls.getD 5)

/-- A warp with a risen trigger asks for an RE context (R120). -/
def State.askContext (s : State) (k : Nat) : State := s.later (.reContextGrant k)

/-- A trigger of a class rises: the warp asks for a context (R119, R120). -/
def State.raise (s : State) (k cls : Nat) : State :=
  let c := coreOfWarp k
  let n := (s.core c).rises
  let s := s.setCore c { s.core c with rises := n + 1 }
  (s.setWarp k { s.warp k with risen := Tab.put (s.warp k).risen cls n }).askContext k

/-- The warps of a core that wait for a context and may be given one. -/
def State.contextWaiters (s : State) (core : Nat) : List Nat :=
  (s.core core).reWaiting.filter fun k => (s.warp k).cls.isSome && decide ((s.warp k).stat = .running)

/-- A context of a core is free: the first waiter asks again (R120). -/
def State.freeContext (s : State) (core warp : Nat) : State :=
  let s := s.setCore core { s.core core with reWarps := without (s.core core).reWarps warp }
  (leastBy (fun k => (s.warp k).turnOf) (s.contextWaiters core)).elim s s.askContext

/-- A promoted or promoting warp begins to demote (R121); one that has not begun to leave the IE gives its context
back. -/
def State.demote (s : State) (k : Nat) : State :=
  let w := s.warp k
  match w.engine with
  | .demoting => s
  | .ie => if w.granted then (s.setWarp k { w with granted := false }).freeContext (coreOfWarp k) k else s
  | _ =>
    (s.setWarp k { w with engine := .demoting, displaced := false, latch := .invalid }).later (.demotionComplete k)

/-- A displaced warp demotes, where it is promoting as soon as it is on the RE (R120, R121). -/
def State.displace (s : State) (k : Nat) : State :=
  if (s.warp k).engine = .promoting then s.setWarp k { s.warp k with displaced := true } else s.demote k

/-- A promoted warp whose last trigger has ended demotes, one that is promoting as soon as it is on the RE (R121); it
waits for no context. -/
def State.untrigger (s : State) (k : Nat) : State :=
  if (s.warp k).triggered then s
  else
    let c := coreOfWarp k
    let s := if (s.core c).reWaiting.contains k then
      s.setCore c { s.core c with reWaiting := without (s.core c).reWaiting k } else s
    if (s.warp k).engine = .promoting then s else s.demote k

/-- The warps of a block stop at their packet boundaries: the block is being saved, a forced pre-emption from its
deadline on (R385, R389, R391), or its launch is to be rolled back, aborted or cancelled (R371, R387, R408). -/
def State.stopping (s : State) (b : Nat) : Bool :=
  let x := s.block b
  let l := s.launch x.launch
  l.undoing || l.ending.isSome || (x.saving.isSome && !(x.saving == some .forced && !x.deadline))

/-- A warp inside an npr span goes on while the save is a forced pre-emption or an in-field test's (R389, R413). -/
def State.spared (s : State) (k : Nat) : Bool :=
  let w := s.warp k
  let x := s.block w.block
  let l := s.launch x.launch
  w.npr && !l.undoing && l.ending.isNone && (x.saving == some .forced || x.saving == some .test)

/-- A slot that waits to issue stops waiting. -/
def Micro.unheld (m : Micro) : Micro := if m.wait.forRoom then { m with wait := .none } else m

/-- A slot of the warp waits on the RE for the reply of another device. -/
def Warp.remoteOnRe (w : Warp) : Bool :=
  w.onRe && ((w.ctl.a.live && w.ma.wait.isRemote) || (w.ctl.b.live && w.mb.wait.isRemote))

/-- A warp of a block that stops does so at a packet boundary, where it is not blocked; a packet that has not issued,
since something holds it, does not keep the warp from its boundary (R385). One that waits on the RE for another device
demotes, for its load to be outstanding on the IE (R390, R391). -/
def State.haltAtBoundary (s : State) (k : Nat) : State :=
  let w := s.warp k
  if w.stat = .running ∧ w.remoteOnRe ∧ s.stopping w.block then s.demote k
  else if w.stat = .running ∧ !w.stepping ∧ w.atBoundary ∧ !w.waits ∧ w.reply.isNone ∧ s.stopping w.block ∧ !s.spared k then
    (s.setWarp k { w with stat := .halted, latch := .invalid, ma := w.ma.unheld, mb := w.mb.unheld }).demote k
  else s

/-- The gang or region members that are saved and restored with a block (R89, R90), itself included. -/
def State.members (s : State) (b : Nat) : List Nat :=
  let x := s.block b
  let r := (s.launch x.launch).record
  if x.replay then [b]
  else if r.region then
    ((List.range 64).flatMap fun c => blockSlotsOf (64 * stackOf (coreOfBlock b) + c)).filter fun y =>
      (s.block y).used && !(s.block y).replay && decide ((s.block y).launch = x.launch)
  else if r.gang = 1 then [b]
  else
    ((List.range 4).flatMap fun c => blockSlotsOf (4 * clusterOf (coreOfBlock b) + c)).filter fun y =>
      (s.block y).used && !(s.block y).replay && decide ((s.block y).launch = x.launch) && decide ((s.block y).lin / r.gang = x.lin / r.gang)

/-- The reason of a save that another meets: a trap replaces any other (R385), and a capacity eviction, which waits for no
blocking point and spares no npr span, replaces a pre-emption and an in-field test's save (R135). -/
def SaveReason.meets (old : Option SaveReason) (r : SaveReason) : SaveReason :=
  match old with
  | none => r
  | some o => if r = .trap ∨ (r = .evict ∧ o ≠ .trap ∧ o ≠ .step) then r else o

/-- A save of one block begins: it takes the reason, its warps stop at their packet boundaries, and the save stands on the
agenda. -/
def State.startSaveOne (s : State) (r : SaveReason) (b : Nat) : State :=
  let x := s.block b
  let s := s.setBlock b { x with saving := some (SaveReason.meets x.saving r) }
  let s := (s.warpsOf b).foldl State.haltAtBoundary s
  s.later (.blockSave b)

/-- A save of a block and of the members saved with it (R89, R90, R385). -/
def State.startSave (s : State) (b : Nat) (r : SaveReason) : State := (s.members b).foldl (fun s y => s.startSaveOne r y) s

/-- Every resident warp of a launch stops at its next packet boundary. -/
def State.stopLaunch (s : State) (l : Nat) : State :=
  s.warps.foldl (fun (s : State) (e : Nat × Warp) =>
    if (s.block e.2.block).launch = l ∧ (s.block e.2.block).used then s.haltAtBoundary e.1 else s) s

/-- A launch is to be rolled back (R408): its warps stop; a second trigger is ignored. -/
def State.undo (s : State) (l : Nat) : State :=
  ((s.setLaunch l { s.launch l with undoing := true }).stopLaunch l).later (.rollback l)

/-- The warp as its trap leaves it (R381, R383): stopped at the first word of the slot's group. -/
def Warp.trapped (w : Warp) (slotB : Bool) (i : TrapInfo) : Warp :=
  let m := w.micro slotB
  { w.setMicro slotB { m with word := m.group, mid := false, pkt := [], pfx := [], did := [], wait := .none } with
    stat := .stopped
    cause := BitVec.ofNat 8 (i.cause.code + if i.rewritten then 0x80 else 0)
    taddr := i.taddr
    waddr := i.waddr
    synd := i.synd
    pass := i.pass
    byStop := false
    stepping := false
    npr := w.npr && decide (i.cause ≠ .nprOverrun)
    lastB := slotB
    latch := .invalid }

/-- Taking a trap: the warp stops with its cause and address recorded, and its block is saved (R381, R385); a
POISON trap has the launch rolled back (R408), unless an audit replay meets it (R411). -/
def State.takeTrap (s : State) (t : Turn) (i : TrapInfo) : State :=
  let w := s.warp t.warp
  let s := (s.setWarp t.warp (w.trapped t.slotB i)).demote t.warp
  let s := s.startSave w.block .trap
  if i.cause = .poison ∧ !(s.block w.block).replay then s.undo (s.block w.block).launch else s

/-- The word that issues traps; the trap address is as the cause's row of R381 says. -/
def State.trap (s : State) (c : Cause) (ta : Word) : State :=
  s.takeTrap s.cur { cause := c, taddr := ta, waddr := s.myAddr }

/-- The word that issues traps with its own byte address as the trap address (R381). -/
def State.trapHere (s : State) (c : Cause) : State := s.trap c s.myAddr

/-! ## Waiting and moving on -/

/-- The slot that issues waits at its word (R111). -/
def State.waitFor (s : State) (w : Wait) : State := s.setMic { s.mic with wait := w }

/-- Bit 31 of a word: it chains to the next word of its packet (R38). -/
def chained (w : W32) : Bool := w.getLsbD 31

/-- The major opcode of a word (R38). -/
def opOf (w : W32) : Nat := (w.extractLsb' 18 8).toNat

/-- The words of a chain group that begins a list of words; a prefix belongs to the word it attaches to (R43). -/
def groupOf (ws : List W32) : List W32 := ws.take ((ws.takeWhile fun w => chained w || opOf w == 1).length + 1)

/-- The slot past the word it stands at; it stays inside its group when the word chains (R43). -/
def Micro.passed (m : Micro) : Micro :=
  let c := chained (m.pkt.getD m.word 0#32)
  { m with word := m.word + 1, mid := c, pfx := [], wait := .none
           did := if c then m.did else [], wakes := if c then m.wakes else [] }

/-- What the word that the slot stands at finds of its wait. -/
def Micro.wake (m : Micro) : Wake := Tab.get .none m.wakes m.word

/-- The places of the words of the slot's group but its nops and prefixes. -/
def Micro.acting (m : Micro) : List Nat :=
  ((List.range (groupOf (m.pkt.drop m.group)).length).map (m.group + ·)).filter fun i => decide (1 < opOf (m.pkt.getD i 0#32))

/-- The slot's word is the only one of its group that acts. -/
def Micro.alone (m : Micro) : Bool := m.acting.all fun i => i == m.word

/-- The group of a slot executes again from its first word (R44; log 53). -/
def Micro.retry (m : Micro) : Micro :=
  { m with word := if m.mid then m.group else m.word, pfx := if m.mid then [] else m.pfx, wait := .none }

/-- The group of a slot executes again, and the word that it waited at finds what has come of its wait (R44; log 53). -/
def Micro.woken (m : Micro) (x : Wake) : Micro := { m.retry with wakes := Tab.put m.wakes m.word x }

/-- The wait of a slot's word is over, with an effect on its warp. A word that is alone in its group has completed; a
group of several executes as a whole, in which the word finds what has come of its wait (R44; log 53). -/
def State.finishWait (s : State) (t : Turn) (x : Wake) (f : Warp → Warp) : State :=
  let w := s.warp t.warp
  let m := w.micro t.slotB
  if m.alone then
    let w := f w
    s.setWarp t.warp (w.setMicro t.slotB (w.micro t.slotB).passed)
  else s.setWarp t.warp (w.setMicro t.slotB (m.woken x))

/-- The live slots of a block's warps that wait as a test says. -/
def State.waiting (s : State) (b : Nat) (test : Wait → Bool) : List Turn :=
  (s.warpsOf b).flatMap fun k =>
    [⟨k, false⟩, ⟨k, true⟩].filter fun t =>
      ((s.warp k).ctl.path t.slotB).live && test ((s.warp k).micro t.slotB).wait

end Sys2Proof.Machine
end

