-- ==== Sys2Proof/Machine/Formats.lean ====
section
/-! DEFINITION. Number formats to the bit (spec/07): descriptors, the exact value of an element, and the one
rounding of an exact value into an element. -/

namespace Sys2Proof.Machine

/-- The fields of a number-format descriptor (R145). -/
structure Nf where
  kind : Nat
  width : Nat
  ew : Nat
  fw : Nat
  bias : Int
  specials : Nat
  rnd : Nat
  sat : Bool
  ftz : Bool
  deriving DecidableEq, Repr

/-- The fields of a descriptor's 64 bits (R145). -/
def nfOf (d : Word) : Nf :=
  { kind := bits d.toNat 3 0
    width := bits d.toNat 10 4
    ew := bits d.toNat 14 11
    fw := bits d.toNat 20 15
    bias := sextNat (bits d.toNat 32 21) 12
    specials := bits d.toNat 34 33
    rnd := bits d.toNat 37 35
    sat := d.getLsbD 38
    ftz := d.getLsbD 39 }

/-- The fields of fp32 and fp64 (R147). -/
def fp32 : Nf := nfOf (Config.standardOf 11)
def fp64 : Nf := nfOf (Config.standardOf 10)

/-- Whether a descriptor is valid (R145, R146). -/
def nfValid (d : Word) : Bool :=
  let f := nfOf d
  d.toNat / 2 ^ 40 == 0 && decide (f.rnd ≤ 4) &&
    match f.kind with
    | 0 | 1 =>
      [4, 8, 16, 32, 64].contains f.width && f.ew == 0 && f.fw == 0 && f.bias == 0 && f.specials == 2 && !f.ftz
    | 2 =>
      [4, 6, 8, 16, 32, 64].contains f.width && f.width == 1 + f.ew + f.fw && decide (2 ≤ f.ew) && decide (f.ew ≤ 11)
        && decide (1 ≤ f.fw) && decide (f.fw ≤ 52) && decide (f.specials ≤ 2)
    | 3 => f.width == 8 && f.ew == 2 && f.fw == 4 && f.specials == 1 && !f.ftz && f.sat
    | 4 => f.width == 8 && f.ew == 8 && f.fw == 0 && f.specials == 1 && !f.ftz
    | _ => false

/-- Integer kinds (R148). -/
def Nf.isInt (f : Nf) : Bool := f.kind == 0 || f.kind == 1

/-- The width of the container of an element (R159). -/
def Nf.cont (f : Nf) : Nat := if f.width = 6 then 8 else f.width

/-- Elements of a v-register lane (R159). -/
def Nf.count (f : Nf) : Nat := 64 / f.cont

/-- An exact value: NaN, an infinity, or (−1)^neg × m × 2^e, zero keeping its sign (R149, R155). -/
inductive Val where
  | nan
  | inf (neg : Bool)
  | fin (neg : Bool) (m : Nat) (e : Int)
  deriving DecidableEq, Repr

/-- 2 to a nonnegative integer exponent. -/
def pow2 (k : Int) : Nat := 2 ^ k.toNat

/-- ⌊log2(m × 2^e)⌋ for positive m. -/
def floorLog (m : Nat) (e : Int) : Int := (Nat.log2 m : Int) + e

/-- The order of m1 × 2^e1 and m2 × 2^e2. -/
def cmpMag (m1 : Nat) (e1 : Int) (m2 : Nat) (e2 : Int) : Ordering :=
  compare (m1 * pow2 (e1 - min e1 e2)) (m2 * pow2 (e2 - min e1 e2))

/-- An integer as an exact value. -/
def Val.ofInt (i : Int) : Val := .fin (decide (i < 0)) i.natAbs 0

/-- An integer multiple of a power of two; a zero takes the sign given. -/
def Val.ofScaled (i : Int) (e : Int) (zneg : Bool) : Val :=
  if i = 0 then .fin zneg 0 0 else .fin (decide (i < 0)) i.natAbs e

/-- The integer of a finite value at a common exponent no greater than its own. -/
def scaled (neg : Bool) (m : Nat) (e e0 : Int) : Int :=
  if neg then -((m * pow2 (e - e0) : Nat) : Int) else ((m * pow2 (e - e0) : Nat) : Int)

/-! ## The value of an element -/

/-- The value of a minifloat element (R149), a subnormal read as zero under ftz (R154). -/
def decodeMini (f : Nf) (x : Nat) : Val :=
  let s := bits x (f.width - 1) (f.width - 1) == 1
  let ex := (x >>> f.fw) % 2 ^ f.ew
  let fr := x % 2 ^ f.fw
  let top := 2 ^ f.ew - 1
  if ex = 0 then
    if fr = 0 ∨ f.ftz then .fin s 0 0 else .fin s fr (1 - f.bias - f.fw)
  else if ex = top ∧ f.specials = 0 then (if fr = 0 then .inf s else .nan)
  else if ex = top ∧ f.specials = 1 ∧ fr = 2 ^ f.fw - 1 then .nan
  else .fin s (2 ^ f.fw + fr) (ex - f.bias - f.fw)

/-- The first binade of each marker position of VT8 (R157). -/
def vtBase : List Nat := [0, 1, 3, 7, 11, 15, 19]

/-- The magnitude of a VT8 code 1 to 127 as m × 2^e (R157). -/
def vtMag (bias : Int) (m : Nat) : Nat × Int :=
  let p := Nat.log2 m
  let ew := min p 2
  let fw := p - ew
  let e := (m >>> fw) % 2 ^ ew
  (2 ^ fw + m % 2 ^ fw, ((vtBase.getD p 0 + e : Nat) : Int) - bias - fw)

/-- The value of a tapered element; NaR is read as NaN (R157, R158). -/
def decodeVt (f : Nf) (x : Nat) : Val :=
  let m := x % 128
  if m = 0 then (if x < 128 then .fin false 0 0 else .nan)
  else
    let (g, e) := vtMag f.bias m
    .fin (decide (128 ≤ x)) g e

/-- The exact value of an element under its descriptor (R148, R149, R156, R157). -/
def decodeElem (f : Nf) (x : Nat) : Val :=
  match f.kind with
  | 0 => .ofInt (sextNat x f.width)
  | 1 => .ofInt (x % 2 ^ f.width : Nat)
  | 2 => decodeMini f (x % 2 ^ f.width)
  | 3 => decodeVt f (x % 256)
  | _ => if x % 256 = 255 then .nan else .fin false 1 ((x % 256 : Nat) - f.bias)

/-! ## Rounding -/

/-- `rnd(v, mode, s)` for v = m / 2^k (R152). -/
def rndNat (m k mode : Nat) (s : Bool) : Nat :=
  let fl := m >>> k
  let rem := m % 2 ^ k
  if rem = 0 then fl
  else
    match mode with
    | 0 => if 2 * rem < 2 ^ k then fl else if 2 ^ k < 2 * rem then fl + 1 else fl + fl % 2
    | 1 => fl
    | 2 => if s then fl + 1 else fl
    | 3 => if s then fl else fl + 1
    | _ => if 2 * rem < 2 ^ k then fl else fl + 1

/-- `rnd` of m × 2^e / 2^q to an integer (R152). -/
def rndAt (m : Nat) (e q : Int) (mode : Nat) (s : Bool) : Nat :=
  if q ≤ e then m * pow2 (e - q) else rndNat m (q - e).toNat mode s

/-- The largest finite magnitude of a minifloat format as m × 2^e (R149). -/
def maxFin (f : Nf) : Nat × Int :=
  let top : Int := 2 ^ f.ew - 1
  match f.specials with
  | 0 => (2 ^ (f.fw + 1) - 1, top - 1 - f.bias - f.fw)
  | 1 => (2 ^ (f.fw + 1) - 2, top - f.bias - f.fw)
  | _ => (2 ^ (f.fw + 1) - 1, top - f.bias - f.fw)

/-- The magnitude code of n × 2^q in a minifloat format, for a spacing q no less than that of the subnormals. -/
def miniCode (f : Nf) (n : Nat) (q : Int) : Nat := (q - (1 - f.bias - f.fw)).toNat * 2 ^ f.fw + n

/-- A sign in front of a magnitude code. -/
def withSign (f : Nf) (s : Bool) (code : Nat) : Nat := (if s then 2 ^ (f.width - 1) else 0) + code

/-- The code of the largest finite magnitude. -/
def maxFinCode (f : Nf) : Nat := miniCode f (maxFin f).1 (maxFin f).2

/-- The NaN of a minifloat format; +0 where the format has none (R151, R164). -/
def nanCode (f : Nf) : Nat :=
  match f.specials with
  | 0 => (2 ^ f.ew - 1) * 2 ^ f.fw + 2 ^ (f.fw - 1)
  | 1 => 2 ^ (f.width - 1) - 1
  | _ => 0

/-- A rounded magnitude above the largest finite one (R153). -/
def overflowCode (f : Nf) (s : Bool) : Nat :=
  if f.sat ∨ f.specials = 2 then withSign f s (maxFinCode f)
  else if f.rnd = 1 ∨ (f.rnd = 2 ∧ !s) ∨ (f.rnd = 3 ∧ s) then withSign f s (maxFinCode f)
  else if f.specials = 0 then withSign f s ((2 ^ f.ew - 1) * 2 ^ f.fw)
  else nanCode f

/-- `round` into a minifloat element (R152 to R155). -/
def roundMini (f : Nf) : Val → Nat
  | .nan => nanCode f
  | .inf s => overflowCode f s
  | .fin s m e =>
    if m = 0 then withSign f s 0
    else
      let emin : Int := 1 - f.bias
      let q := max (floorLog m e) emin - f.fw
      let n := rndAt m e q f.rnd s
      if cmpMag n q (maxFin f).1 (maxFin f).2 = .gt then overflowCode f s
      else
        let c := miniCode f n q
        if f.ftz ∧ c < 2 ^ f.fw then withSign f s 0 else withSign f s c

/-- `round` into a tapered element (R158). -/
def roundVt (f : Nf) : Val → Nat
  | .nan => 0x80
  | .inf _ => 0x80
  | .fin s m e =>
    let mag (c : Nat) : Nat × Int := if c = 0 then (0, 0) else vtMag f.bias c
    let lo := ((List.range 128).filter fun c => decide (cmpMag (mag c).1 (mag c).2 m e ≠ .gt)).getLastD 0
    let exact := decide (cmpMag (mag lo).1 (mag lo).2 m e = .eq)
    let hi := if lo = 127 then 127 else lo + 1
    let e0 := min (mag lo).2 (min (mag hi).2 e)
    let a2 := 2 * (m * pow2 (e - e0))
    let mid := (mag lo).1 * pow2 ((mag lo).2 - e0) + (mag hi).1 * pow2 ((mag hi).2 - e0)
    let c :=
      if exact then lo
      else
        match f.rnd with
        | 0 => if a2 < mid then lo else if mid < a2 then hi else (if lo % 2 = 0 then lo else hi)
        | 1 => lo
        | 2 => if s then hi else lo
        | 3 => if s then lo else hi
        | _ => if a2 < mid then lo else hi
    if c = 0 then 0 else (if s then 128 else 0) + c

/-- `round` of a magnitude into a scale-only element (R156). -/
def roundScale (f : Nf) : Val → Nat
  | .nan => 0xFF
  | .inf _ => 0xFF
  | .fin _ m e =>
    if m = 0 then 0
    else
      let k := floorLog m e
      let lo := k + f.bias
      let c : Int :=
        if m = 2 ^ Nat.log2 m then lo
        else
          let tie := compare (2 * m) (3 * 2 ^ Nat.log2 m)
          match f.rnd with
          | 0 => match tie with | .lt => lo | .gt => lo + 1 | .eq => if lo % 2 = 0 then lo else lo + 1
          | 3 => lo + 1
          | 4 => match tie with | .lt => lo | _ => lo + 1
          | _ => lo
      if c < 0 then 0 else if 254 < c then 254 else c.toNat

/-- The ends of an integer type (R148). -/
def intMin (f : Nf) : Int := if f.kind = 0 then -(2 ^ (f.width - 1)) else 0
def intMax (f : Nf) : Int := if f.kind = 0 then 2 ^ (f.width - 1) - 1 else 2 ^ f.width - 1

/-- The nearest value of the type. -/
def clampInt (f : Nf) (i : Int) : Int := if i < intMin f then intMin f else if intMax f < i then intMax f else i

/-- The element of an integer of any size: its low bits. -/
def intCode (w : Nat) (i : Int) : Nat := (i % 2 ^ w).toNat

/-- An integer result into an integer type: wrapped, or the nearest end under sat (R148). -/
def roundInt (f : Nf) (i : Int) : Nat := intCode f.width (if f.sat then clampInt f i else i)

/-- A value rounded to an integer under a mode (R152, R165). -/
def Val.toInt (mode : Nat) (s : Bool) (m : Nat) (e : Int) : Int :=
  if s then -(rndAt m e 0 mode s : Int) else (rndAt m e 0 mode s : Int)

/-- A value that is not an integer's, converted into an integer type (R164, R165). -/
def roundToInt (f : Nf) : Val → Nat
  | .nan => 0
  | .inf s => intCode f.width (if s then intMin f else intMax f)
  | .fin s m e => intCode f.width (clampInt f (Val.toInt f.rnd s m e))

/-- `round(x, F)` for an exact value (R152, R156, R158, R165). -/
def roundVal (f : Nf) (v : Val) : Nat :=
  match f.kind with
  | 0 | 1 => roundToInt f v
  | 2 => roundMini f v
  | 3 => roundVt f v
  | _ => roundScale f v

/-- The element of a value that an instruction selects unchanged: an infinity passes whatever sat holds (R153). -/
def roundSel (f : Nf) (v : Val) : Nat :=
  match v with
  | .inf s => if f.kind = 2 ∧ f.specials = 0 then withSign f s ((2 ^ f.ew - 1) * 2 ^ f.fw) else roundVal f v
  | _ => roundVal f v

/-! ## Exact operations -/

/-- The exact negation; NaN has no sign (R151). -/
def Val.neg : Val → Val
  | .nan => .nan
  | .inf s => .inf (!s)
  | .fin s m e => .fin (!s) m e

/-- The exact magnitude. -/
def Val.abs : Val → Val
  | .nan => .nan
  | .inf _ => .inf false
  | .fin _ m e => .fin false m e

/-- The exact product; ∞ × 0 is invalid (R151, R155). -/
def Val.mul : Val → Val → Val
  | .nan, _ => .nan
  | _, .nan => .nan
  | .inf s, .inf t => .inf (s != t)
  | .inf s, .fin t m _ => if m = 0 then .nan else .inf (s != t)
  | .fin s m _, .inf t => if m = 0 then .nan else .inf (s != t)
  | .fin s m e, .fin t n f => .fin (s != t) (m * n) (e + f)

/-- A negative zero; a positive zero. -/
def Val.isNegZero : Val → Bool
  | .fin s m _ => s && m == 0
  | _ => false
def Val.isPosZero : Val → Bool
  | .fin s m _ => !s && m == 0
  | _ => false
def Val.isNan : Val → Bool
  | .nan => true
  | _ => false

/-- The least exponent among the finite terms. -/
def leastExp : List Val → Int
  | [] => 0
  | .fin _ m e :: t => if m = 0 then leastExp t else min e (leastExp t)
  | _ :: t => leastExp t

/-- The sum of the finite terms at a common exponent. -/
def sumAt (e0 : Int) : List Val → Int
  | [] => 0
  | .fin s m e :: t => (if m = 0 then 0 else scaled s m e e0) + sumAt e0 t
  | _ :: t => sumAt e0 t

/-- The exact sum of any number of terms; a zero sum is signed by R155, and ∞ − ∞ is invalid. -/
def sumVals (rnd : Nat) (ts : List Val) : Val :=
  if ts.any Val.isNan then .nan
  else if ts.contains (.inf false) && ts.contains (.inf true) then .nan
  else if ts.contains (.inf false) then .inf false
  else if ts.contains (.inf true) then .inf true
  else
    let e0 := leastExp ts
    .ofScaled (sumAt e0 ts) e0 (if rnd = 2 then !(ts.all Val.isPosZero) else ts.all Val.isNegZero)

/-- The order of two values that are no NaN, −0 before +0 (R177). -/
def Val.cmpTotal : Val → Val → Ordering
  | .inf s, .inf t => compare t.toNat s.toNat
  | .inf s, _ => if s then .lt else .gt
  | _, .inf t => if t then .gt else .lt
  | .fin s m e, .fin t n f =>
    if m = 0 ∧ n = 0 then compare t.toNat s.toNat
    else
      let e0 := min e f
      compare (scaled s m e e0) (scaled t n f e0)
  | _, _ => .eq

/-- The order of two values, −0 and +0 equal; none where either is NaN (R155, R181). -/
def Val.cmp (a b : Val) : Option Ordering :=
  if a.isNan || b.isNan then none
  else
    match a, b with
    | .fin _ m _, .fin _ n _ => if m = 0 ∧ n = 0 then some .eq else some (a.cmpTotal b)
    | _, _ => some (a.cmpTotal b)

/-- The lesser and the greater of two values, NaN where either is NaN (R177). -/
def Val.min (a b : Val) : Val :=
  if a.isNan || b.isNan then .nan else if b.cmpTotal a = .lt then b else a
def Val.max (a b : Val) : Val :=
  if a.isNan || b.isNan then .nan else if a.cmpTotal b = .lt then b else a

/-- ⌊√n⌋ by the bits of the root, from the bit given downward. -/
def sqrtBits (n : Nat) : Nat → Nat → Nat
  | 0, r => r
  | k + 1, r => if (r + 2 ^ k) * (r + 2 ^ k) ≤ n then sqrtBits n k (r + 2 ^ k) else sqrtBits n k r

/-- ⌊√n⌋. -/
def natSqrt (n : Nat) : Nat := sqrtBits n (Nat.log2 n / 2 + 1) 0

/-- A quotient or root with its remainder kept as one lower bit, so that rounding sees on which side of every
midpoint the exact value lies. -/
def sticky (q : Nat) (inexact : Bool) : Nat := 2 * q + (if inexact then 1 else 0)

/-- The exact square root of a positive value to well over any format's precision, with a sticky bit (R190). -/
def sqrtVal (m : Nat) (e : Int) : Val :=
  let odd := e % 2 ≠ 0
  let m0 := if odd then 2 * m else m
  let e0 := if odd then e - 1 else e
  let r := natSqrt (m0 * 2 ^ 700)
  .fin false (sticky r (decide (r * r ≠ m0 * 2 ^ 700))) (e0 / 2 - 350 - 1)

/-- The exact quotient of two positive magnitudes to well over any format's precision, with a sticky bit. -/
def divMag (m : Nat) (e : Int) (n : Nat) (f : Int) : Nat × Int :=
  let k := 600 + Nat.log2 n
  (sticky (m * 2 ^ k / n) (decide (m * 2 ^ k % n ≠ 0)), e - f - k - 1)

end Sys2Proof.Machine
end

