-- ==== Sys2Proof/Machine/Home.lean ====
section
/-! DEFINITION. Global memory at its home slices (spec/12 R266 to R268, spec/13 R281 to R290, R293, R298, spec/20
R403): writes, write-backs, pulls of release records, recalls of partial reductions and read windows. -/

namespace Sys2Proof.Machine

/-- The new value of a word of w bits from its old value m and the operand v; for cas, e is compared and n
replaces (R293, R294). -/
def combine (op w m v e n : Nat) : Nat :=
  let f := if w = 32 then fp32 else fp64
  let x := decodeElem f m
  let y := decodeElem f v
  match op with
  | 0 => (m + v) % 2 ^ w
  | 1 => if sextNat v w < sextNat m w then v else m
  | 2 => if sextNat m w < sextNat v w then v else m
  | 3 => if v < m then v else m
  | 4 => if m < v then v else m
  | 5 => m &&& v
  | 6 => m ||| v
  | 7 => m ^^^ v
  | 8 => v
  | 9 => if m = e then n else m
  | 10 => roundVal f (sumVals 0 [x, y])
  | 11 => roundSel f (x.min y)
  | 12 => roundSel f (x.max y)
  | _ => m

/-- The line of a physical address (R263). -/
def lineOf (p : Nat) : Nat := p / 128

/-- Addresses paired with the bytes of a string. -/
def cellsAt (p : Nat) : List Byte → List (Nat × Byte)
  | [] => []
  | b :: bs => (p, b) :: cellsAt (p + 1) bs

/-- The memory with single bytes written, in order. -/
def writeCells (m : Memory) (cells : List (Nat × Byte)) : Memory :=
  cells.foldl (fun m c => Memory.set m c.1 c.2) m

/-- Poisoned words that a write leaves poisoned: those it does not cover whole (R403). -/
def poisonAfter (poison : List Nat) (cells : List (Nat × Byte)) : List Nat :=
  poison.filter fun w => !((List.range 8).all fun i => cells.any fun c => c.1 == 8 * w + i)

/-- The lines that a write touches. -/
def linesOf (cells : List (Nat × Byte)) : List Nat := (cells.map fun c => lineOf c.1).eraseDups

/-! ## The L2 slices (R266, R267) -/

/-- The home slice of a physical address (R266): 32 × home die + slice, and 128 slices more for each other device. The die
of an HBM address carries its stack; that of an LPDDR address is chosen by the address. -/
def sliceOf (p : Nat) : Nat :=
  let a := p % 2 ^ 60
  let die := if p.testBit 63 then bits a 13 12 ^^^ bits a 23 22 else bits p 62 60 / 2
  128 * (p / 2 ^ 64) + 32 * die + (bits a 11 7 ^^^ bits a 20 16 ^^^ bits a 29 25)

/-- The home slice of a line. -/
def sliceOfLine (line : Nat) : Nat := sliceOf (128 * line)

/-- The key of a line's set: of 1,024 in its slice, the one that bits 21:12 of the address name (log 23). -/
def l2Set (line : Nat) : Nat := 1024 * sliceOfLine line + line / 32 % 1024

/-- The 128 bytes of a line at home are all zero (R267). -/
def State.zeroAt (s : State) (line : Nat) : Bool := (List.range 128).all fun i => s.mem.byte (128 * line + i) == 0#8

/-- The tag of a line, where its slice holds one. -/
def State.l2Find (s : State) (line : Nat) : Option L2Tag := (Tab.get [] s.l2 (l2Set line)).find? fun t => t.line == line

/-- Data rows in use in a slice: those of tags without the zero flag. -/
def State.l2Rows (s : State) (slice : Nat) : Nat :=
  ((s.l2.filter fun (e : Nat × List L2Tag) => e.1 / 1024 == slice).flatMap fun e => e.2.filter fun t => !t.zero).length

/-- Tags of a set after the least recently used gave way: of 32 the last, and the last with a data row where the line
that comes needs one and its slice, that tag's row counted, has none free (R266, R267). -/
def l2Room (ts : List L2Tag) (rowFull : Bool) : List L2Tag :=
  let gone := if 32 ≤ ts.length then ts.getLast? else none
  let ts := if 32 ≤ ts.length then ts.dropLast else ts
  if rowFull && gone.all (·.zero) then
    match ts.reverse.find? fun t => !t.zero with
    | none => ts
    | some v => ts.filter fun t => t.line != v.line
  else ts

/-! ## DRAM channels (R266, R406) -/

/-- The channel of an address of a tier, within its HBM stack or within LPDDR 6 (R266). -/
def channelOf (tier a : Nat) : Nat :=
  if tier = 0 then 8 * (bits a 8 7 ^^^ bits a 17 16) + (bits a 11 9 ^^^ bits a 22 20)
  else 16 * (bits a 13 12 ^^^ bits a 23 22) + (bits a 11 8 ^^^ bits a 27 24)

/-- Where a log entry places a device physical address (R405): unit or path, and stack and channel. -/
def dramTier (p : Nat) : Nat := bits p 63 63
def dramPlace (p : Nat) : Nat := bits p 62 60 * 256 * (1 - dramTier p) + channelOf (dramTier p) (p % 2 ^ 60)

/-- The key of an address's channel. -/
def channelKey (p : Nat) : Nat := 2 ^ 16 * dramTier p + dramPlace p

/-- The channel that a read of a range has to wait for: one that repeats another transfer, where the L2 does not hold the
line (R266, R406). -/
def State.busyChannel (s : State) (p n : Nat) : Option Nat :=
  if s.attempts.isEmpty ∨ 2 ^ 64 ≤ p then none
  else
    ((List.range ((p % 128 + n + 127) / 128)).map fun i => lineOf p + i).findSome? fun l =>
      if (s.l2Find l).isSome then none
      else (s.attempts.find? fun e => channelKey (64 * e.1) == channelKey (128 * l)).map fun e => channelKey (64 * e.1)

/-! ## Use of a line -/

/-- A line of this device is used at its home slice: its tag becomes the most recently used, or the first to be replaced,
and its zero flag is set or cleared by its bytes (R266, R267). -/
def State.l2Use (s : State) (line : Nat) (write first : Bool) : State :=
  if 2 ^ 57 ≤ line then s
  else
    let key := l2Set line
    let old := s.l2Find line
    let zero := s.zeroAt line
    let t : L2Tag := { line := line, dirty := write || old.any (·.dirty), zero := zero }
    let rest := (Tab.get [] s.l2 key).filter fun x => x.line != line
    let rowFull := !zero && old.all (·.zero) && decide (16384 ≤ s.l2Rows (key / 1024))
    let kept := l2Room rest rowFull
    let gone := (rest.filter fun x => !kept.contains x).map (·.line)
    let flags := s.zeroLines.filter fun l => !gone.contains l
    let flawed := if write ∨ old.isSome then [] else (s.cells.filter fun e => e.1 / 4 == line).map (·.1)
    { s with
      corrected := flawed.foldl addOnce s.corrected
      l2 := Tab.put s.l2 key (if first then kept ++ [t] else t :: kept)
      zeroLines := if zero then addOnce flags line else without flags line }

/-- The address space of a physical address. -/
def spaceNum (p : Nat) : Nat := p / 2 ^ 64

/-- No route of the domain reaches the device of a physical address (R373, R375). -/
def State.unreachable (s : State) (p : Nat) : Bool :=
  spaceNum p != 0 && (Tab.get [] s.routes (spaceNum p - 1)).isEmpty

/-- Bytes applied at their homes (R264, R267, R403). A write to a device that no route reaches is answered locally and
arrives nowhere, which is the model's choice: R375 gives the poisoned answer of a write no effect (log 21). -/
def State.applyCells (s : State) (cells : List (Nat × Byte)) : State :=
  let cells := cells.filter fun c => !s.unreachable c.1
  (linesOf cells).foldl (fun s l => s.l2Use l true false)
    { s with mem := writeCells s.mem cells, poison := poisonAfter s.poison cells }

/-! ## DRAM traffic of the partitions (R362) -/

/-- The partition that holds a stack. -/
def State.partOfStack (s : State) (k : Nat) : Nat :=
  match s.layout with
  | 1 => 0
  | 2 => k / 2
  | _ => k

/-- A core's write-back or partials reach their home at once, and what DRAM bytes they move, a free number, is charged to
the core's partition (R362; log 4). -/
def State.chargeMem (s : State) (core : Nat) : State :=
  let p := s.partOfStack (stackOf core)
  if (s.part p).mem = 0 then s
  else
    let (i, s) := s.draw
    s.setPart p { s.part p with memUsed := (s.part p).memUsed + Config.counted i }

/-! ## Partial reductions (R298) -/

/-- One word of global memory combined with a partial value. -/
def State.combineAt (s : State) (p : Nat) (op : BitVec 4) (wide : Bool) (v : Word) : State :=
  let n := if wide then 8 else 4
  let m := s.mem.num p n
  let r := combine op.toNat (8 * n) m v.toNat 0 0
  let s' := s.applyCells (cellsAt p (leBytes r n))
  { s' with poison := s.poison }

/-- A holder's partials for a line are sent home and combined there; the line leaves the accumulate state. -/
def State.dropPartials (s : State) (core line : Nat) : State :=
  let c := s.core core
  match c.acc.find? fun x => x.place == line with
  | none => s
  | some x =>
    let s := s.setCore core { c with acc := c.acc.filter fun y => !(y.place == line) }
    let s := (x.words.foldl (fun s e => s.combineAt (128 * line + e.1) x.op x.wide e.2) s).chargeMem core
    { s with holders := Tab.put s.holders line (without (Tab.get [] s.holders line) core) }

/-! ## The L1 as a list, and the counters of its prefetched lines (R272) -/

/-- A counter of a core rises. -/
def Core.addCount (c : Core) (code n : Nat) : Core :=
  { c with counters := Tab.put c.counters code (Tab.get 0#64 c.counters code + BitVec.ofNat 64 n) }

/-- The L1 keeps these lines; a prefetched line that leaves it before any demand access counts as unused. -/
def Core.keepL1 (c : Core) (ls : List Line) : Core :=
  let lost := c.l1.filter fun l => l.prefetched && !(ls.any fun x => x.line == l.line)
  let c := if lost.isEmpty then c else c.addCount 0x74 lost.length
  { c with l1 := ls }

/-! ## Write-backs -/

/-- The dirty bytes of a line with their addresses. -/
def Line.dirty (l : Line) : List (Nat × Byte) :=
  l.bytes.filterMap fun e => if e.2.2 then some (128 * l.line + e.1, e.2.1) else none

/-- A line that holds a dirty byte. -/
def Line.isDirty (l : Line) : Bool := l.bytes.any fun e => e.2.2

/-- The line with every byte clean. -/
def Line.cleaned (l : Line) : Line := { l with bytes := l.bytes.map fun e => (e.1, (e.2.1, false)) }

/-- Words of a line that a write-back poisons at home: poisoned here and partly dirty (R403). -/
def Line.poisonHome (l : Line) : List Nat :=
  (l.poison.filter fun w => l.bytes.any fun e => e.1 / 8 == w && e.2.2).map fun w => 16 * l.line + w

/-- A core's own write to a line overtakes the replies of the line that its home has formed for it and that are still in
flight: the line is read again for them (R281). -/
def State.reread (s : State) (core line : Nat) : State :=
  let formed (f : Flight) : Bool := f.core == core && f.line == line && f.data.isSome
  if s.flights.any formed then
    ({ s with flights := s.flights.map fun f => if formed f then { f with data := none } else f } : State).later
      (.homeRead core line)
  else s

/-- Dirty bytes of a core's line merged at the home, after what `prep` does there first (R281, R290, R298). -/
def State.mergeLine (prep : State → Nat → State) (core : Nat) (s : State) (l : Line) : State :=
  if l.isDirty then
    let s := ((prep s l.line).applyCells l.dirty).chargeMem core
    ({ s with poison := l.poisonHome.foldl addOnce s.poison } : State).reread core l.line
  else s

/-- A core writes back the dirty lines that meet a test; they stay valid and clean (R264). -/
def State.writeBackIf (prep : State → Nat → State) (s : State) (core : Nat) (test : Line → Bool) : State :=
  let c := s.core core
  if c.l1.any test then
    let s' := s.setCore core { c with l1 := c.l1.map fun l => if test l then l.cleaned else l }
    (c.l1.filter test).foldl (State.mergeLine prep core) s'
  else s

/-! ## Pulls, recalls and windows -/

/-- The 128 bytes and the poisoned words of a line at home. -/
def State.homeLine (s : State) (line : Nat) : List Byte := s.mem.read (128 * line) 128
def State.homePoison (s : State) (line : Nat) : List Nat :=
  (List.range 16).filter fun w => s.poison.contains (16 * line + w)

/-- Every registered holder of a line is recalled, in order of registration, after the pulls of the line's record (R286,
R298). -/
def State.recallWith (pull : State → Nat → State) (s : State) (line : Nat) : State :=
  if (Tab.get [] s.holders line).isEmpty then s
  else
    let s := pull s line
    let s' := (Tab.get [] s.holders line).foldl (fun s c => s.dropPartials c line) s
    { s' with holders := Tab.drop s'.holders line }

/-- A reply of the line to each read merged in its window (R290). -/
def State.serveWindow (s : State) (line : Nat) : State :=
  let cs := Tab.get [] s.windows line
  let s' : State :=
    { s with
      windows := Tab.drop s.windows line
      flights := s.flights.map fun f =>
        if f.line = line ∧ f.core ∈ cs ∧ f.data = none then
          { f with data := some (s.homeLine line, s.homePoison line) }
        else f }
  cs.foldl (fun s c => s.later (.memoryReply c line)) s'

/-- An open read window closes: pulls and recalls, one read of the line, and the replies (R286, R290). -/
def State.closeWith (pull : State → Nat → State) (s : State) (line : Nat) : State :=
  if (Tab.get [] s.windows line).isEmpty then s
  else (((s.recallWith pull line |> (pull · line)).l2Use line false false).serveWindow line)

/-- What the home does before it applies a write: an open window closes, and partials are recalled (R290, R298). -/
def State.prepWith (pull : State → Nat → State) (s : State) (line : Nat) : State :=
  (s.closeWith pull line).recallWith pull line

/-- The home pulls every entry of a line's release record, of which it makes an end first; a pulled core's write-backs
reach their own homes, which may have records to pull in their turn (R286). As each pull ends a record, a fuel of the
number of records suffices. -/
def State.pullN : Nat → State → Nat → State
  | 0, s, _ => s
  | n + 1, s, line =>
    let s' : State := { s with records := Tab.drop s.records line, recordOrder := without s.recordOrder line }
    (Tab.get [] s.records line).foldl
      (fun s e => s.writeBackIf (State.prepWith (State.pullN n)) e.1 fun l => decide (l.epoch ≤ e.2)) s'

/-- The home pulls every entry of a line's release record (R286). -/
def State.pullRecord (s : State) (line : Nat) : State := s.pullN (s.records.length + 1) line

/-- Every registered holder of a line is recalled (R298). -/
def State.recallLine (s : State) (line : Nat) : State := s.recallWith State.pullRecord line

/-- A read window closes (R290). -/
def State.closeWindow (s : State) (line : Nat) : State := s.closeWith State.pullRecord line

/-- A core's own partials for a line go home, where an open read window closes first (R290, R298). -/
def State.sendPartials (s : State) (core line : Nat) : State :=
  if (s.core core).acc.any fun x => x.place == line then (s.closeWindow line).dropPartials core line else s

/-- What the home does before it applies a write to a line. -/
def State.writePrep (s : State) (line : Nat) : State := s.prepWith State.pullRecord line

/-- What a read does at the home before its reply is formed: every entry of the record is pulled and every partial
recalled (R286, R298), and the line is in the L2 (R266). -/
def State.readPrep (s : State) (line : Nat) : State := ((s.pullRecord line).recallLine line).l2Use line false false

/-- A read reaches its line's home and is served there: it joins an open window, which closes with it, the line's data
being ready, or is served alone (R290). -/
def State.readArrives (s : State) (line : Nat) : State := (s.closeWindow line).readPrep line

/-- A core writes back the dirty lines that meet a test. -/
def State.writeBack (s : State) (core : Nat) (test : Line → Bool) : State := s.writeBackIf State.writePrep core test

/-- A write serialised at its home: an open window closes first and partials are recalled (R290, R298). -/
def State.homeWrite (s : State) (p : Nat) (bs : List Byte) : State :=
  let cells := cellsAt p bs
  ((linesOf cells).foldl State.writePrep s).applyCells cells

/-- The bytes a read returns at the home, after the pulls and recalls of its lines (R286). -/
def State.homeRead (s : State) (p n : Nat) : State × List Byte :=
  let s := (linesOf (cellsAt p (List.replicate n 0#8))).foldl State.readArrives s
  (s, s.mem.read p n)

/-- The first poisoned word that n bytes from p touch, as the address of the word (R403). -/
def poisonIn (poison : List Nat) (p n : Nat) : Option Nat :=
  ((List.range ((p % 8 + n + 7) / 8)).find? fun i => poison.contains (p / 8 + i)).map fun i => 8 * (p / 8 + i)

/-! ## Eager write-back and the epoch -/

/-- Every dirty line and accumulate-state line of a core is written back (R288, R391). -/
def State.flushLines (s : State) (core : Nat) : State :=
  let s := s.writeBack core Line.isDirty
  ((s.core core).acc.map (·.place)).foldl (fun s l => s.sendPartials core l) s

/-- Lines being filled for a core are dropped on arrival, a prefetched one that no demand access has asked for counting as
unused (R272, R287). -/
def State.dropFills (s : State) (core : Nat) : State :=
  let lost := (s.flights.filter fun f => f.core == core && f.fill && !f.demanded).length
  let c := s.core core
  let s := s.setCore core (if lost = 0 then c else c.addCount 0x74 lost)
  { s with flights := s.flights.filter fun f => !(f.core == core && f.fill) }

/-- Every line of a core's L1 is dropped, and every line being filled (R265). -/
def State.dropL1 (s : State) (core : Nat) : State :=
  let s := s.dropFills core
  s.setCore core ((s.core core).keepL1 [])

/-- The clean bytes of a core's L1 are invalidated, and lines being filled are dropped on arrival (R287 step 2). The
fill of a prefetched line is gone with them, dirty bytes in the line or not, and counts as unused (R272). -/
def State.invalidateClean (s : State) (core : Nat) : State :=
  let s := s.dropFills core
  let c := s.core core
  let ls := c.l1.map fun l => { l with bytes := l.bytes.filter fun e => e.2.2 }
  let stay := ls.filter fun l => !l.bytes.isEmpty
  let lost := (stay.filter (·.prefetched)).length
  let c := c.keepL1 (stay.map fun l => { l with prefetched := false })
  s.setCore core (if lost = 0 then c else c.addCount 0x74 lost)

/-- The release epoch rises; the record names the value before it. A core that would pass the greatest epoch
first writes back every dirty line and goes on from 1 (R283). -/
def State.raiseEpoch (s : State) (core : Nat) : Nat × State :=
  let e := (s.core core).epoch
  if e = 0xFFFFFFFF then
    let s := s.writeBack core Line.isDirty
    (e, s.setCore core { s.core core with epoch := 1 })
  else (e, s.setCore core { s.core core with epoch := e + 1 })

/-- A line's record becomes the most recently used of its slice (R285). -/
def State.useRecord (s : State) (line : Nat) : State := { s with recordOrder := without s.recordOrder line ++ [line] }

/-- A full record table of a line's slice makes room: every entry of its least recently used record is pulled (R285). -/
def State.recordRoom (s : State) (line : Nat) : State :=
  let held := s.recordOrder.filter fun l => sliceOfLine l == sliceOfLine line && !(Tab.get [] s.records l).isEmpty
  if held.contains line ∨ held.length < 2048 then s
  else
    match held with
    | [] => s
    | l :: _ => s.pullRecord l

/-- The home enters (core, epoch) in a line's record (R285). -/
def State.enterRecord (s : State) (line core epoch : Nat) : State :=
  let s := s.recordRoom line
  let r := Tab.get [] s.records line
  if r.any fun x => x.1 == core then
    ({ s with records := Tab.put s.records line (r.map fun x => if x.1 = core then (core, epoch) else x) } : State).useRecord
      line
  else if r.length < 8 then ({ s with records := Tab.put s.records line (r ++ [(core, epoch)]) } : State).useRecord line
  else
    match r with
    | [] => s
    | x :: rest =>
      let s := s.writeBack x.1 fun l => decide (l.epoch ≤ x.2)
      ({ s with records := Tab.put s.records line (rest ++ [(core, epoch)]) } : State).useRecord line

end Sys2Proof.Machine
end

