-- ==== Sys2Proof/Machine/Translate.lean ====
section
/-! DEFINITION. Translation (spec/17 R347 to R355): page-table entries, the walk, the three TLB levels, and the
snapshot a launch takes before its first write to a piece (spec/20 R409). A TLB entry that does not permit an access
is not used for it, and the access walks (R352, R356; log 10). -/

namespace Sys2Proof.Machine

/-- A physical address of the model: a device physical address in the form of R368, plus 2^64 × the number of its
address space. Space 0 is this device's own memory, space d + 1 that of device d of the domain. -/
def physOf (space tier place addr : Nat) : Nat := 2 ^ 64 * space + 2 ^ 63 * tier + 2 ^ 60 * place + addr

/-- The address space of a device's memory. -/
def State.spaceFor (s : State) (dev : Nat) : Nat := if dev = s.device then 0 else dev + 1

/-- The page size of a leaf's size code (R348). -/
def pageSize (code : Nat) : Nat :=
  match code with
  | 0 => 2 ^ 16
  | 1 => 2 ^ 21
  | 2 => 2 ^ 26
  | _ => 2 ^ 30

/-- The level at which a page of a size has its leaf (R347). -/
def leafLevel (size : Nat) : Nat := if size = 2 ^ 16 then 4 else if size = 2 ^ 30 then 2 else 3

/-- The end of what a page or table of a tier may reach (R350). -/
def tierLimit (tier : Nat) : Nat := if tier = 0 then Config.hbmBytes else Config.lpddrBytes

/-- The kinds of access in a syndrome (R355). -/
inductive Kind where
  | read | write | atomic | fetch | source | dest
  deriving DecidableEq, Repr

/-- The code of a kind (R355). -/
def Kind.code : Kind → Nat
  | .read => 0 | .write => 1 | .atomic => 2 | .fetch => 3 | .source => 4 | .dest => 5

/-- Accesses that need w (R348). -/
def Kind.writes : Kind → Bool
  | .write | .atomic | .dest => true
  | _ => false

/-- The syndrome of a translation fault (R355). -/
def syndrome (reason level : Nat) (k : Kind) : BitVec 16 := BitVec.ofNat 16 (64 * reason + 8 * level + k.code)

/-- What a translation gives: a new state with the entry, or a fault with its syndrome (R355). -/
inductive Xlate where
  | ok (s : State) (e : TlbEntry)
  | bad (c : Cause) (synd : BitVec 16)

/-- Bits [63:57] of a canonical address all equal bit 56 (R347). -/
def canonical (va : Nat) : Bool := va / 2 ^ 56 == 0 || va / 2 ^ 56 == 2 ^ 8 - 1

/-- The index of an address at a level (R347). -/
def vaIndex (va level : Nat) : Nat :=
  match level with
  | 0 => bits va 56 48
  | 1 => bits va 47 39
  | 2 => bits va 38 30
  | 3 => bits va 29 21
  | _ => bits va 20 16

/-- The bits of an address above the reach of a table of a level (R347, R353). -/
def vaTag (va level : Nat) : Nat :=
  match level with
  | 1 => va >>> 48
  | 2 => va >>> 39
  | _ => va >>> 30

/-- A leaf entry breaks R348 or R350. -/
def leafBad (e level : Nat) : Bool :=
  let tier := bits e 57 56
  let place := bits e 60 58
  let size := pageSize (bits e 7 6)
  let frame := bits e 40 16 * 2 ^ 16
  bits e 63 62 != 0 || bits e 49 41 != 0 || bits e 15 8 != 0 || decide (2 ≤ tier) || (tier == 1 && place != 0) ||
    decide (level < 2) || leafLevel size != level || frame % size != 0 || decide (tierLimit tier < frame + size)

/-- A pointer entry breaks R349 or R350; next is the size of the table it names. -/
def pointerBad (dev e level : Nat) : Bool :=
  let tier := bits e 57 56
  let next := if level = 3 then 256 else 4096
  bits e 63 61 != 0 || decide (2 ≤ tier) || (tier == 1 && bits e 60 58 != 0) || bits e 55 50 != dev ||
    bits e 49 41 != 0 || bits e 7 2 != 0 || decide (level = 4) || (decide (level ≠ 3) && bits e 11 8 != 0) ||
    decide (tierLimit tier < bits e 40 8 * 256 + next)

/-- The whole range lies in one frame window of a partition (R351). -/
def inWindow (p : Partition) (tier place addr size : Nat) : Bool :=
  let base := physOf 0 tier place addr
  (if tier = 0 then p.win0 else p.win1).any fun w => decide (w.1 ≤ base) && decide (base + size ≤ w.1 + w.2)

/-- The home of a page on another device accepts an access of a domain group (R374): as that device's windows are known
here, or, where nothing is known of them, as a free choice has it (log 21). -/
def State.remoteOk (s : State) (dev group tier place addr size : Nat) : Bool :=
  let base := physOf 0 tier place addr
  match Tab.get [] s.peers dev with
  | [] => Config.peerAccepts dev group base size
  | ws => ws.any fun w => w.1 == group && decide (w.2.1 ≤ base) && decide (base + size ≤ w.2.1 + w.2.2)

/-- Entries of a TLB that do not hold a page of a context, then the new one, up to the TLB's size (R353; which entry
goes is log 10's). -/
def tlbFill (n : Nat) (l : List TlbEntry) (e : TlbEntry) : List TlbEntry :=
  (e :: l.filter fun x => !(x.ctx == e.ctx && x.va == e.va && x.size == e.size)).take n

/-- The entry that translates an access, if the TLB holds one that permits it. -/
def tlbFind (l : List TlbEntry) (ctx va : Nat) (k : Kind) : Option TlbEntry :=
  l.find? fun e => e.ctx == ctx && decide (e.va ≤ va) && decide (va < e.va + e.size) &&
    (!k.writes || (e.w && e.dty)) && (k ≠ .fetch || (e.x && spaceNum e.frame == 0))

/-- The router of the cache die that holds the last-level entry of a page (R353). -/
def tlbRouter (va size : Nat) : Nat :=
  let n := va / size
  bits n 3 0 ^^^ bits n 7 4 ^^^ bits n 11 8

/-- The last-level entry that translates an access: the routers that the four page sizes name are probed (R353). -/
def Stack.tlbFind (u : Stack) (ctx va : Nat) (k : Kind) : Option TlbEntry :=
  [2 ^ 16, 2 ^ 21, 2 ^ 26, 2 ^ 30].findSome? fun size =>
    Machine.tlbFind ((Tab.get [] u.tlb (tlbRouter va size)).filter fun e => e.size == size) ctx va k

/-- A last-level TLB with an entry made at its router (R353). -/
def Stack.tlbPut (u : Stack) (e : TlbEntry) : Stack :=
  let r := tlbRouter e.va e.size
  { u with tlb := Tab.put u.tlb r (tlbFill 512 (Tab.get [] u.tlb r) e) }

/-- An entry made in the core, cluster and last-level TLBs (R353). -/
def State.tlbMake (s : State) (core : Nat) (e : TlbEntry) : State :=
  let c := s.core core
  let s := s.setCore core { c with tlb := tlbFill 64 c.tlb e }
  let u := s.cluster (clusterOf core)
  let s := s.setCluster (clusterOf core) { u with tlb := tlbFill 1024 u.tlb e }
  s.setStack (stackOf core) ((s.stack (stackOf core)).tlbPut e)

/-- The end of a walk at a leaf: the checks of R348, R350 and R351, then acc and dty set at the entry's home. -/
def State.walkLeaf (s : State) (ctx va : Nat) (k : Kind) (level entryAt e : Nat) : Xlate :=
  let x := (s.context ctx).getD {}
  let part := s.part x.part
  let tier := bits e 57 56
  let place := bits e 60 58
  let dev := bits e 55 50
  let size := pageSize (bits e 7 6)
  let frame := bits e 40 16 * 2 ^ 16
  if leafBad e level then .bad .protection (syndrome 2 level k)
  else if (dev = s.device ∧ !inWindow part tier place frame size)
      ∨ (dev ≠ s.device ∧ !s.remoteOk dev part.group tier place frame size) then
    .bad .protection (syndrome 3 level k)
  else if (k.writes ∧ bits e 4 4 = 0) ∨ (k = .fetch ∧ (bits e 5 5 = 0 ∨ dev ≠ s.device)) then
    .bad .protection (syndrome 1 level k)
  else
    let low := e % 256 ||| 8 ||| (if k.writes then 4 else 0)
    let s := if low = e % 256 then s else s.homeWrite entryAt [BitVec.ofNat 8 low]
    .ok s { ctx := ctx, va := va / size * size, size := size, frame := physOf (s.spaceFor dev) tier place frame,
            w := bits e 4 4 == 1, x := bits e 5 5 == 1, dty := low / 4 % 2 == 1,
            snap := bits e 61 61 == 1 && dev == s.device }

/-- A walk from a table of a level (R347 to R352); n counts the levels left. -/
def State.walk (s : State) (stack ctx va : Nat) (k : Kind) : Nat → Nat → Xlate
  | 0, _ => .bad .protection (syndrome 2 4 k)
  | n + 1, table =>
    let level := 4 - n
    let entryAt := table + 8 * vaIndex va level
    let (s, bs) := s.homeRead entryAt 8
    let e := leNat bs
    if e % 2 = 0 then .bad .page (syndrome 0 level k)
    else if bits e 1 1 = 1 then s.walkLeaf ctx va k level entryAt e
    else if pointerBad s.device e level then .bad .protection (syndrome 2 level k)
    else
      let x := (s.context ctx).getD {}
      let tier := bits e 57 56
      let place := bits e 60 58
      let addr := bits e 40 8 * 256
      if !inWindow (s.part x.part) tier place addr (if level = 3 then 256 else 4096) then
        .bad .protection (syndrome 3 level k)
      else
        let next := physOf 0 tier place addr
        let s :=
          if level < 3 then
            let u := s.stack stack
            s.setStack stack
              { u with walkCache := (⟨ctx, level + 1, vaTag va (level + 1), next⟩ :: u.walkCache).take 256 }
          else s
        State.walk s stack ctx va k n next

/-- The table at which a walk begins: the deepest the walk cache holds, or the context's root (R353). -/
def State.walkStart (s : State) (stack ctx va : Nat) : Nat × Nat :=
  let hit (level : Nat) : Option Nat :=
    ((s.stack stack).walkCache.find? fun w => w.ctx == ctx && w.level == level && w.tag == vaTag va level).map (·.table)
  match hit 3, hit 2, hit 1 with
  | some t, _, _ => (2, t)
  | none, some t, _ => (3, t)
  | none, none, some t => (4, t)
  | none, none, none =>
    let e := ((s.context ctx).getD {}).root.toNat
    (5, physOf 0 (bits e 57 56) (bits e 60 58) (bits e 40 8 * 256))

/-- A walk for an access (R352); it traps on an address that is not canonical (R347). -/
def State.walkFor (s : State) (stack ctx va : Nat) (k : Kind) : Xlate :=
  if !canonical va then .bad .protection (syndrome 3 7 k)
  else
    let x := (s.context ctx).getD {}
    let root := x.root.toNat
    let (n, t) := s.walkStart stack ctx va
    if n = 5 ∧ !inWindow (s.part x.part) (bits root 57 56) (bits root 60 58) (bits root 40 8 * 256) 4096 then
      .bad .protection (syndrome 3 0 k)
    else s.walk stack ctx va k n t

/-- The translation of an access from a core: the core TLB, the cluster TLB, the last-level TLB, then a walk whose
entry all three take (R353). No entry is made for a fault. -/
def State.translate (s : State) (core ctx va : Nat) (k : Kind) : Xlate :=
  match tlbFind (s.core core).tlb ctx va k with
  | some e => .ok s e
  | none =>
    match tlbFind (s.cluster (clusterOf core)).tlb ctx va k,
        (s.stack (stackOf core)).tlbFind ctx va k with
    | some e, _ => .ok (s.tlbMake core e) e
    | none, some e => .ok (s.tlbMake core e) e
    | none, none =>
      match s.walkFor (stackOf core) ctx va k with
      | .ok s e => .ok (s.tlbMake core e) e
      | .bad c y => .bad c y

/-- The physical address of an access through an entry. -/
def TlbEntry.phys (e : TlbEntry) (va : Nat) : Nat := e.frame + (va - e.va)

/-! ## Accesses of the command processor through a context's tables (R345, R273) -/

/-- The physical address of a byte of a context, by a walk of the command processor. -/
def State.cpXlate (s : State) (ctx va : Nat) (k : Kind) : Option (State × Nat) :=
  match s.walkFor 0 ctx va k with
  | .ok s e => some (s, e.phys va)
  | .bad _ _ => none

/-- Bytes read by the command processor, page by page; none where a page does not translate. -/
def State.cpRead (s : State) (ctx : Nat) : Nat → Nat → Nat → Option (State × List Byte)
  | 0, _, _ => some (s, [])
  | fuel + 1, va, n =>
    if n = 0 then some (s, [])
    else
      let k := min n (2 ^ 16 - va % 2 ^ 16)
      match s.cpXlate ctx va .read with
      | none => none
      | some (s, p) =>
        let (s, bs) := s.homeRead p k
        match State.cpRead s ctx fuel (va + k) (n - k) with
        | none => none
        | some (s, rest) => some (s, bs ++ rest)

/-- The physical address of a byte that the command processor accesses for itself, in the system context: the address is
one of a launch's context, whose tables it goes through, and no permission of theirs stops it (R345; log 56). -/
def State.sysXlate (s : State) (ctx va : Nat) : Option (State × Nat) :=
  (s.cpXlate ctx va .write).or (s.cpXlate ctx va .read)

/-- Bytes written by the command processor for itself, page by page; what does not translate is not written. -/
def State.cpWrite (s : State) (ctx : Nat) : Nat → Nat → List Byte → State
  | 0, _, _ => s
  | fuel + 1, va, bs =>
    if bs.isEmpty then s
    else
      let k := min bs.length (2 ^ 16 - va % 2 ^ 16)
      let s := match s.sysXlate ctx va with
        | none => s
        | some (s, p) => s.homeWrite p (bs.take k)
      State.cpWrite s ctx fuel (va + k) (bs.drop k)

/-- The pages that n bytes from va touch, at most. -/
def pagesOf (n : Nat) : Nat := n / 2 ^ 16 + 2

/-- The poisoned 8-byte words that the command processor meets in n bytes from va, as virtual word numbers (R403). -/
def State.cpPoisoned (s : State) (ctx : Nat) : Nat → Nat → Nat → List Nat
  | 0, _, _ => []
  | fuel + 1, va, n =>
    if n = 0 then []
    else
      let k := min n (2 ^ 16 - va % 2 ^ 16)
      let here := match s.cpXlate ctx va .read with
        | none => []
        | some (s, p) => ((List.range ((k + 7) / 8)).filter fun w => s.poison.contains (p / 8 + w)).map (va / 8 + ·)
      here ++ s.cpPoisoned ctx fuel (va + k) (n - k)

/-- Words that the command processor has copied keep the poison of their source: it moves with its word (R403). -/
def State.cpPoison (s : State) (ctx : Nat) (words : List Nat) : State :=
  words.foldl (fun (s : State) w =>
    match s.sysXlate ctx (8 * w) with
    | none => s
    | some (s, p) => { s with poison := addOnce s.poison (p / 8) }) s

/-! ## Snapshots (R409) -/

/-- The command processor copies a piece, with its poison, into the launch's pool and enters it in the index of 8,192
entries; a full pool or index leaves the launch unprotected. -/
def State.snapCopy (s : State) (launch piece : Nat) : State :=
  let l := s.launch launch
  if l.snaps.contains piece then s
  else if min 8192 (l.record.snappages - 1) ≤ l.snaps.length then s.setLaunch launch { l with unprotected := true }
  else
    let j := l.snaps.length
    let s := s.setLaunch launch { l with snaps := l.snaps ++ [piece] }
    match s.cpRead l.ctx 3 piece (2 ^ 16) with
    | none => s
    | some (s, bs) =>
      let bad := (s.cpPoisoned l.ctx 3 piece (2 ^ 16)).map fun w => w - piece / 8 + (l.record.snappool + 2 ^ 16 * (j + 1)) / 8
      let s := (s.cpWrite l.ctx 3 (l.record.snappool + 2 ^ 16 * (j + 1)) bs).cpPoison l.ctx bad
      s.cpWrite l.ctx 3 (l.record.snappool + 8 * j) (leBytes (piece / 2 ^ 16 * 2 ^ 16 + 1) 8)

/-- A write of a launch that translates to a snapshotted page first has its piece copied. -/
def State.snapBefore (s : State) (launch va : Nat) (e : TlbEntry) : State :=
  if e.snap ∧ (s.launch launch).record.snap then s.snapCopy launch (va / 2 ^ 16 * 2 ^ 16) else s

/-- A write that the command processor makes for a launch has its piece copied first (R409). -/
def State.snapFor (s : State) (launch va : Nat) : State :=
  let ctx := (s.launch launch).ctx
  match s.walkFor 0 ctx va .write, s.walkFor 0 ctx va .read with
  | .ok s e, _ | .bad _ _, .ok s e => s.snapBefore launch va e
  | .bad _ _, .bad _ _ => s

end Sys2Proof.Machine
end

