-- ==== Sys2Proof/Machine/Hierarchy.lean ====
section
/-! DEFINITION. The memory hierarchy as one core reaches it (spec/12, spec/13): the L1, the scratchpads, releases and
acquires, the reduction buffers, and the lane-wise checks that loads and stores share. -/

namespace Sys2Proof.Machine

/-! ## L1 (R263 to R265) -/

/-- The set of a line (R263). -/
def setOf (line : Nat) : Nat := line % 256

/-- A core's copy of a line. -/
def Core.l1Find (c : Core) (line : Nat) : Option Line := c.l1.find? fun l => l.line == line

/-- Where a line stands in a core's L1, as a plain line or in the accumulate state (R263, R298). -/
def Core.wayOf (c : Core) (line : Nat) : Option Nat :=
  ((c.l1Find line).map (·.way)).or ((c.acc.find? fun x => x.place == line).map (·.way))

/-- The other lines that a core holds in a line's set. -/
def Core.others (c : Core) (line : Nat) : List Nat :=
  (c.l1.map (·.line) ++ c.acc.map (·.place)).filter fun x => x != line && setOf x == setOf line

/-- The first way of the carve that is free in a line's set. -/
def Core.freeWay (c : Core) (line : Nat) : Option Nat :=
  (List.range c.carve.ways).find? fun w => !((c.others line).any fun x => c.wayOf x == some w)

/-- The line of a full set that replacement takes for one that comes: the least recently used that is not protected, or
else the least recently used (R112, R263). -/
def Core.victim (c : Core) (line : Nat) : Option Nat :=
  let order := c.recent.reverse.filter (c.others line).contains
  ((order.find? fun x => !((c.l1Find x).any (·.guard.isSome))).or order.head?).or (c.others line).head?

/-- A line becomes the most recently used of its core. -/
def Core.touch (c : Core) (line : Nat) : Core :=
  { c with recent := line :: c.recent.filter fun x => x != line && (c.wayOf x).isSome }

/-- A line leaves a core's L1 by replacement: its dirty bytes or its partials go home (R264, R298). -/
def State.evictLine (s : State) (core line : Nat) : State :=
  let c := s.core core
  match c.l1Find line with
  | none => s.sendPartials core line
  | some v => State.mergeLine State.writePrep core (s.setCore core (c.keepL1 (c.l1.filter fun x => !(x.line == line)))) v

/-- A way for a line: its own, a free one, or its victim's. -/
def State.allocWay (s : State) (core line : Nat) : Nat × State :=
  let c := s.core core
  match (c.wayOf line).or (c.freeWay line) with
  | some w => (w, s)
  | none =>
    match c.victim line with
    | none => (0, s)
    | some v => ((c.wayOf v).getD 0, s.evictLine core v)

/-- A line takes its place in a core's L1, most recently used. -/
def State.l1Put (s : State) (core : Nat) (l : Line) : State :=
  let c := s.core core
  s.setCore core ({ c with l1 := l :: c.l1.filter fun x => !(x.line == l.line) }.touch l.line)

/-- A fetched line merged under the bytes a core holds dirty (R264). -/
def Line.merge (l : Line) (home : List Byte) (poison : List Nat) : Line :=
  let dirtyAt (i : Nat) : Option Byte :=
    match Tab.get (0#8, false) l.bytes i with
    | (b, true) => some b
    | _ => none
  { l with
    bytes := (List.range 128).map fun i =>
      match dirtyAt i with
      | some b => (i, (b, true))
      | none => (i, (home.getD i 0#8, false))
    poison := (List.range 16).filter fun w =>
      let n := ((List.range 8).filter fun j => (dirtyAt (8 * w + j)).isSome).length
      if n = 8 then l.poison.contains w
      else if n = 0 then poison.contains w
      else l.poison.contains w || poison.contains w }

/-- Every byte of a range of the line is valid. -/
def Line.holds (l : Line) (off n : Nat) : Bool := (List.range n).all fun i => l.bytes.any fun e => e.1 == off + i

/-- A demand access of a core reaches a line: the first one counts a prefetched line as useful, or as late where the
prefetch's fill is still in flight (R272). -/
def State.demand (s : State) (core line : Nat) : State :=
  let c := s.core core
  let late (f : Flight) : Bool := f.core == core && f.line == line && f.fill && !f.demanded
  if (c.l1Find line).any fun l => l.prefetched then s.setCore core (c.addCount 0x72 1)
  else if s.flights.any late then
    let s := s.setCore core (c.addCount 0x73 1)
    { s with flights := s.flights.map fun f => if late f then { f with demanded := true } else f }
  else s

/-- The block and the warp that the issuing slot belongs to, as they touch a line (R112). -/
def State.toucher (s : State) : Nat × Nat := (s.myBlock, s.cur.warp)

/-- A touch by another warp than the one a line is protected for ends its protection (R112). -/
def Line.touchedBy (l : Line) (t : Nat × Nat) : Line := { l with guard := l.guard.filter fun g => g == t }

/-- Reads of a line for a core that are in flight end: the core's own access has fetched it. -/
def State.dropFlights (s : State) (core line : Nat) : State :=
  { s with flights := s.flights.filter fun f => !(f.core == core && f.line == line) }

/-- A line fetched from its home under what the core holds of it (R264, R290): its copy is taken after the pulls of the
home, which clean dirty bytes of the core itself. A line that the urgent warp fills is protected (R112). -/
def State.fetchLine (s : State) (core line : Nat) (urgent : Bool) : Line × State :=
  let (way, s) := s.allocWay core line
  let s := (s.dropFlights core line).readArrives line
  let c := s.core core
  let l := ((c.l1Find line).getD { line := line, epoch := c.epoch }).touchedBy s.toucher
  ({ l.merge (s.homeLine line) (s.homePoison line) with
     way := way, prefetched := false, guard := if urgent then some s.toucher else l.guard }, s)

/-- A core's L1 holds every byte of n at an address. -/
def Core.hits (c : Core) (p n : Nat) : Bool := (c.l1Find (lineOf p)).any fun l => l.holds (p % 128) n

/-- A core has no L1 ways: its accesses bypass the L1 (R134). -/
def Core.noWays (c : Core) : Bool := c.carve.ways == 0

/-- A core reads n bytes inside one line through its L1 (R264): the bytes and the first poisoned word among them.
A line of its own accumulate state goes home first (R298). -/
def State.l1Read (s : State) (core : Nat) (urgent : Bool) (p n : Nat) : State × List Byte × Option Nat :=
  let line := lineOf p
  let s := (s.demand core line).sendPartials core line
  if (s.core core).noWays then
    let s := (s.dropFlights core line).readArrives line
    (s, s.mem.read p n, poisonIn s.poison p n)
  else
  let (l, s) : Line × State :=
    match (s.core core).l1Find line with
    | some l => if l.holds (p % 128) n then ({ l.touchedBy s.toucher with prefetched := false }, s)
      else s.fetchLine core line urgent
    | none => s.fetchLine core line urgent
  let bs := (List.range n).map fun i => (Tab.get (0#8, false) l.bytes (p % 128 + i)).1
  (s.l1Put core l, bs, poisonIn (l.poison.map fun w => 16 * line + w) p n)

/-- A core writes bytes inside one line into its L1 (R264); a line that was clean takes the current epoch (R283).
With dirty false the bytes are left clean, as a write-through leaves them (R284). -/
def State.l1Write (s : State) (core : Nat) (dirty : Bool) (p : Nat) (bs : List Byte) : State :=
  let line := lineOf p
  let s := (s.demand core line).sendPartials core line
  if (s.core core).noWays then (if dirty then s.homeWrite p bs else s)
  else
  let (way, s) := s.allocWay core line
  let c := s.core core
  let l := ((c.l1Find line).getD { line := line, epoch := c.epoch }).touchedBy s.toucher
  let l := { l with
    way := way
    epoch := if l.isDirty then l.epoch else c.epoch
    prefetched := false
    bytes := (cellsAt (p % 128) bs).foldl (fun t e => Tab.put t e.1 (e.2, dirty)) l.bytes
    poison := poisonAfter l.poison (cellsAt (p % 128) bs) }
  s.l1Put core l

/-! ## Scratchpads and the reduction buffer (R260 to R262, R299) -/

/-! ### Waits at barrier objects (R312 to R316) -/

/-- The phase of the barrier object at an offset of a block's scratchpad (R311). -/
def State.objPhase (s : State) (b off : Nat) : Bool := ((s.block b).scratch.byte (off + 7)).getLsbD 7

/-- A wait on a barrier object that its phase ends (R312, R313): the wait's object has left the token's phase. -/
def State.objDone (s : State) (w : Wait) : Bool :=
  match w with
  | .bowait b o t _ _ _ => s.objPhase b o != t
  | _ => false

/-- A waiting bowait returns: 1 with the acquire of its scope on completion, 0 on expiry (R313, R315, R316). -/
def State.endBowait (s : State) (t : Turn) (done : Bool) : State :=
  match ((s.warp t.warp).micro t.slotB).wait with
  | .bowait _ _ _ _ d z =>
    let s := if done ∧ z.getLsbD 1 ∧ ((s.warp t.warp).micro t.slotB).alone then s.invalidateClean (coreOfWarp t.warp) else s
    s.finishWait t (.done done) fun w => w.putS d (if done then 1#64 else 0#64)
  | _ => s

/-- A slot of a running warp waits at an object that n bytes from an offset of a block's scratchpad touch. -/
def State.waitsAt (s : State) (b off n : Nat) (t : Turn) : Bool :=
  let w := s.warp t.warp
  decide (w.stat = .running) && (w.ctl.path t.slotB).live &&
    match (w.micro t.slotB).wait with
    | .bowait y o _ _ _ _ => y == b && decide (o < off + n) && decide (off < o + 8)
    | _ => false

/-- Both slots of every warp. -/
def State.slots (s : State) : List Turn := s.warps.flatMap fun (e : Nat × Warp) => [⟨e.1, false⟩, ⟨e.1, true⟩]

/-- Every waiter at an object that a write has touched tests its new value, and those whose phase is over become ready
together (R114, R312). -/
def State.wakeObjs (s : State) (b off n : Nat) : State :=
  (s.slots.filter (s.waitsAt b off n)).foldl (fun (s : State) t =>
    if s.objDone ((s.warp t.warp).micro t.slotB).wait then s.endBowait t true else s) s

/-! ### Bytes and partials -/

/-- The key of a byte of a block's scratchpad. -/
def scratchKey (block off : Nat) : Nat := block * 2 ^ 21 + off

/-- A holder's partials of a scratchpad segment combine at their block (R299). -/
def State.dropSegment (s : State) (core seg : Nat) : State :=
  let c := s.core core
  match c.redBuf.find? fun x => x.place == seg with
  | none => s
  | some x =>
    let s := s.setCore core { c with redBuf := c.redBuf.filter fun y => !(y.place == seg) }
    let b := seg / 2 ^ 21
    let n := if x.wide then 8 else 4
    x.words.foldl (fun s e =>
      let k := s.block b
      let off := seg % 2 ^ 21 + e.1
      let r := combine x.op.toNat (8 * n) (k.scratch.num off n) e.2.toNat 0 0
      (s.setBlock b { k with scratch := k.scratch.write off (leBytes r n) }).wakeObjs b off n) s

/-- Every holder of a registered segment is recalled at the target core (R299). -/
def State.recallSegment (s : State) (seg : Nat) : State :=
  let t := coreOfBlock (seg / 2 ^ 21)
  let hs := Tab.get [] (s.core t).redHolders seg
  if hs.isEmpty then s
  else
    let s := hs.foldl (fun s c => s.dropSegment c seg) s
    s.setCore t { s.core t with redHolders := Tab.drop (s.core t).redHolders seg }

/-- A core leaves a segment's holders at its target core. -/
def State.leaveSegment (s : State) (core seg : Nat) : State :=
  let s := s.dropSegment core seg
  let t := coreOfBlock (seg / 2 ^ 21)
  let c := s.core t
  s.setCore t { c with redHolders := (c.redHolders.map fun (e : Nat × List Nat) =>
    if e.1 = seg then (e.1, without e.2 core) else e).filter fun e => !e.2.isEmpty }

/-- Every dirty line and every partial result of a core goes home, those of its reduction buffer to their blocks (R288,
R298, R299). -/
def State.flushCore (s : State) (core : Nat) : State :=
  let s := s.flushLines core
  ((s.core core).redBuf.map (·.place)).foldl (fun s seg => s.leaveSegment core seg) s

/-- The segments that n bytes of a block's scratchpad touch. -/
def segmentsOf (block off n : Nat) : List Nat :=
  (List.range ((off % 64 + n + 63) / 64)).map fun i => scratchKey block (off / 64 * 64 + 64 * i)

/-- Partials of the segments an access touches are recalled first (R299). -/
def State.scratchPrep (s : State) (block off n : Nat) : State := (segmentsOf block off n).foldl State.recallSegment s

/-- Bytes of a block's scratchpad and the first poisoned word among them. -/
def State.scratchRead (s : State) (block off n : Nat) : State × List Byte × Option Nat :=
  let s := s.scratchPrep block off n
  (s, (s.block block).scratch.read off n, poisonIn (s.block block).poison off n)

/-- Bytes written to a block's scratchpad (R403 on poison); waiters at objects among them test the new values (R312). -/
def State.scratchWrite (s : State) (block off : Nat) (bs : List Byte) : State :=
  let s := s.scratchPrep block off bs.length
  let k := s.block block
  (s.setBlock block { k with scratch := k.scratch.write off bs, poison := poisonAfter k.poison (cellsAt off bs) }).wakeObjs
    block off bs.length

/-- Bytes of a stack's scratchpad and the first poisoned word among them. -/
def State.stackRead (s : State) (stack off n : Nat) : State × List Byte × Option Nat :=
  (s, (s.stack stack).bytes.read off n, poisonIn (s.stack stack).poison off n)

/-- Bytes written to a stack's scratchpad. -/
def State.stackWrite (s : State) (stack off : Nat) (bs : List Byte) : State :=
  let k := s.stack stack
  s.setStack stack { k with bytes := k.bytes.write off bs, poison := poisonAfter k.poison (cellsAt off bs) }

/-- The block whose scratchpad window k of a block's cluster shows (R31). -/
def State.windowBlock (s : State) (b k : Nat) : Option Nat :=
  let c := 4 * clusterOf (coreOfBlock b) + k
  if (s.launch (s.block b).launch).record.gang = 1 then (if c = coreOfBlock b then some b else none)
  else (s.members b).find? fun y => coreOfBlock y == c

/-- A launch's allocation on a stack: its base and size (R262). -/
def Stack.allocOf (k : Stack) (launch : Nat) : Option (Nat × Nat) :=
  (k.allocs.find? fun a => a.1 == launch).map (·.2)

/-! ## Spaces and places -/

/-- The four spaces of memory instructions (R30). -/
inductive Space where
  | l | c | k | g
  deriving DecidableEq, Repr

/-- Where the bytes of an access lie. -/
inductive Place where
  | scratch (block off : Nat)
  | stack (stack off : Nat)
  | global (p : Nat)
  deriving DecidableEq, Repr

/-- The place of an address of a space other than G for a block, or none where it traps BOUNDS (R30, R31, R262). -/
def State.placeOf (s : State) (b : Nat) (sp : Space) (a n : Nat) : Option Place :=
  match sp with
  | .l => if a + n ≤ (s.block b).scratchSize then some (.scratch b a) else none
  | .c =>
    if 2 ^ 23 ≤ a then none
    else
      match s.windowBlock b (a / 2 ^ 21) with
      | none => none
      | some y => if a % 2 ^ 21 + n ≤ (s.block y).scratchSize then some (.scratch y (a % 2 ^ 21)) else none
  | .k =>
    match (s.stack (stackOf (coreOfBlock b))).allocOf (s.block b).launch with
    | none => none
    | some (base, size) => if a + n ≤ size then some (.stack (stackOf (coreOfBlock b)) (base + a)) else none
  | .g => none

/-- The swizzle of an address (R259). -/
def swizzle (a : Nat) (z : Nat) : Nat :=
  let (w, sh) := [(0, 0), (1, 9), (2, 9), (3, 9), (3, 10), (4, 10), (6, 10), (6, 11)].getD z (0, 0)
  a ^^^ (((a >>> sh) % 2 ^ w) <<< 3)

/-! ## Release and acquire (R283 to R288) -/

/-- The core releases eagerly: mmrev 1 strengthens every release of the launch (R288, R291). -/
def State.strengthened (s : State) : Bool := s.myLaunch.record.mmrev == 1

/-- The pending release fences of the issuing warp for some lanes, taken from them (R276, R301). -/
def State.takeRel (s : State) (ls : W32) : List RelPend × State :=
  let part (m : W32) : List RelPend :=
    (s.cw.rel.map fun r => { r with lanes := r.lanes &&& m }).filter fun r => decide (r.lanes ≠ 0#32)
  if s.cw.rel.isEmpty then ([], s) else (part ls, s.setCw { s.cw with rel := part (~~~ls) })

/-- A release of a scope before its write (R283, R284, R288): from `.cls` scope on the epoch rises, and the answer is the
record that goes with the write, or none where the core writes back eagerly. At `.blk` scope it does nothing. -/
def State.release (s : State) (scope : Nat) (eager : Bool) : Option Nat × State :=
  if scope = 0 then (none, s)
  else if eager || s.strengthened then (none, ((s.flushCore s.here).raiseEpoch s.here).2)
  else
    let (e, s) := s.raiseEpoch s.here
    (some e, s)

/-- The release of some lanes' write that is under way: the lanes whose write goes through to its home, with the record
that it carries (R284). -/
structure Through where
  lanes : W32
  entry : Option Nat

/-- The release of a lane's write, if it goes through. -/
def throughOf (ts : List Through) (l : Nat) : Option Through := ts.find? fun t => t.lanes.getLsbD l

/-- What the lanes of a write do first whose release fences it ends: each fence's release (R284, R288). -/
def State.beginRelease (s : State) (global : Bool) (ls : W32) : List Through × State :=
  let (rs, s) := s.takeRel ls
  rs.foldl (fun (acc : List Through × State) r =>
    let (e, s) := acc.2.release r.scope (r.eager || !global)
    (if global && r.scope != 0 then acc.1 ++ [⟨r.lanes, e⟩] else acc.1, s)) ([], s)

/-- The acquire of a scope: clean bytes of the core's L1 are invalidated at `.cls` scope or wider (R287). -/
def State.acquire (s : State) (scope : Nat) : State := if scope = 0 then s else s.invalidateClean s.here

/-- The home takes a core's record against the line of an address, if the write carries one (R284). -/
def State.recordAt (s : State) (p : Nat) (e : Option Nat) : State :=
  match e with
  | none => s
  | some e => s.enterRecord (lineOf p) s.here e

/-! ## Store signatures (R410) -/

/-- One byte of a CRC-64 under the ECMA-182 polynomial. -/
def crcByte (c : Word) (b : Byte) : Word :=
  (List.range 8).foldl (fun c _ => if c.getLsbD 63 then (c <<< 1) ^^^ 0x42F0E1EBA9EA3693#64 else c <<< 1)
    (c ^^^ (b.zeroExtend 64 <<< 56))

/-- The issuing warp's signature takes a record (address, byte mask, data) of a write to G or K of an audited launch;
the bytes of a record are in the order of log 22. -/
def State.sign (s : State) (a : Nat) (bs : List Byte) : State :=
  if s.myLaunch.record.audit then
    s.setCw { s.cw with sig :=
      (leBytes a 8 ++ leBytes (2 ^ bs.length - 1) ((bs.length + 7) / 8) ++ bs).foldl crcByte s.cw.sig }
  else s

/-! ## Lane-wise accesses -/

/-- The warp is the urgent warp of its block (R112): the live warp that has retired the fewest packets. -/
def State.urgent (s : State) (k : Nat) : Bool :=
  let ws := (s.warpsOf (s.warp k).block).filter s.liveWarp
  decide (2 ≤ (s.block (s.warp k).block).warps) && leastBy (fun w => (s.warp w).retired) ws == some k

/-- The address of a lane of a format M word before swizzle (R47). -/
def State.laneAddr (s : State) (x : BitVec 6) (k : BitVec 3) (l : Nat) : Nat :=
  (s.rdS (48 + k.toNat) + wordOfInt (sextNat (elem (s.rdV x.toNat l) 32 0) 32) + wordOfInt s.off).toNat

/-- The first watched address that an access touches (R400); a watchpoint that is invalid is ignored. -/
def watchHit (ws : List Watch) (rd wr : Bool) (va n : Nat) : Option Nat :=
  leastBy id ((ws.filter fun w =>
      w.v && ((w.kind == 1 && rd) || (w.kind == 2 && wr) || (w.kind == 3 && (rd || wr))) && decide (3 ≤ w.size) &&
        decide (w.size ≤ 30) && w.base % 2 ^ w.size == 0 && decide (va < w.base + 2 ^ w.size) &&
        decide (w.base < va + n)).map fun w => if va < w.base then w.base else va)

/-- A fault of an access: its cause, the address and the syndrome (R258, R355, R400). -/
structure MemFault where
  cause : Cause
  addr : Nat
  synd : BitVec 16 := 0#16

/-- The issuing word traps with a memory fault (R258, R381, R383). -/
def State.memTrap (s : State) (f : MemFault) : State :=
  s.takeTrap s.cur
    { cause := f.cause, taddr := BitVec.ofNat 64 f.addr, waddr := s.myAddr, synd := f.synd,
      pass := decide (f.cause = .watch) }

/-- The word's accesses are tested against the block's watchpoints unless its group runs with pass set (R383). -/
def State.watched (s : State) (rd wr : Bool) (va n : Nat) : Option Nat :=
  if s.cw.pass then none else watchHit (s.block s.myBlock).watch rd wr va n

/-- Lane addresses of a global access translated in lane order, each with its physical address (R355). -/
def State.xlateLanes (s : State) (k : Kind) : List (Nat × Nat) → Except MemFault (State × List (Nat × Nat))
  | [] => .ok (s, [])
  | (l, va) :: rest =>
    match s.translate s.here s.myCtx va k with
    | .bad c y => .error ⟨c, va, y⟩
    | .ok s e =>
      let s := if k.writes then s.snapBefore (s.block s.myBlock).launch va e else s
      match State.xlateLanes s k rest with
      | .error f => .error f
      | .ok (s, ps) => .ok (s, (l, e.phys va) :: ps)

/-- The first lane whose access meets a test, as its address. -/
def firstLane (as : List (Nat × Nat)) (bad : Nat → Bool) : Option Nat := (as.find? fun a => bad a.2).map (·.2)

/-- The checks of a lane-wise access in the order of R258 and R400, up to those of translation: ALIGN, BOUNDS, PAGE
or PROTECTION, WATCH at the lowest watched address that a lane touches (R381). The answer gives each lane its place. -/
def State.checkLanes (s : State) (sp : Space) (k : Kind) (align n : Nat) (as : List (Nat × Nat)) :
    Except MemFault (State × List (Nat × Place)) :=
  match firstLane as (fun a => a % align != 0) with
  | some a => .error ⟨.align, a, 0#16⟩
  | none =>
    match sp with
    | .g =>
      match s.xlateLanes k as with
      | .error f => .error f
      | .ok (s', ps) =>
        match leastBy id (as.filterMap fun a => s.watched (decide (k ≠ .write)) k.writes a.2 n) with
        | some a => .error ⟨.watch, a, 0#16⟩
        | none => .ok (s', ps.map fun p => (p.1, .global p.2))
    | _ =>
      match firstLane as (fun a => (s.placeOf s.myBlock sp a n).isNone) with
      | some a => .error ⟨.bounds, a, 0#16⟩
      | none => .ok (s, as.map fun a => (a.1, (s.placeOf s.myBlock sp a.2 n).getD (.global 0)))

/-- The bytes at a place as the issuing warp's load sees them, with the first poisoned word among them. -/
def State.readPlace (s : State) (n : Nat) : Place → State × List Byte × Option Nat
  | .scratch b o => s.scratchRead b o n
  | .stack k o => s.stackRead k o n
  | .global p => s.l1Read s.here (s.urgent s.cur.warp) p n

/-- The bytes at a place as a load that bypasses L1 sees them (R269). -/
def State.readHome (s : State) (n : Nat) : Place → State × List Byte × Option Nat
  | .global p =>
    let (s, bs) := s.homeRead p n
    (s, bs, poisonIn s.poison p n)
  | q => s.readPlace n q

/-- Each lane's n bytes read in lane order, through the L1 or at their home; the answer is the first lane that reads a
poisoned word, or the bytes (R258, R269, R403). -/
def State.readLanes (s : State) (l1 : Bool) (n : Nat) :
    List (Nat × Place) → Except Nat (State × List (Nat × List Byte))
  | [] => .ok (s, [])
  | (l, q) :: rest =>
    match if l1 then s.readPlace n q else s.readHome n q with
    | (_, _, some _) => .error l
    | (s, bs, none) =>
      match State.readLanes s l1 n rest with
      | .error f => .error f
      | .ok (s, r) => .ok (s, (l, bs) :: r)

/-- A read of n bytes at a place has to reach a device that no route reaches (R375): a read through the L1 does not where
the L1 holds the bytes. -/
def State.cutOff (s : State) (l1 : Bool) (n : Nat) : Place → Bool
  | .global p => s.unreachable p && !(l1 && (s.core s.here).hits p n)
  | _ => false

/-- The channel that a read of n bytes at a place waits for (R406). -/
def State.waitsChannel (s : State) (l1 : Bool) (n : Nat) : Place → Option Nat
  | .global p => if l1 && (s.core s.here).hits p n then none else s.busyChannel p n
  | _ => none

/-- The address of a lane in a list. -/
def addrOf (as : List (Nat × Nat)) (l : Nat) : Nat := ((as.find? fun a => a.1 == l).map (·.2)).getD 0

/-- Why a read stops short: a fault, a device that no route reaches (R375), or a DRAM channel that repeats a transfer
(R406). -/
inductive MemStop where
  | fault (f : MemFault)
  | remote (addr : Nat)
  | dram (channel : Nat)

/-- A word is a load, whose reply a warp of the IE need not wait for (R390), and no atomic. -/
def isLoadWord (w : W32) : Bool := decide (0x33 ≤ opOf w) && !(decide (0xE2 ≤ opOf w) && decide (opOf w ≤ 0xE6))

/-- The issuing word stops: it traps, or it waits for the reply (R375, R390). On the IE the warp goes on behind a
load's group, and issues nothing until the reply lands (log 21); on the RE a load is not retired, and its slot waits,
as does that of any other word. -/
def State.memStop (s : State) : MemStop → State
  | .fault f => s.memTrap f
  | .dram c => s.waitFor (.room (.dram c))
  | .remote a =>
    let m := s.mic
    let l : PendLoad :=
      { slotB := s.cur.slotB, ctl := s.cw.ctl, src := m.src, word := m.pkt.getD m.word 0#32, pfx := m.pfx, waddr := s.myAddr
        addr := a }
    let s := if s.cw.onRe ∨ !isLoadWord l.word then s.waitFor (.remote a) else s.setCw { s.cw with reply := some l }
    s.later (.remoteTimeout s.cur.warp)

/-- The bytes that lanes load, through the L1 or at their home, after every check of R258; the trap address of POISON is
the address of the first lane that meets it (R258, R269). -/
def State.loadLanes (s : State) (sp : Space) (align n : Nat) (l1 : Bool) (as : List (Nat × Nat)) :
    Except MemStop (State × List (Nat × List Byte)) :=
  match s.checkLanes sp .read align n as with
  | .error f => .error (.fault f)
  | .ok (s, qs) =>
    match s.mic.wake, qs.find? fun q => s.cutOff l1 n q.2, qs.findSome? fun q => s.waitsChannel l1 n q.2 with
    | .poisoned a, _, _ => .error (.fault ⟨.poison, a, 0#16⟩)
    | _, some q, _ => .error (.remote (addrOf as q.1))
    | _, none, some c => .error (.dram c)
    | _, none, none =>
      match s.readLanes l1 n qs with
      | .error l => .error (.fault ⟨.poison, addrOf as l, 0#16⟩)
      | .ok r => .ok r

/-- The lanes of a list as a mask. -/
def maskOf (ls : List Nat) : W32 := laneMask fun l => ls.contains l

/-- One lane's write to a place. A global write goes into the L1, or through to its home with the release record
where it is a release write (R264, R284); an audit replay performs no write to G or K (R411). -/
def State.writePlace (s : State) (through : Option Through) (q : Place) (bs : List Byte) : State :=
  match q with
  | .scratch b o => s.scratchWrite b o bs
  | .stack k o => if (s.block s.myBlock).replay then s else s.stackWrite k o bs
  | .global p =>
    if (s.block s.myBlock).replay then s
    else
      match through with
      | none => s.l1Write s.here true p bs
      | some t => (((s.recordAt p t.entry).homeWrite p bs).reread s.here (lineOf p)).l1Write s.here false p bs

/-- The lanes' writes, in lane order, so that the higher lane's byte stands (R257). A write of a lane behind a release
fence of `.cls` scope or wider is written through (R284). -/
def State.writeLanes (s : State) (sp : Space) (as : List (Nat × Nat)) (qs : List (Nat × Place))
    (data : Nat → List Byte) : State :=
  let (ts, s) := s.beginRelease (sp == .g) (maskOf (qs.map (·.1)))
  qs.foldl (fun s q =>
      let s := if sp = .g ∨ sp = .k then s.sign (addrOf as q.1) (data q.1) else s
      s.writePlace (throughOf ts q.1) q.2 (data q.1)) s

/-! ## Uniform global accesses of a warp (R95, R172, R173) -/

/-- An 8-byte-aligned global read of the issuing warp through its L1, as a load of one lane (R95, R172). -/
def State.readUniform (s : State) (va n : Nat) : Except MemStop (State × List Byte) :=
  match s.loadLanes .g (min n 8) n true [(0, va)] with
  | .error e => .error e
  | .ok (s, r) => .ok (s, (r.map (·.2)).headD [])

/-- A global write of the issuing warp, an access of every lane of the slot's mask (R273). It traps no POISON: R172
names POISON for `sld` and `sst` together, but R403 has a write of all 8 bytes of a word clear its poison, and a write is
no consumption (log 54). -/
def State.writeUniform (s : State) (va : Nat) (bs : List Byte) : Except MemFault State :=
  match s.checkLanes .g .write (min bs.length 8) bs.length [(0, va)] with
  | .error f => .error f
  | .ok (s, qs) =>
    let (ts, s) := s.beginRelease true s.mask
    .ok (qs.foldl (fun s q => (s.sign va bs).writePlace ts.head? q.2 bs) s)

end Sys2Proof.Machine
end

