-- ==== Sys2Proof/Machine/Slots.lean ====
section
/-! DEFINITION. How a slot moves from word to word and packet to packet (spec/02 R41 to R44, R428), how waits end,
barriers 0 to 15 of a block (spec/14 R317, R318), the baton (spec/10 R212, R213) and the end of a warp (spec/05
R101). -/

namespace Sys2Proof.Machine

/-! ## Waits -/

/-- A slot as a number, for the queues that hold slots. -/
def Turn.num (t : Turn) : Nat := 2 * t.warp + (if t.slotB then 1 else 0)
def Turn.ofNum (n : Nat) : Turn := ⟨n / 2, n % 2 == 1⟩

/-! ## Barriers of a block (R317) -/

/-- The warp of a block with an index. -/
def State.warpAt (s : State) (b i : Nat) : Option Nat := (s.warpsOf b).find? fun k => (s.warp k).idx == i

/-- A warp of the block has ended. -/
def State.endedAt (s : State) (b i : Nat) : Bool :=
  match s.warpAt b i with
  | none => true
  | some k => !s.liveWarp k

/-- Whether the warp of an index takes part in a barrier's phase. -/
def State.participant (s : State) (b : Nat) (x : Bar) (i : Nat) : Bool :=
  if x.mask = 0#32 then decide (i < (s.block b).warps) && !s.endedAt b i else x.mask.getLsbD i

/-- Every participant that has not ended has arrived. -/
def State.barFull (s : State) (b : Nat) (x : Bar) : Bool :=
  x.fixed && (List.range (s.block b).warps).all fun i => !s.participant b x i || s.endedAt b i || x.arrived.getLsbD i

/-- Warps that trail a barrier at which at least three quarters of four or more live participants wait (R119). -/
def State.trailers (s : State) (b : Nat) (x : Bar) : List Nat :=
  let ps := (List.range (s.block b).warps).filter fun i => s.participant b x i && !s.endedAt b i
  let at_ := ps.filter fun i => x.arrived.getLsbD i
  if 4 ≤ ps.length ∧ 3 * ps.length ≤ 4 * at_.length then
    (ps.filter fun i => !x.arrived.getLsbD i).filterMap (s.warpAt b)
  else []

/-- A restored slot whose `bar` has not executed again finds, when it does, that its phase is over (R320). -/
def Micro.barOver (m : Micro) (n : Nat) : Micro :=
  { m with wakes := m.wakes.map fun e => if e.2 = .bar n false then (e.1, .bar n true) else e }

/-- The warp trails a barrier (R119). -/
def State.trail (s : State) (n k : Nat) : State :=
  let w := s.warp k
  let s := s.setWarp k { w with trailing := addOnce w.trailing n }
  if w.trailing.isEmpty then s.raise k 2 else s

/-- What the completion of a barrier's phase changes in a warp of the block: its urgency count starts anew, it trails
that barrier no more, and a restored slot's wake condition is met (R112, R119, R320). -/
def Warp.barDone (w : Warp) (n : Nat) : Warp :=
  { w with retired := 0, trailing := without w.trailing n, ma := w.ma.barOver n, mb := w.mb.barOver n }

/-- The phase of a barrier completes when it is full: every waiting slot resumes, the urgency counts and the block's line
protections of R112 start anew, and its class 2 triggers end (R119). Otherwise trailing warps get theirs. -/
def State.barCheck (s : State) (b n : Nat) : State :=
  let x := Tab.get {} (s.block b).bars n
  if s.barFull b x then
    let s := (s.waiting b fun w => decide (w = .bar n)).foldl (fun s t => s.finishWait t (.bar n true) id) s
    let s := s.setBlock b { s.block b with bars := Tab.drop (s.block b).bars n }
    let c := coreOfBlock b
    let s := s.setCore c { s.core c with
      l1 := (s.core c).l1.map fun l => if (l.guard.map (·.1)) = some b then { l with guard := none } else l }
    (s.warpsOf b).foldl (fun s k => (s.setWarp k ((s.warp k).barDone n)).untrigger k) s
  else if x.fixed then
    (s.trailers b x).foldl (State.trail · n) s
  else s

/-! ## The baton (R212 to R214) -/

/-- The tile queue of a core is empty: nothing is queued or under way in its units. -/
def Core.tileIdle (c : Core) : Bool := c.queue.isEmpty && c.streamBusy.isNone && c.loadBusy.isNone

/-- The engine emptied for a holder of another context (R213): banks empty, accumulators zero, sticky bit clear. -/
def Core.clearEngine (c : Core) : Core := { c with bank0 := {}, bank1 := {}, accum := [], badAccum := [], overflow := false }

/-- The table that a context uses, its own or the default one: contexts that name one table use the same (R247, R344). -/
def State.tableKey (s : State) (ctx : Nat) : Option (Nat × List Rule) :=
  (s.context ctx).bind fun c => c.table.map fun r => (c.rtab, r)

/-- The baton goes to a warp; a holder of another context than the last finds the engine empty and its own rule
table in use, with that table's counters restarted where the table differs (R213, R247, R253). -/
def State.grantBaton (s : State) (core k : Nat) : State :=
  let ctx := (s.launch (s.block (s.warp k).block).launch).ctx
  let c := s.core core
  let table := s.tableKey ctx
  let c := if c.batonCtx = ctx then c else { c.clearEngine with batonCtx := ctx }
  let c := if c.table = table then c else { c with table := table, applied := [], restarted := [] }
  s.setCore core { c with baton := some k }

/-- A restored engine of the block is still to be rebuilt, before which none of its warps issues (R214, R391). -/
def State.engineDue (s : State) (b : Nat) : Bool :=
  (s.core (coreOfBlock b)).savedEngines.any fun e => e.block == b

/-- The holder gives the baton: the earliest waiter is to be granted it, or it is free (R212). -/
def State.giveBaton (s : State) (core : Nat) : State :=
  let s := s.setCore core { s.core core with baton := none }
  if (s.core core).batonQueue.isEmpty then s else s.later (.batonGrant core)

/-! ## The end of a warp and of a packet -/

/-- A warp ends (R101): its stack is abandoned, its holds and its npr span end, its barriers count it as arrived,
its baton passes on, and the block exits with its last warp. -/
def State.endWarp (s : State) (k : Nat) : State :=
  let w := s.warp k
  let b := w.block
  let s := (s.setWarp k { w with stat := .ended, holds := [], npr := false, trailing := [], requested := false,
                                 sole := false, rel := [], latch := .invalid, dsp := 0 }).demote k
  let c := coreOfWarp k
  let s := s.setCore c { s.core c with reWaiting := without (s.core c).reWaiting k }
  let s := if (s.core c).baton = some k then s.giveBaton c else s
  let s := (List.range 16).foldl (fun s n => s.barCheck b n) s
  if (s.warpsOf b).all fun j => !s.liveWarp j then s.later (.blockExit b) else s

/-- The control-transfer opcodes (R42). -/
def isTransferOp (op : Nat) : Bool := [0x02, 0x03, 0x04, 0x05, 0x06, 0x07, 0x08, 0x0C, 0x16, 0x17].contains op

/-- The index of a packet's control-transfer word. -/
def transferIndex (pkt : List W32) : Nat := pkt.findIdx fun w => isTransferOp (opOf w)

/-- A slot's packet moves to the next one, in the control state and in a pending one of the other slot. -/
def Warp.nextPacket (w : Warp) (slotB : Bool) : Warp :=
  let step (c : Ctl) : Ctl := c.setPath slotB { c.path slotB with pc := (c.path slotB).pc + 1 }
  { w with ctl := step w.ctl, pend := w.pend.map fun p => { p with ctl := step p.ctl } }

/-- The control state fixed by a transfer replaces the current one; a slot whose path changed starts on a new
packet (R428). -/
def Warp.applyPend (w : Warp) (p : Pend) : Warp :=
  let w := { w with
    ma := if p.ctl.a = w.ctl.a ∧ p.slotB then w.ma else {}
    mb := if p.ctl.b = w.ctl.b ∧ !p.slotB then w.mb else {} }
  { w with ctl := p.ctl, pend := none }

/-- The last word of a slot's packet has issued (R42, R428): a pending transfer of the slot takes effect, with the
trap or stop that follows it; otherwise the slot goes to the next packet. -/
def State.endPacket (s : State) (t : Turn) : State :=
  let w := s.warp t.warp
  let m := w.micro t.slotB
  let here := wordAddr (s.codeBase t.warp) (w.ctl.path t.slotB).pc (transferIndex m.pkt)
  let w := { w with retired := w.retired + 1 }
  match w.pend with
  | none =>
    (s.setWarp t.warp ((w.nextPacket t.slotB).setMicro t.slotB {})).haltAtBoundary t.warp
  | some p =>
    if p.slotB = t.slotB then
      let s := s.setWarp t.warp (w.applyPend p)
      if p.ctl.exited = 0xFFFFFFFF#32 then s.endWarp t.warp
      else
        match p.kind with
        | .control => s.haltAtBoundary t.warp
        | .svc n => s.takeTrap t { cause := .svc, taddr := n, waddr := here }
        | .stop =>
          if (s.block w.block).debug then
            let x := s.warp t.warp
            let s := s.setWarp t.warp
              { x with stat := .stopped, byStop := true, waddr := here, lastB := t.slotB, latch := .invalid, synd := 0#16 }
            (s.demote t.warp).startSave w.block .trap
          else s.takeTrap t { cause := .break, taddr := 0#64, waddr := here }
    else (s.setWarp t.warp ((w.nextPacket t.slotB).setMicro t.slotB {})).haltAtBoundary t.warp

end Sys2Proof.Machine
end

