-- ==== Sys2Proof/Machine/Control.lean ====
section
/-! DEFINITION. Control and system instructions (spec/05 R93 to R108, spec/04 R91, spec/19 R384). -/

namespace Sys2Proof.Machine

/-- What a meaning answers. -/
abbrev Out := Host.Outcome State Fault Refusal

/-! ## The divergence stack (R94, R95) -/

/-- An entry of the divergence stack (R94). -/
structure Entry where
  frame : Bool
  pc : Nat
  mask : W32
  rpc : W32
  arr : W32
  deriving DecidableEq, Repr

/-- The 16 bytes of an entry (R94). -/
def Entry.bytes (e : Entry) : List Byte :=
  leBytes (e.pc % 2 ^ 31 + (if e.frame then 2 ^ 31 else 0)) 4 ++ leBytes e.mask.toNat 4 ++ leBytes e.rpc.toNat 4 ++
    leBytes e.arr.toNat 4

/-- The entry that 16 bytes hold (R94). -/
def Entry.ofBytes (bs : List Byte) : Entry :=
  let n := leNat bs
  { frame := bits n 31 31 == 1, pc := bits n 30 0, mask := BitVec.ofNat 32 (bits n 63 32),
    rpc := BitVec.ofNat 32 (bits n 95 64), arr := BitVec.ofNat 32 (bits n 127 96) }

/-- The address of entry i (R32, R94). -/
def State.entryAddr (s : State) (i : Nat) : Nat := (s.cw.pbase + BitVec.ofNat 64 (16 * i)).toNat

/-- A DIV_STACK trap of the issuing word (R95). -/
def State.divStack (s : State) : MemFault := ⟨.divStack, s.myAddr.toNat, 0#16⟩

/-- A push writes entry dsp and raises dsp (R95). -/
def State.push (s : State) (e : Entry) : Except MemFault State :=
  if 64 ≤ s.cw.dsp then .error s.divStack
  else
    match s.writeUniform (s.entryAddr s.cw.dsp) e.bytes with
    | .error f => .error f
    | .ok s => .ok (s.setCw { s.cw with dsp := s.cw.dsp + 1 })

/-- The top entry of the stack, read as an access of the warp (R95). -/
def State.peek (s : State) : Except MemStop (State × Entry) :=
  if s.cw.dsp = 0 then .error (.fault s.divStack)
  else
    match s.readUniform (s.entryAddr (s.cw.dsp - 1)) 16 with
    | .error f => .error f
    | .ok (s, bs) => .ok (s, Entry.ofBytes bs)

/-- The top entry leaves the stack. -/
def State.dropTop (s : State) : State := s.setCw { s.cw with dsp := s.cw.dsp - 1 }

/-- No reconvergence packet: no region is open (R93). -/
def noRpc : W32 := 0xFFFFFFFF#32

/-- The first empty slot, A before B (R98, R99). -/
def Ctl.empty (c : Ctl) : Option Bool := if !c.a.live then some false else if !c.b.live then some true else none

/-- Refill (R99): waiting paths on top of the stack take the empty slots. A path that breaks R95 traps. -/
def State.refill : Nat → State → Ctl → Except MemStop (State × Ctl)
  | 0, s, c => .ok (s, c)
  | n + 1, s, c =>
    match c.empty with
    | none => .ok (s, c)
    | some b =>
      if s.cw.dsp = 0 then .ok (s, c)
      else
        match s.peek with
        | .error f => .error f
        | .ok (s, e) =>
          if e.frame then .ok (s, c)
          else if e.arr ≠ 0#32 ∨ e.mask = 0#32 ∨ e.rpc ≠ c.rpc then .error (.fault s.divStack)
          else State.refill n s.dropTop (c.setPath b { live := true, pc := e.pc, mask := e.mask })

/-- Whether every lane of the innermost region has arrived or exited (R98). -/
def Ctl.covered (c : Ctl) : Bool := c.rpc != noRpc && (c.rmask &&& ~~~(c.rarr ||| c.exited)) == 0#32

/-- Completed regions are closed one by one: the merged path takes an empty slot and the enclosing region's frame is
popped (R98). The pc field of a frame must be zero (R94), but no trap of R95 names it: what it holds is not tested and is
dropped with the entry (log 54). -/
def State.closeRegions : Nat → State → Ctl → Except MemStop (State × Ctl)
  | 0, s, c => .ok (s, c)
  | n + 1, s, c =>
    if !c.covered then .ok (s, c)
    else
      let placed : Option Ctl :=
        if c.rarr = 0#32 then some c
        else c.empty.map fun b => c.setPath b { live := true, pc := c.rpc.toNat + 1, mask := c.rarr }
      match placed with
      | none => .error (.fault s.divStack)
      | some c =>
        match s.peek with
        | .error f => .error f
        | .ok (s, e) =>
          if !e.frame then .error (.fault s.divStack)
          else State.closeRegions n s.dropTop { c with rpc := e.rpc, rmask := e.mask, rarr := e.arr }

/-- settle (R98). -/
def State.settle (s : State) (c : Ctl) : Except MemStop (State × Ctl) :=
  match State.closeRegions 66 s c with
  | .error f => .error f
  | .ok (s, c) =>
    match State.refill 3 s c with
    | .error f => .error f
    | .ok (s, c) =>
      if !c.a.live ∧ !c.b.live ∧ c.exited ≠ 0xFFFFFFFF#32 then .error (.fault s.divStack) else .ok (s, c)

/-! ## Transfers (R42, R428) -/

/-- The control state a transfer has fixed becomes the warp's pending transfer (R428). -/
def State.pending (s : State) (c : Ctl) (k : PendKind) : State :=
  s.setCw { s.cw with pend := some { ctl := c, kind := k, slotB := s.cur.slotB } }

/-- The issuing slot goes on at a packet. -/
def State.goTo (s : State) (t : Nat) : Ctl := s.cw.ctl.setPath s.cur.slotB { s.path with pc := t }

/-- A target outside 0 to 2^31 − 1 (R100). -/
def badTarget (t : Int) : Bool := decide (t < 0) || decide (2 ^ 31 ≤ t)

/-- The lanes of the slot's mask whose guard is true (R96). -/
def State.takenMask (s : State) (h : Hdr) : W32 := laneMask (s.active h)

/-- A per-lane transfer to packet t (R96). -/
def State.splitTo (s : State) (h : Hdr) (t : Int) : Out :=
  let tk := s.takenMask h
  let nt := s.mask &&& ~~~tk
  let x := s.cur.slotB
  if tk = 0#32 then .next (s.pending (s.goTo (s.pc + 1)) .control)
  else if badTarget t then .next (s.trapHere .bounds)
  else if nt = 0#32 then .next (s.pending (s.goTo t.toNat) .control)
  else
    let c := s.cw.ctl.setPath x { live := true, pc := s.pc + 1, mask := nt }
    if !(c.path (!x)).live then
      .next (s.pending (c.setPath (!x) { live := true, pc := t.toNat, mask := tk }) .control)
    else
      match s.push { frame := false, pc := t.toNat, mask := tk, rpc := s.cw.ctl.rpc, arr := 0#32 } with
      | .error f => .next (s.memTrap f)
      | .ok s => .next (s.pending c .control)

/-- The whole slot moves to packet t, after an effect on its warp's registers (R100). -/
def State.moveTo (s : State) (t : Int) (f : State → State) : Out :=
  if badTarget t then .next (s.trapHere .bounds)
  else .next ((f s).pending (s.goTo t.toNat) .control)

/-- The packet offset of a format B word (R48). -/
def offsetB (o : BitVec 18) : Int := o.toInt

/-- BRA (R96, R100). -/
def execBra (h : Hdr) (o : BitVec 18) (s : State) : Out := s.splitTo h (s.pc + offsetB o)

/-- BRX (R96, R100). -/
def execBrx (h : Hdr) (a : BitVec 6) (s : State) : Out := s.splitTo h (s.rdS a.toNat).toNat

/-- CALL (R100). -/
def execCall (h : Hdr) (o : BitVec 18) (s : State) : Out :=
  if s.taken h then s.moveTo (s.pc + offsetB o) fun s => s.putS 63 (BitVec.ofNat 64 (s.pc + 1))
  else .next (s.pending (s.goTo (s.pc + 1)) .control)

/-- RET (R100). -/
def execRet (h : Hdr) (s : State) : Out :=
  if s.taken h then s.moveTo (s.rdS 63).toNat id else .next (s.pending (s.goTo (s.pc + 1)) .control)

/-- LOOP (R100). -/
def execLoop (h : Hdr) (d i : BitVec 6) (s : State) : Out :=
  if s.taken h then
    let n := s.rdS d.toNat - 1#64
    if n = 0#64 then .next ((s.putS d.toNat n).pending (s.goTo (s.pc + 1)) .control)
    else s.moveTo (s.pc + s.imm i) fun s => s.putS d.toNat n
  else .next (s.pending (s.goTo (s.pc + 1)) .control)

/-- RCV (R98). -/
def execRcv (_c : Bool) (o : BitVec 18) (s : State) : Out :=
  let c := s.cw.ctl
  let x := s.cur.slotB
  let y := c.path (!x)
  let t := s.pc + offsetB o
  if badTarget t then .next (s.trapHere .bounds)
  else if 64 < s.cw.dsp + 1 + (if y.live then 1 else 0) then .next (s.memTrap s.divStack)
  else
    let parked : Except MemFault State :=
      if y.live then s.push { frame := false, pc := y.pc, mask := y.mask, rpc := c.rpc, arr := 0#32 } else .ok s
    match parked with
    | .error f => .next (s.memTrap f)
    | .ok s1 =>
      match s1.push { frame := true, pc := 0, mask := c.rmask, rpc := c.rpc, arr := c.rarr } with
      | .error f => .next (s.memTrap f)
      | .ok s2 =>
        let c := (s.goTo (s.pc + 1)).setPath (!x) {}
        .next (s2.pending { c with rpc := BitVec.ofInt 32 t, rmask := s.mask, rarr := 0#32 } .control)

/-- What a word that settles or refills leaves to be done after its packet: the control state it found, or its stop. -/
def State.settled (s : State) : Except MemStop (State × Ctl) → Out
  | .error e => .next (s.memStop e)
  | .ok (t, c) => .next (t.pending c .control)

/-- JOIN (R98, R99): outside the packet that the region ends at, the path goes on, and empty slots are refilled. -/
def execJoin (_c : Bool) (s : State) : Out :=
  let c := s.cw.ctl
  if c.rpc ≠ BitVec.ofNat 32 s.pc ∨ c.rpc = noRpc then s.settled (State.refill 3 s (s.goTo (s.pc + 1)))
  else s.settled (s.settle { (c.setPath s.cur.slotB {}) with rarr := c.rarr ||| s.mask })

/-- EXIT (R99, R101). -/
def execExit (h : Hdr) (s : State) : Out :=
  let tk := s.takenMask h
  let rest := s.mask &&& ~~~tk
  let c := s.cw.ctl
  if tk = 0#32 then s.settled (State.refill 3 s (s.goTo (s.pc + 1)))
  else
    let p : Path := if rest = 0#32 then {} else { live := true, pc := s.pc + 1, mask := rest }
    s.settled (s.settle { (c.setPath s.cur.slotB p) with exited := c.exited ||| tk })

/-! ## trap, brk, svc, stop (R384) -/

/-- TRAP: a trap word of a group that runs with pass set acts as nop (R383). -/
def execTrap (h : Hdr) (a i : BitVec 6) (s : State) : Out :=
  if s.taken h ∧ !s.cw.pass then
    .next (s.takeTrap s.cur
      { cause := .software, taddr := s.rdOpt a + BitVec.ofNat 64 (s.immU i), waddr := s.myAddr, pass := true })
  else .next s

/-- BRK: a brk word of a group that runs with pass set acts as nop (R383). -/
def execBrk (h : Hdr) (i : BitVec 6) (s : State) : Out :=
  if s.taken h ∧ !s.cw.pass then
    .next (s.takeTrap s.cur
      { cause := .break, taddr := BitVec.ofNat 64 (s.immU i), waddr := s.myAddr, pass := true })
  else .next s

/-- SVC: the trap follows the packet (R42, R384). -/
def execSvc (h : Hdr) (a i : BitVec 6) (s : State) : Out :=
  .next (s.pending (s.goTo (s.pc + 1))
    (if s.taken h then .svc (s.rdOpt a + BitVec.ofNat 64 (s.immU i)) else .control))

/-- STOP: the stop follows the packet (R42, R384). -/
def execStop (h : Hdr) (s : State) : Out :=
  .next (s.pending (s.goTo (s.pc + 1)) (if s.taken h then .stop else .control))

/-! ## sleep, yield, hint, npr (R102 to R104) -/

/-- YIELD (R102). -/
def execYield (h : Hdr) (s : State) : Out :=
  if s.taken h then .next (s.setCw { s.cw with yielding := true, stamp := s.issued }) else .next s

/-- SLEEP (R102). -/
def execSleep (h : Hdr) (a i : BitVec 6) (s : State) : Out :=
  let n := min ((s.rdOpt a).toNat + s.immU i) (2 ^ 32 - 1)
  if s.taken h ∧ n ≠ 0 then
    .next ((s.setCw { s.cw with sleep := n }).later (.sleepExpire s.cur.warp))
  else .next s

/-- A context whose issue budget is 0 on some pipe has promotion disabled (R110). -/
def State.promotable (s : State) (k : Nat) : Bool :=
  match s.context (s.launch (s.block (s.warp k).block).launch).ctx with
  | none => true
  | some c => c.ibud.all fun b => b != 0

/-- HINT_PROMOTE (R103, R119). -/
def execHintPromote (h : Hdr) (s : State) : Out :=
  if s.taken h ∧ s.promotable s.cur.warp ∧ !s.cw.requested then
    .next ((s.setCw { s.cw with requested := true }).raise s.cur.warp 4)
  else .next s

/-- HINT_DEMOTE (R103, R119). -/
def execHintDemote (h : Hdr) (s : State) : Out :=
  if s.taken h then .next ((s.setCw { s.cw with requested := false }).untrigger s.cur.warp) else .next s

/-- NPR_OFF (R104). -/
def execNprOff (h : Hdr) (s : State) : Out :=
  if s.taken h then .next (s.setCw { s.cw with npr := false }) else .next s

/-- NPR_ON (R104): inside a span it has no effect. -/
def execNprOn (h : Hdr) (s : State) : Out :=
  if s.taken h ∧ !s.cw.npr then .next (s.setCw { s.cw with npr := true, nprCount := 0 }) else .next s

/-! ## Special registers (R28, R29, R105, R123, R272) -/

/-- Numbers that name a special register (R28). -/
def sregExists (n : Nat) : Bool := decide (n ≤ 0x14) || (decide (0x40 ≤ n) && decide (n ≤ 0x7F))

/-- Special registers that sregw writes (R28). -/
def sregWritable (n : Nat) : Bool := n == 0x11 || n == 0x12 || (decide (0x40 ≤ n) && decide (n ≤ 0x7F))

/-- Counters that have a meaning; the others read 0 and ignore writes (R123, R272). -/
def counterExists (n : Nat) : Bool :=
  (decide (0x40 ≤ n) && decide (n ≤ 0x52)) || (decide (0x60 ≤ n) && decide (n ≤ 0x6A)) ||
    (decide (0x70 ≤ n) && decide (n ≤ 0x74))

/-- Position x, y or z of a linear block index in its grid (R28). -/
def gridPos (r : LaunchRec) (lin axis : Nat) : Nat :=
  match axis with
  | 0 => lin % r.gridX
  | 1 => lin / r.gridX % r.gridY
  | _ => lin / (r.gridX * r.gridY)

/-- The value of a special register as the issuing warp reads it (R28): the cycle count and the counters are those of the
cycle in which the word's group has been dispatched. The engine is the one that executes the word (R121). -/
def State.readSpecial (s : State) (n : Nat) : Word :=
  let b := s.block s.myBlock
  let r := s.myLaunch.record
  let c := s.here
  let num (k : Nat) : Word := BitVec.ofNat 64 k
  match n with
  | 0x00 => num s.cw.idx
  | 0x01 => num (gridPos r b.lin 0)
  | 0x02 => num (gridPos r b.lin 1)
  | 0x03 => num (gridPos r b.lin 2)
  | 0x04 => num r.gridX
  | 0x05 => num r.gridY
  | 0x06 => num r.gridZ
  | 0x07 => num b.warps
  | 0x08 => num c
  | 0x09 => num (clusterOf c)
  | 0x0A => num (stackOf c)
  | 0x0B => num s.device
  | 0x0C => (s.core c).cycle
  | 0x0D => num (s.die (stackOf c)).phase
  | 0x0E => num (if s.cw.onRe then 1 else 0)
  | 0x0F => num (if s.cur.slotB then 1 else 0)
  | 0x10 => s.mask.zeroExtend 64
  | 0x11 => s.cw.cause.zeroExtend 64
  | 0x12 => s.cw.taddr
  | 0x13 => num ((s.core c).rows - Config.renameRows)
  | 0x14 => s.cw.pbase
  | _ => if counterExists n then Tab.get 0#64 (s.core c).counters n else 0#64

/-- The special register a word names: `S[a] + num` (R105). -/
def State.sregNum (s : State) (a i : BitVec 6) : Nat := (s.rdOpt a).toNat + s.immU i

/-- SREG (R105). -/
def execSreg (h : Hdr) (d a i : BitVec 6) (s : State) : Out :=
  if s.taken h then
    if sregExists (s.sregNum a i) then .next (s.putS d.toNat (s.readSpecial (s.sregNum a i)))
    else .next (s.trapHere .illegal)
  else .next s

/-- A write to a special register that sregw may name: the low bits of the register's width are kept (R29). -/
def State.writeSpecial (s : State) (n : Nat) (x : Word) : State :=
  match n with
  | 0x11 => s.setCw { s.cw with cause := x.truncate 8 }
  | 0x12 => s.setCw { s.cw with taddr := x }
  | _ =>
    if counterExists n then
      s.setCore s.here { s.core s.here with counters := Tab.put (s.core s.here).counters n x }
    else s

/-- SREGW (R29, R105). -/
def execSregw (h : Hdr) (d a i : BitVec 6) (s : State) : Out :=
  if s.taken h then
    if sregWritable (s.sregNum a i) then .next (s.writeSpecial (s.sregNum a i) (s.rdS d.toNat))
    else .next (s.trapHere .illegal)
  else .next s

/-- SETNF_CODE (R106, R147). -/
def execSetnfCode (h : Hdr) (f : BitVec 2) (i : BitVec 6) (s : State) : Out :=
  if s.taken h then .next (s.putNf f.toNat (Config.standardOf i.toNat)) else .next s

/-- SETNF_REG (R106, R146). -/
def execSetnfReg (h : Hdr) (f : BitVec 2) (a : BitVec 6) (s : State) : Out :=
  if s.taken h then
    if nfValid (s.rdS a.toNat) then .next (s.putNf f.toNat (s.rdS a.toNat)) else .next (s.trapHere .format)
  else .next s

/-! ## Code modification (R107, R402) -/

/-- A packet at a virtual address overlaps a byte range. -/
def packetIn (va start len : Nat) : Bool := decide (va < start + len) && decide (start < va + 12)

/-- The slots of every warp of a context that hold a fetched packet no word of which has issued drop it where a test
of its address holds. -/
def State.dropFetched (s : State) (ctx : Nat) (test : Nat → Bool) : State :=
  s.warps.foldl (fun (s : State) (e : Nat × Warp) =>
    let w := s.warp e.1
    let b := s.block w.block
    let r := s.launch b.launch
    if r.ctx = ctx then
      let clean (slotB : Bool) (m : Micro) : Micro :=
        if m.atBoundary && test (r.record.code + 12 * (w.ctl.path slotB).pc) then { m with pkt := [] } else m
      s.setWarp e.1 { w with ma := clean false w.ma, mb := clean true w.mb }
    else s) s

/-- A release fence of `.dev` or `.dom` scope that still waits for the write of a lane of the slot's mask is completed
by an `icinv`: the core writes back eagerly, and the next write is an ordinary one (R402). -/
def State.completeRelease (s : State) : State :=
  let ends (r : RelPend) : Bool := decide (3 ≤ r.scope) && decide (r.lanes &&& s.mask ≠ 0#32)
  if s.cw.rel.any ends then
    let rest := (s.cw.rel.map fun r => if 3 ≤ r.scope then { r with lanes := r.lanes &&& ~~~s.mask } else r).filter
      fun r => decide (r.lanes ≠ 0#32)
    ((s.setCw { s.cw with rel := rest }).release 3 true).2
  else s

/-- ICINV (R107): the context's packets in a byte range leave every core's instruction cache, once a release fence right
before it has been completed (R402). A length of 0 has no effect. -/
def execIcinv (h : Hdr) (a b : BitVec 6) (s : State) : Out :=
  if s.taken h ∧ s.rdS b.toNat ≠ 0#64 then
    let ctx := s.myCtx
    let start := (s.rdS a.toNat).toNat
    let len := (s.rdS b.toNat).toNat
    let gone (va : Nat) : Bool := decide (2 ^ 32 ≤ len) || packetIn va start len
    let s := s.completeRelease
    let s := { s with
      cores := s.cores.map fun (e : Nat × Core) =>
        (e.1, { e.2 with icache := e.2.icache.filter fun p => !(p.ctx == ctx && gone p.va) }) }
    .next (s.dropFetched ctx gone)
  else .next s

/-- IFENCE (R107): the warp's own fetched packets that have not issued are dropped. -/
def execIfence (h : Hdr) (s : State) : Out :=
  if s.taken h then
    let clean (m : Micro) : Micro := if m.atBoundary then { m with pkt := [] } else m
    .next (s.setCw { s.cw with ma := clean s.cw.ma, mb := clean s.cw.mb })
  else .next s

/-! ## Job cards (R90 to R92) -/

/-- The region block at a ring position of a launch. -/
def State.ringBlock (s : State) (launch pos : Nat) : Option Nat :=
  (s.blocks.find? fun e => e.2.used && !e.2.replay && e.2.launch == launch && e.2.lin == pos).map (·.1)

/-- The number of blocks of a launch's grid. -/
def LaunchRec.total (r : LaunchRec) : Nat := r.gridX * r.gridY * r.gridZ

/-- The card queue of a ring position of a launch, and the launch with it replaced (R90). -/
def Launch.queueAt (x : Launch) (pos : Nat) : CardQueue := Tab.get {} x.ring pos
def Launch.setQueue (x : Launch) (pos : Nat) (q : CardQueue) : Launch := { x with ring := Tab.put x.ring pos q }

/-- The card queue at a ring position. -/
def State.cardQueue (s : State) (l pos : Nat) : CardQueue := (s.launch l).queueAt pos
def State.setCardQueue (s : State) (l pos : Nat) (q : CardQueue) : State := s.setLaunch l ((s.launch l).setQueue pos q)

/-- The bytes of a card. -/
def cardBytes (c : BitVec 512) : List Byte := leBytes c.toNat 64

/-- The address of a slot of a ring position's card queue (R90; log 32). -/
def State.cardSlot (s : State) (l pos n : Nat) : Nat :=
  let r := (s.launch l).record
  r.cardarea + 64 * (pos * r.cards + n)

/-- The slot, of some, that a queue's next card takes: the next in turn that no card of the queue stands in (log 32). -/
def CardQueue.nextSlot (q : CardQueue) (n : Nat) : Nat :=
  (((List.range n).map fun i => (q.put + i) % n).find? fun k => !q.slots.contains k).getD (q.put % n)

/-- A card enters the queue of a ring position, at the next of its slots in the card area (R90, R91; log 32), whose
piece is copied first where the launch takes snapshots (R409). -/
def State.putCard (s : State) (l pos : Nat) (c : BitVec 512) : State :=
  let q := s.cardQueue l pos
  let k := q.nextSlot (s.launch l).record.cards
  let s := s.snapFor l (s.cardSlot l pos k)
  let s := s.cpWrite (s.launch l).ctx (pagesOf 64) (s.cardSlot l pos k) (cardBytes c)
  s.setCardQueue l pos { s.cardQueue l pos with cards := q.cards ++ [c], slots := q.slots ++ [k], put := q.put + 1 }

/-- The bytes of the i-th card of a queue, as the command processor reads them in its slot (R90, R345; log 32). -/
def State.cardAt (s : State) (l pos i : Nat) : State × List Byte :=
  let q := s.cardQueue l pos
  match s.cpRead (s.launch l).ctx (pagesOf 64) (s.cardSlot l pos (q.slots.getD i 0)) 64 with
  | some r => r
  | none => (s, cardBytes (q.cards.getD i 0))

/-- The ring position a selector names, or none where it traps BOUNDS (R91). A position keeps its queue when its block has
exited. -/
def State.postTarget (s : State) (sel : Nat) : Option Nat :=
  let n := s.myLaunch.record.total
  let b := s.block s.myBlock
  let idx := bits sel 13 8
  let kind := bits sel 2 0
  if sel ≠ idx * 256 + kind then none
  else
    match kind with
    | 0 | 5 => if idx = 0 then some b.lin else none
    | 1 => if idx = 0 then some ((b.lin + 1) % n) else none
    | 2 => if idx = 0 then some ((b.lin + n - 1) % n) else none
    | 3 =>
      if 3 < idx then none
      else ((blockSlotsOf (4 * clusterOf s.here + idx)).find? fun y =>
        (s.block y).used && !(s.block y).replay && decide ((s.block y).launch = b.launch)).map fun y => (s.block y).lin
    | 4 => if idx < n then some idx else none
    | _ => none

/-- The slots that wait in take on a block's queue ahead of one, of which each has a claim to a card (R91). -/
def State.takersAhead (s : State) (b : Nat) (t : Turn) : Nat := ((s.block b).takers.takeWhile fun n => n != t.num).length

/-- A take of the issuing slot on its own block's queue finds a card, behind those of the slots ahead of it, or the
region's end (R91, R92). An audit replay has no queue of its own: its takes find the region's end (log 32). -/
def State.takeOpen (s : State) : Bool :=
  let b := s.block s.myBlock
  decide (s.takersAhead s.myBlock s.cur < (s.cardQueue b.launch b.lin).cards.length) || s.myLaunch.ended || b.replay

/-- A take of the issuing slot on its own block's queue: where a card is left for it, the card is written at the slot's
address and the status is 0; a fault of the write leaves the queue unchanged (R91). -/
def State.takeCard (s : State) (d : Nat) (addr : Word) : Except MemFault State :=
  let b := s.block s.myBlock
  let i := s.takersAhead s.myBlock s.cur
  if (s.cardQueue b.launch b.lin).cards.length ≤ i ∨ b.replay then .ok (s.putS d 2#64)
  else
    let (s, bs) := s.cardAt b.launch b.lin i
    match s.writeUniform addr.toNat bs with
    | .error f => .error f
    | .ok s =>
      let q := s.cardQueue b.launch b.lin
      let s := s.setBlock s.myBlock { s.block s.myBlock with takers := without (s.block s.myBlock).takers s.cur.num }
      .ok (((s.setCardQueue b.launch b.lin { q with cards := q.cards.eraseIdx i, slots := q.slots.eraseIdx i }).acquire 2).putS d 0#64)

/-- A slot that waits in take finds a card or the region's end: alone in its group, it takes the card now; else its group
executes again, and its claim stands (R44, R91, R92; log 53). -/
def State.serveTake (s : State) (t : Turn) : State :=
  let m := (s.warp t.warp).micro t.slotB
  match m.wait with
  | .take d addr =>
    if !m.alone then s.finishWait t .met id
    else
      let back := s.cur
      let s : State := { s with cur := t }
      let s := match s.takeCard d addr with
        | .error f => (s.waitFor .none).memTrap f
        | .ok s => s.finishWait t .met id
      { s with cur := back }
  | _ => s

/-- The first slot that waits in take on a block's queue and finds a card or the region's end. -/
def State.takerServed (s : State) (b : Nat) : Option Turn :=
  ((s.block b).takers.map Turn.ofNum).find? fun t =>
    (match ((s.warp t.warp).micro t.slotB).wait with
     | .take _ _ => true
     | _ => false) && ({ s with cur := t } : State).takeOpen

/-- Cards of a block's queue go to the slots waiting in take, in order of arrival (R91); a region that has ended
answers status 2 (R92). -/
def State.serveTakes : Nat → State → Nat → State
  | 0, s, _ => s
  | n + 1, s, b =>
    match s.takerServed b with
    | none => s
    | some t => State.serveTakes n (s.serveTake t) b

/-- A card that a slot has read enters the queue of a position, as a write of the slot's lanes that ends a release
fence of theirs (R91, R273, R276), and in an audited warp's signature by the address of the queue (R410; log 32). In a
replay no queue changes (R411). -/
def State.queueCard (s : State) (pos : Nat) (bs : List Byte) : State :=
  let s := (s.takeRel s.mask).2
  let x := s.block s.myBlock
  let s := s.sign (s.cardSlot x.launch pos 0) bs
  if x.replay then s
  else
    let s := s.putCard x.launch pos (BitVec.ofNat 512 (leNat bs))
    if pos < x.lin then s.setCardQueue x.launch x.lin { s.cardQueue x.launch x.lin with black := true } else s

/-- POST (R91). -/
def execPost (h : Hdr) (e f g : BitVec 6) (s : State) : Out :=
  if !s.taken h then .next s
  else if !s.myLaunch.record.region then .next (s.trapHere .bounds)
  else
    let sel := (s.rdS g.toNat).toNat
    let a := s.rdS f.toNat
    match s.postTarget sel with
    | none => .next (s.trapHere .bounds)
    | some pos =>
      if a.toNat % 64 ≠ 0 then .next (s.trap .align a)
      else if bits sel 2 0 = 5 then
        let x := s.block s.myBlock
        if !s.takeOpen then
          .next ((s.setBlock s.myBlock { x with takers := addOnce x.takers s.cur.num }).waitFor (.take e.toNat a))
        else
          match s.takeCard e.toNat a with
          | .error f => .next (s.memTrap f)
          | .ok s => .next s
      else
        let s0 := (s.release 2 true).2
        if s.myLaunch.ended then .next (s0.putS e.toNat 2#64)
        else if !(s.block s.myBlock).replay ∧ s.myLaunch.record.cards ≤ (s.myLaunch.queueAt pos).cards.length then
          .next (s0.putS e.toNat 1#64)
        else
          match s0.readUniform a.toNat 64 with
          | .error e => .next (s.memStop e)
          | .ok (s1, bs) =>
            let s1 := (s1.queueCard pos bs).putS e.toNat 0#64
            .next ((s1.ringBlock (s1.block s1.myBlock).launch pos).elim s1 (s1.serveTakes 64))

/-! ## nop and imx (R49, R51) -/

/-- NOP (R51). -/
def execNop (_c : Bool) (s : State) : Out := .next s

/-- IMX: the payload waits for the word it attaches to (R49). -/
def execImx (x : BitVec 18) (s : State) : Out := .next (s.setMic { s.mic with pfx := s.mic.pfx ++ [x] })

end Sys2Proof.Machine
end

