-- ==== Sys2Proof/Machine/MemoryInstr.lean ====
section
/-! DEFINITION. Loads, stores, bypassing loads, the ragged gather and prefetch (spec/12 R258, R269 to R271). -/

namespace Sys2Proof.Machine

/-- The addresses of the active lanes of a format M word, swizzled (R258, R259). -/
def State.addrs (s : State) (h : Hdr) (x : BitVec 6) (k : BitVec 3) (z : Nat) : List (Nat × Nat) :=
  (s.activeLanes h).map fun l => (l, swizzle (s.laneAddr x k l) z)

/-- The bytes of a lane in a list. -/
def bytesAt (r : List (Nat × List Byte)) (l : Nat) : List Byte := ((r.find? fun e => e.1 == l).map (·.2)).getD []

/-- Loaded bytes go to registers d upward, eight to a register, a shorter load being zero-extended (R258). -/
def State.putBytes (s : State) (d count : Nat) (r : List (Nat × List Byte)) : State :=
  (List.range count).foldl (fun s i =>
    s.putV (d + i) (fun l => r.any fun e => e.1 == l) fun l =>
      BitVec.ofNat 64 (leNat (((bytesAt r l).drop (8 * i)).take 8))) s

/-- Bytes a lane accesses, by the width code (R258). -/
def widthBytes (w : BitVec 2) : Nat := 4 * 2 ^ w.toNat
/-- Registers an access covers (R258). -/
def widthRegs (w : BitVec 2) : Nat := if w.toNat < 2 then 1 else if w.toNat = 2 then 2 else 4

/-- A lane-wise load (R258). -/
def State.load (s : State) (h : Hdr) (sp : Space) (w : BitVec 2) (d x : BitVec 6) (z : Nat) (k : BitVec 3) : Out :=
  let n := widthBytes w
  match s.loadLanes sp n n true (s.addrs h x k z) with
  | .error e => .next (s.memStop e)
  | .ok (s, r) => .next (s.putBytes d.toNat (widthRegs w) r)

/-- The bytes a lane stores (R258). -/
def State.laneBytes (s : State) (d n l : Nat) : List Byte :=
  if n = 4 then leBytes (s.rdV d l).toNat 4
  else (List.range (n / 8)).flatMap fun i => leBytes (s.rdV (d + i) l).toNat 8

/-- A lane-wise store (R258). -/
def State.store (s : State) (h : Hdr) (sp : Space) (w : BitVec 2) (d x : BitVec 6) (z : Nat) (k : BitVec 3) : Out :=
  let n := widthBytes w
  let as := s.addrs h x k z
  match s.checkLanes sp .write n n as with
  | .error f => .next (s.memTrap f)
  | .ok (t, qs) => .next (t.writeLanes sp as qs (s.laneBytes d.toNat n))

/-- LDL (R258). -/
def execLdl (h : Hdr) (w : BitVec 2) (d x : BitVec 6) (z k : BitVec 3) (s : State) : Out := s.load h .l w d x z.toNat k
/-- LDC (R258, R261). -/
def execLdc (h : Hdr) (w : BitVec 2) (d x : BitVec 6) (z k : BitVec 3) (s : State) : Out := s.load h .c w d x z.toNat k
/-- LDK (R258, R262). -/
def execLdk (h : Hdr) (w : BitVec 2) (d x : BitVec 6) (k : BitVec 3) (s : State) : Out := s.load h .k w d x 0 k
/-- LDG (R258, R264). -/
def execLdg (h : Hdr) (w : BitVec 2) (d x : BitVec 6) (k : BitVec 3) (s : State) : Out := s.load h .g w d x 0 k
/-- STL (R258). -/
def execStl (h : Hdr) (w : BitVec 2) (d x : BitVec 6) (z k : BitVec 3) (s : State) : Out := s.store h .l w d x z.toNat k
/-- STC (R258, R261). -/
def execStc (h : Hdr) (w : BitVec 2) (d x : BitVec 6) (z k : BitVec 3) (s : State) : Out := s.store h .c w d x z.toNat k
/-- STK (R258, R262). -/
def execStk (h : Hdr) (w : BitVec 2) (d x : BitVec 6) (k : BitVec 3) (s : State) : Out := s.store h .k w d x 0 k
/-- STG (R258, R264). -/
def execStg (h : Hdr) (w : BitVec 2) (d x : BitVec 6) (k : BitVec 3) (s : State) : Out := s.store h .g w d x 0 k

/-- A load at the home slice (R269). -/
def State.loadHome (s : State) (h : Hdr) (n : Nat) (d x : BitVec 6) (k : BitVec 3) : Out :=
  match s.loadLanes .g n n false (s.addrs h x k 0) with
  | .error e => .next (s.memStop e)
  | .ok (s, r) => .next (s.putBytes d.toNat (n / 8) r)

/-- LDB_D (R269). -/
def execLdbD (h : Hdr) (d x : BitVec 6) (k : BitVec 3) (s : State) : Out := s.loadHome h 8 d x k
/-- LDB_Q (R269). -/
def execLdbQ (h : Hdr) (d x : BitVec 6) (k : BitVec 3) (s : State) : Out := s.loadHome h 16 d x k

/-! ## ldrag (R270) -/

/-- The table entry of a lane: base, length and the bits that must be zero. -/
def rowBase (bs : List Byte) : Nat := leNat (bs.take 8)
def rowLen (bs : List Byte) : Nat := leNat ((bs.drop 8).take 4)
def rowHigh (bs : List Byte) : Nat := leNat ((bs.drop 12).take 4)

/-- The segment-head mask: lanes inside their row whose nearest such lane below has another key. -/
def headMask (ins : List (Nat × Nat)) : Nat :=
  bitSum (fun l =>
    match ins.find? fun e => e.1 == l with
    | none => false
    | some e =>
      match (ins.filter fun q => decide (q.1 < l)).getLast? with
      | none => true
      | some q => q.2 != e.2) 32

/-- LDRAG (R270). -/
def execLdrag (h : Hdr) (d x : BitVec 6) (z k : BitVec 3) (s : State) : Out :=
  let nb := 2 ^ z.toNat
  let ls := s.activeLanes h
  let row (l : Nat) : Nat := elem (s.rdV x.toNat l) 32 0
  let col (l : Nat) : Nat := elem (s.rdV x.toNat l) 32 1
  let entryOf (l : Nat) : Nat := (s.rdS (48 + k.toNat) + wordOfInt s.off + BitVec.ofNat 64 (16 * row l)).toNat
  match s.loadLanes .g 16 16 true (ls.map fun l => (l, entryOf l)) with
  | .error e => .next (s.memStop e)
  | .ok (s1, es) =>
    match es.find? fun e => rowHigh e.2 != 0 with
    | some e => .next (s.memTrap ⟨.bounds, entryOf e.1, 0#16⟩)
    | none =>
      let inside := ls.filter fun l => decide (col l < rowLen (bytesAt es l))
      let as := inside.map fun l => (l, (rowBase (bytesAt es l) + nb * col l) % 2 ^ 64)
      match s1.loadLanes .g nb nb true as with
      | .error e => .next (s.memStop e)
      | .ok (s2, r) =>
        let head := headMask (inside.map fun l => (l, row l))
        let key (l : Nat) : Nat := if inside.contains l then row l else 0xFFFFFFFF
        let s3 := s2.putV d.toNat (s.active h) fun l => BitVec.ofNat 64 (leNat (bytesAt r l))
        .next (s3.putV (d.toNat + 1) (s.active h) fun l => BitVec.ofNat 64 (key l + head * 2 ^ 32))

/-! ## prf (R271) -/

/-- A read of a line sets out to its home, to fill a core's L1, where it is protected for an urgent warp (R112). -/
def State.requestLine (s : State) (core line : Nat) : State :=
  let guard := if s.urgent s.cur.warp then some s.toucher else none
  ({ s with flights := s.flights ++ [{ line := line, core := core, fill := true, guard := guard }] } : State).later
    (.homeRead core line)

/-- A read of a line for a core is in flight. -/
def State.inFlight (s : State) (core line : Nat) : Bool := s.flights.any fun f => f.line == line && f.core == core

/-- The line of a prefetch is at its target already: on its way into the L1 or whole in it (R264), or with a tag in its
slice; what the slices of another device hold is not this module's, and the choice is free (R266, R271; log 10). -/
def State.prefetched (s : State) (target line draw : Nat) : Bool :=
  if target = 0 then s.inFlight s.here line || (s.core s.here).hits (128 * line) 128
  else if 2 ^ 57 ≤ line then Config.choice draw 1
  else (s.l2Find line).isSome

/-- One line of a prefetch (R271, R272): it is dropped where its translation fails, where the line is there already
or where the request queue is full, which is a free choice (log 10). A line for the L2 alone becomes the most recently
used of its set, or the first to be replaced. A device that no route reaches sends no line (R375). -/
def State.prefetch (s : State) (target va : Nat) : State :=
  let count (s : State) (code : Nat) : State := s.setCore s.here ((s.core s.here).addCount code 1)
  match s.translate s.here s.myCtx va .read with
  | .bad _ _ => count s 0x71
  | .ok s e =>
    let line := lineOf (e.phys va)
    let (i, s) := s.draw
    if s.prefetched target line i ∨ Config.choice i 0 then count s 0x71
    else
      let s := count s 0x70
      if s.unreachable (e.phys va) then s
      else if target = 0 then s.requestLine s.here line
      else s.l2Use line false (target == 2)

/-- PRF (R271): lines of the lanes are requested, each once; target 0 fills the core's L1, the others stay in the L2. -/
def execPrf (h : Hdr) (t : BitVec 4) (g : BitVec 2) (x : BitVec 6) (k : BitVec 3) (s : State) : Out :=
  let lines := (s.addrs h x k 0).flatMap fun a =>
    (List.range (t.toNat + 1)).map fun i => (a.2 / 128 * 128 + 128 * i) % 2 ^ 64
  .next (lines.eraseDups.foldl (fun s va => s.prefetch g.toNat va) s)

end Sys2Proof.Machine
end

