-- ==== Sys2Proof/Machine/Atomics.lean ====
section
/-! DEFINITION. Atomics, reductions and fences (spec/13 R292 to R302). -/

namespace Sys2Proof.Machine

/-- The attributes of an atomic's prefix (R50). -/
structure Attr where
  hold : Bool
  order : Nat
  scope : Nat
  width : Nat
  op : Nat
  deriving DecidableEq, Repr

/-- The fields of an attribute payload (R50). -/
def attrOf (p : BitVec 18) : Attr :=
  let n := p.toNat
  { hold := bits n 11 11 == 1, order := bits n 10 9, scope := bits n 8 6, width := bits n 5 4, op := bits n 3 0 }

/-- The attributes of the issuing word. -/
def State.attr (s : State) : Attr := attrOf (s.mic.pfx.headD 0#18)

/-- Bytes of the accessed word (R294). -/
def Attr.bytes (t : Attr) : Nat := if t.width = 0 then 4 else 8
/-- The order releases, and acquires (R50). -/
def Attr.releases (t : Attr) : Bool := decide (2 ≤ t.order)
def Attr.acquires (t : Attr) : Bool := t.order % 2 == 1

/-- The operand v, and for cas the compared e and the new n, of a lane (R294). -/
structure Operand where
  v : Nat
  e : Nat := 0
  n : Nat := 0
  deriving DecidableEq, Repr

def State.operand (s : State) (t : Attr) (d l : Nat) : Operand :=
  let x := s.rdV d l
  if t.op = 9 then
    if t.width = 0 then { v := 0, e := elem x 32 0, n := elem x 32 1 }
    else { v := 0, e := x.toNat, n := (s.rdV (d + 1) l).toNat }
  else { v := if t.width = 0 then elem x 32 0 else x.toNat }

/-- A batch over a word (R295): the old value each operand meets, and the word's last value. -/
def batch (op w : Nat) : Nat → List Operand → List Nat × Nat
  | m, [] => ([], m)
  | m, o :: os =>
    let r := batch op w (combine op w m o.v o.e o.n) os
    (m :: r.1, r.2)

/-- The addresses of the active lanes of an atomic (R295): its prefix carries no offset. -/
def State.atomAddrs (s : State) (h : Hdr) (x : BitVec 6) (k : BitVec 3) (z : Nat) : List (Nat × Nat) :=
  (s.activeLanes h).map fun l =>
    (l, swizzle (s.rdS (48 + k.toNat) + wordOfInt (sextNat (elem (s.rdV x.toNat l) 32 0) 32)).toNat z)

/-- The word at a place as its executing unit holds it, an open read window closed first (R290, R297). -/
def State.atomRead (s : State) (n : Nat) (q : Place) : State × List Byte × Option Nat := s.readHome n q

/-- The word at a place written by its executing unit, with the record of a release (R284); an audit replay performs
no write to G (R411). -/
def State.atomWrite (s : State) (rec : Option Nat) (bs : List Byte) : Place → State
  | .global p => if (s.block s.myBlock).replay then s else (s.recordAt p rec).homeWrite p bs
  | q => s.writePlace none q bs

/-- The signature of an audited warp takes a reduction as (address, op, operand) (R410; log 22). -/
def State.signOp (s : State) (a op v : Nat) : State :=
  if s.myLaunch.record.audit then
    s.setCw { s.cw with sig := (leBytes a 8 ++ leBytes op 1 ++ leBytes v 8).foldl crcByte s.cw.sig }
  else s

/-- The release part of an atomic (R284, R288, R295): pending fences of its lanes, and the word's own order. The answer
gives the lanes whose write is a release write of `.cls` scope or wider, each with its record. -/
def State.atomRelease (s : State) (t : Attr) (sp : Space) (ls : W32) : List Through × State :=
  let (ts, s) := s.beginRelease (sp == .g) ls
  if t.releases then
    let (e, s) := s.release t.scope (sp != .g)
    (if sp = .g ∧ t.scope ≠ 0 then ⟨ls, e⟩ :: ts else ts, s)
  else (ts, s)

/-- The record that the write of some lanes carries, the last one made. -/
def recordOf (ts : List Through) (ls : List Nat) : Option Nat :=
  ((ts.filter fun t => ls.any t.lanes.getLsbD).filterMap (·.entry)).max?

/-- The batches of an atomic, one for each distinct address (R295). The answer gives each lane its old value. -/
def State.batches (s : State) (t : Attr) (d : Nat) (ts : List Through) (as : List (Nat × Nat))
    (qs : List (Nat × Place)) : State × List (Nat × Nat) :=
  ((as.map (·.2)).eraseDups).foldl (fun (acc : State × List (Nat × Nat)) A =>
    let ls := (as.filter fun a => a.2 == A).map (·.1)
    match qs.find? fun q => ls.contains q.1 with
    | none => acc
    | some q =>
      let (s', bs, _) := acc.1.atomRead t.bytes q.2
      let r := batch t.op (8 * t.bytes) (leNat bs) (ls.map (s.operand t d))
      (s'.atomWrite (recordOf ts ls) (leBytes r.2 t.bytes) q.2, acc.2 ++ ls.zip r.1)) (s, [])

/-- The first lane whose batch would read a poisoned word (R296). -/
def State.batchPoison (s : State) (t : Attr) (qs : List (Nat × Place)) : Option Nat :=
  (qs.find? fun q => (s.atomRead t.bytes q.2).2.2.isSome).map (·.1)

/-- Locks that a release of the warp names leave its hold set (R119). -/
def State.unhold (s : State) (as : List (Nat × Nat)) : State :=
  let w := s.cw
  let rest := w.holds.filter fun a => !(as.any fun e => e.2 == a.toNat)
  if rest.length = w.holds.length then s else (s.setCw { w with holds := rest }).untrigger s.cur.warp

/-- The hold hint counts for the lowest lane that took its lock (R119). -/
def State.hold (s : State) (a : Nat) : State :=
  let w := s.cw
  if BitVec.ofNat 64 a ∈ w.holds ∨ 4 ≤ w.holds.length then s
  else
    let s := s.setCw { w with holds := w.holds ++ [BitVec.ofNat 64 a] }
    if w.holds.isEmpty ∧ s.promotable s.cur.warp then s.raise s.cur.warp 1 else s

/-- A value-returning atomic (R295 to R297, R119). A batch with a poisoned word traps before any batch is applied
(R296; log 12). An audited warp's signature takes each lane's write (R410). -/
def State.atomic (s : State) (h : Hdr) (sp : Space) (d x : BitVec 6) (z : Nat) (k : BitVec 3) : Out :=
  let t := s.attr
  let as := s.atomAddrs h x k z
  match s.checkLanes sp .atomic t.bytes t.bytes as with
  | .error f => .next (s.memTrap f)
  | .ok (s1, qs) =>
    match qs.find? fun q => s1.cutOff false t.bytes q.2, qs.findSome? fun q => s1.waitsChannel false t.bytes q.2,
        s1.batchPoison t qs with
    | some q, _, _ => .next (s.memStop (.remote (addrOf as q.1)))
    | none, some c, _ => .next (s.memStop (.dram c))
    | none, none, some l => .next (s.memTrap ⟨.poison, addrOf as l, 0#16⟩)
    | none, none, none =>
      if as.isEmpty then .next s
      else
        let (ts, s2) := s1.atomRelease t sp (maskOf (qs.map (·.1)))
        let s2 := if t.releases then s2.unhold as else s2
        let (s3, old) := s2.batches t d.toNat ts as qs
        let wrote (l : Nat) : Nat :=
          let o := s.operand t d.toNat l
          combine t.op (8 * t.bytes) (addrOf old l) o.v o.e o.n
        let s3 := if sp = .g then as.foldl (fun s a => s.sign a.2 (leBytes (wrote a.1) t.bytes)) s3 else s3
        let won := old.filter fun e => t.op != 9 || e.2 == (s.operand t d.toNat e.1).e
        let low : Option Nat := leastBy id (won.map (·.1))
        let s4 := match t.hold, low with
          | true, some l => s3.hold (addrOf as l)
          | _, _ => s3
        let s5 := s4.putV d.toNat (fun l => old.any fun (e : Nat × Nat) => e.1 == l) fun l =>
          BitVec.ofNat 64 (addrOf old l)
        .next (if t.acquires then s5.acquire t.scope else s5)

/-- ATOMG (R292, R295). -/
def execAtomg (h : Hdr) (d x : BitVec 6) (k : BitVec 3) (s : State) : Out := s.atomic h .g d x 0 k
/-- ATOML (R292, R295). -/
def execAtoml (h : Hdr) (d x : BitVec 6) (z k : BitVec 3) (s : State) : Out := s.atomic h .l d x z.toNat k
/-- ATOMC (R292, R295). -/
def execAtomc (h : Hdr) (d x : BitVec 6) (z k : BitVec 3) (s : State) : Out := s.atomic h .c d x z.toNat k

/-! ## Reductions (R298, R299) -/

/-- A partial set takes an operand at an offset, in the order the operands come (R298). -/
def Partials.take (x : Partials) (off v : Nat) : Partials :=
  let w := if x.wide then 64 else 32
  let old := x.words.find? fun e => e.1 == off
  let r := match old with
    | none => v
    | some e => combine x.op.toNat w e.2.toNat v 0 0
  { x with words := Tab.put x.words off (BitVec.ofNat 64 r) }

/-- A core registers at a line's home and holds the line in state A (R298): a line held with another op or width goes
home first, other operations' holders and, of eight, the oldest are recalled, and the core's plain copy leaves its L1. -/
def State.openPartials (s : State) (core line : Nat) (op : BitVec 4) (wide : Bool) : State :=
  let mine := (s.core core).acc.find? fun x => x.place == line
  if mine.any fun x => x.op == op && x.wide == wide then s
  else
    let s := s.sendPartials core line
    let s := s.writeBack core fun l => l.line == line
    let s := s.setCore core ((s.core core).keepL1 ((s.core core).l1.filter fun l => !(l.line == line)))
    let s := s.closeWindow line
    let others := Tab.get [] s.holders line
    let differs := others.any fun c =>
      ((s.core c).acc.find? fun x => x.place == line).any fun x => x.op != op || x.wide != wide
    let s := if differs then s.recallLine line
      else if 8 ≤ others.length then others.head?.elim s fun c => (s.pullRecord line).dropPartials c line
      else s
    let (way, s) := s.allocWay core line
    let c := s.core core
    let s := s.setCore core { c with acc := c.acc ++ [{ place := line, op := op, wide := wide, way := way }] }
    { s with holders := Tab.put s.holders line (Tab.get [] s.holders line ++ [core]) }

/-- One lane's operand enters the core's partials of its line. -/
def State.gather (s : State) (core p : Nat) (op : BitVec 4) (wide : Bool) (v : Nat) : State :=
  let line := lineOf p
  let s := s.openPartials core line op wide
  let c := s.core core
  s.setCore core
    ({ c with acc := c.acc.map fun (x : Partials) => if x.place = line then x.take (p % 128) v else x }.touch line)

/-- A core registers a segment of cluster memory at its target and holds it in its reduction buffer (R299): the
buffer's and the table's oldest entries make room. -/
def State.openSegment (s : State) (core seg : Nat) (op : BitVec 4) (wide : Bool) : State :=
  let mine := (s.core core).redBuf.find? fun x => x.place == seg
  if mine.any fun x => x.op == op && x.wide == wide then s
  else
    let s := s.leaveSegment core seg
    let s := if 8 ≤ (s.core core).redBuf.length then
        (s.core core).redBuf.head?.elim s fun x => s.leaveSegment core x.place else s
    let t := coreOfBlock (seg / 2 ^ 21)
    let others := Tab.get [] (s.core t).redHolders seg
    let differs := others.any fun c =>
      ((s.core c).redBuf.find? fun x => x.place == seg).any fun x => x.op != op || x.wide != wide
    let s := if differs then s.recallSegment seg
      else if 8 ≤ others.length then others.head?.elim s fun c => s.leaveSegment c seg
      else s
    let s := if (s.core t).redHolders.any fun e => e.1 == seg then s
      else if 16 ≤ (s.core t).redHolders.length then
        (s.core t).redHolders.head?.elim s fun e => s.recallSegment e.1
      else s
    let c := s.core core
    let s := s.setCore core { c with redBuf := c.redBuf ++ [{ place := seg, op := op, wide := wide }] }
    let r := (s.core t).redHolders
    let r := if r.any fun e => e.1 == seg then r.map fun (e : Nat × List Nat) =>
        if e.1 = seg then (e.1, e.2 ++ [core]) else e
      else r ++ [(seg, [core])]
    s.setCore t { s.core t with redHolders := r }

/-- One lane's operand enters the core's reduction buffer. -/
def State.gatherSegment (s : State) (core block off : Nat) (op : BitVec 4) (wide : Bool) (v : Nat) : State :=
  let seg := scratchKey block (off / 64 * 64)
  let s := s.openSegment core seg op wide
  let c := s.core core
  s.setCore core { c with redBuf := c.redBuf.map fun x => if x.place = seg then x.take (off % 64) v else x }

/-- One lane's operand of a reduction that is a release write, applied where the word lies (R284): a poisoned word
stays poisoned (R296). -/
def State.reduceAt (s : State) (t : Attr) (rec : Option Nat) (q : Place) (v : Nat) : State :=
  let (s1, bs, bad) := s.atomRead t.bytes q
  let s2 := s1.atomWrite rec (leBytes (combine t.op (8 * t.bytes) (leNat bs) v 0 0) t.bytes) q
  match bad, q with
  | some _, .global _ => { s2 with poison := s1.poison }
  | some _, .scratch b _ => s2.setBlock b { s2.block b with poison := (s1.block b).poison }
  | _, _ => s2

/-- One lane's operand of a reduction at its place, gathered in the core; without an L1 way there is
none to gather it in, and it is applied at the home (R134, R298). -/
def State.gatherAt (s : State) (t : Attr) (q : Place) (v : Nat) : State :=
  match q with
  | .global p =>
    if (s.block s.myBlock).replay then s
    else if (s.core s.here).noWays then s.reduceAt t none q v
    else s.gather s.here p (BitVec.ofNat 4 t.op) (decide (t.width ≠ 0)) v
  | .scratch b o => s.gatherSegment s.here b o (BitVec.ofNat 4 t.op) (decide (t.width ≠ 0)) v
  | .stack _ _ => s

/-- A reduction (R295, R298, R299): no register is written and poison does not trap. -/
def State.reduce (s : State) (h : Hdr) (sp : Space) (d x : BitVec 6) (z : Nat) (k : BitVec 3) : Out :=
  let t := s.attr
  let as := s.atomAddrs h x k z
  match s.checkLanes sp .atomic t.bytes t.bytes as with
  | .error f => .next (s.memTrap f)
  | .ok (s1, qs) =>
    if as.isEmpty then .next s
    else
      let (ts, s2) := s1.atomRelease t sp (maskOf (qs.map (·.1)))
      let v (l : Nat) : Nat := (s.operand t d.toNat l).v
      let s2 := if sp = .g then as.foldl (fun s a => s.signOp a.2 t.op (v a.1)) s2 else s2
      .next (qs.foldl (fun s q =>
        if (throughOf ts q.1).isSome then s.reduceAt t (recordOf ts [q.1]) q.2 (v q.1)
        else s.gatherAt t q.2 (v q.1)) s2)

/-- REDG (R298). -/
def execRedg (h : Hdr) (d x : BitVec 6) (k : BitVec 3) (s : State) : Out := s.reduce h .g d x 0 k
/-- REDC (R299). -/
def execRedc (h : Hdr) (d x : BitVec 6) (z k : BitVec 3) (s : State) : Out := s.reduce h .c d x z.toNat k

/-! ## Fences (R300 to R302) -/

/-- The next write of each lane of the slot's mask becomes its release write (R276, R301). A lane for which a fence stands
already keeps the wider scope, and writes back eagerly if either fence does (log 36). -/
def State.armRelease (s : State) (scope : Nat) (eager : Bool) : State :=
  let old := s.cw.rel.flatMap fun r =>
    [{ r with lanes := r.lanes &&& ~~~s.mask },
     { scope := max r.scope scope, lanes := r.lanes &&& s.mask, eager := r.eager || eager : RelPend }]
  let fresh : RelPend :=
    { scope := scope, eager := eager, lanes := s.cw.rel.foldl (fun m r => m &&& ~~~r.lanes) s.mask }
  s.setCw { s.cw with rel := (old ++ [fresh]).filter fun r => decide (r.lanes ≠ 0#32) }

/-- FENCE_ACQ (R301). -/
def execFenceAcq (h : Hdr) (sc : BitVec 3) (s : State) : Out :=
  if s.taken h then .next (s.acquire sc.toNat) else .next s

/-- FENCE_REL (R301). -/
def execFenceRel (h : Hdr) (sc : BitVec 3) (s : State) : Out :=
  if s.taken h then .next (s.armRelease sc.toNat false) else .next s

/-- FENCE_AR (R301). -/
def execFenceAr (h : Hdr) (sc : BitVec 3) (s : State) : Out :=
  if s.taken h then .next ((s.acquire sc.toNat).armRelease sc.toNat false) else .next s

/-- FENCE_SC (R288, R301): every dirty line and every partial result of the core goes home, and its release is eager.
Its clean bytes are invalidated at every scope, since the fence orders the thread's accesses across classes at every
scope (R282; log 28). -/
def execFenceSc (h : Hdr) (sc : BitVec 3) (s : State) : Out :=
  if s.taken h then .next (((s.flushCore s.here).invalidateClean s.here).armRelease sc.toNat true) else .next s

end Sys2Proof.Machine
end

