-- ==== Sys2Proof/Machine/Flags.lean ====
section
/-! DEFINITION. The conditions that compares test and the predicates they write (spec/02 R46, spec/08 R170, R181).
The machine has no flags register: a compare writes one predicate bit per lane. -/

namespace Sys2Proof.Machine

/-- The conditions of scmp and scmpi on two words (R170). -/
def scalarCond (q : Nat) (a b : Word) : Bool :=
  match q with
  | 0 => a == b
  | 1 => a != b
  | 2 => a.slt b
  | 3 => a.sle b
  | 4 => b.slt a
  | 5 => b.sle a
  | 6 => a.ult b
  | _ => b.ule a

/-- A condition on an order, which is none where an operand is NaN or NaR (R181). -/
def orderCond (q : Nat) (o : Option Ordering) : Bool :=
  match o with
  | none => q == 1 || q == 6
  | some o =>
    match q with
    | 0 => o == .eq
    | 1 => o != .eq
    | 2 => o == .lt
    | 3 => o != .gt
    | 4 => o == .gt
    | 5 => o != .lt
    | 6 => false
    | _ => true

/-- The integer an element of an integer kind holds (R148). -/
def intVal (f : Nf) (x : Nat) : Int := if f.kind = 0 then sextNat x f.width else (x % 2 ^ f.width : Nat)

/-- The condition of cmp on two elements (R181). -/
def elemCond (f : Nf) (q x y : Nat) : Bool :=
  if f.isInt then orderCond q (some (compare (intVal f x) (intVal f y)))
  else orderCond q ((decodeElem f x).cmp (decodeElem f y))

end Sys2Proof.Machine
end

