-- ==== Sys2Proof/Machine/Operands.lean ====
section
/-! DEFINITION. How vector words read and write the elements of their registers (spec/07 R159, spec/08 R174, R175),
and the operation each typed instruction applies to one element (R176 to R180, R163 to R166). -/

namespace Sys2Proof.Machine

/-- The word whose sub-element k of width c is g k, for k below n. -/
def packElems (c : Nat) (g : Nat → Nat) : Nat → Nat
  | 0 => 0
  | n + 1 => packElems c g n + (g n % 2 ^ c) * 2 ^ (c * n)

/-- A lane built from its elements in containers of width c (R23, R159). -/
def laneOf (c : Nat) (g : Nat → Nat) : Word := BitVec.ofNat 64 (packElems c g (64 / c))

/-- An element of a register of the warp under a descriptor: the high bits of a 6-bit container are ignored (R159). -/
def elemOf (f : Nf) (x : Word) (k : Nat) : Nat := elem x f.cont k % 2 ^ f.width

/-! ## Which descriptors an instruction accepts (R175) -/

/-- Every kind but scale-only. -/
def acceptsArith (f : Nf) : Bool := decide (f.kind ≤ 3)
/-- Integer kinds only. -/
def acceptsInt (f : Nf) : Bool := f.isInt
/-- dp4: width 8, or kind 2 with width 6. -/
def acceptsDp4 (f : Nf) : Bool := decide (f.kind ≤ 3) && (f.width == 8 || (f.kind == 2 && f.width == 6))
/-- Special functions: minifloats and the tapered kind. -/
def acceptsFloat (f : Nf) : Bool := f.kind == 2 || f.kind == 3

/-! ## Operations on one element (R176 to R179) -/

def addElem (f : Nf) (x y _z : Nat) : Nat :=
  if f.isInt then roundInt f (intVal f x + intVal f y)
  else roundVal f (sumVals f.rnd [decodeElem f x, decodeElem f y])

def subElem (f : Nf) (x y _z : Nat) : Nat :=
  if f.isInt then roundInt f (intVal f x - intVal f y)
  else roundVal f (sumVals f.rnd [decodeElem f x, (decodeElem f y).neg])

def mulElem (f : Nf) (x y _z : Nat) : Nat :=
  if f.isInt then roundInt f (intVal f x * intVal f y)
  else roundVal f ((decodeElem f x).mul (decodeElem f y))

def fmaElem (f : Nf) (x y z : Nat) : Nat :=
  if f.isInt then roundInt f (intVal f z + intVal f x * intVal f y)
  else roundVal f (sumVals f.rnd [decodeElem f z, (decodeElem f x).mul (decodeElem f y)])

def minElem (f : Nf) (x y _z : Nat) : Nat :=
  if f.isInt then roundInt f (min (intVal f x) (intVal f y))
  else roundSel f ((decodeElem f x).min (decodeElem f y))

def maxElem (f : Nf) (x y _z : Nat) : Nat :=
  if f.isInt then roundInt f (max (intVal f x) (intVal f y))
  else roundSel f ((decodeElem f x).max (decodeElem f y))

/-- `amin`: z passes unchanged where it is selected, at equality included; the sum is rounded (R177). -/
def aminElem (f : Nf) (x y z : Nat) : Nat :=
  if f.isInt then roundInt f (min (intVal f z) (intVal f x + intVal f y))
  else
    let v := decodeElem f z
    let u := sumVals f.rnd [decodeElem f x, decodeElem f y]
    if v.isNan || u.isNan then roundVal f .nan else if u.cmpTotal v = .lt then roundVal f u else roundSel f v

def amaxElem (f : Nf) (x y z : Nat) : Nat :=
  if f.isInt then roundInt f (max (intVal f z) (intVal f x + intVal f y))
  else
    let v := decodeElem f z
    let u := sumVals f.rnd [decodeElem f x, decodeElem f y]
    if v.isNan || u.isNan then roundVal f .nan else if v.cmpTotal u = .lt then roundVal f u else roundSel f v

def clampElem (f : Nf) (x y z : Nat) : Nat :=
  if f.isInt then roundInt f (min (max (intVal f z) (intVal f x)) (intVal f y))
  else roundSel f (((decodeElem f z).max (decodeElem f x)).min (decodeElem f y))

def absElem (f : Nf) (x _y _z : Nat) : Nat :=
  if f.isInt then roundInt f ((intVal f x).natAbs : Int) else roundSel f (decodeElem f x).abs

def negElem (f : Nf) (x _y _z : Nat) : Nat :=
  if f.isInt then roundInt f (0 - intVal f x) else roundSel f (decodeElem f x).neg

/-- A value rounded to an integral value; zeros and infinities are unchanged, and a zero keeps its sign (R178). -/
def Val.integral (mode : Nat) : Val → Val
  | .fin s m e => .fin s (rndAt m e 0 mode s) 0
  | v => v

def rintElem (f : Nf) (x _y _z : Nat) : Nat :=
  if f.isInt then roundInt f (intVal f x) else roundSel f ((decodeElem f x).integral f.rnd)

def mulhElem (f : Nf) (x y _z : Nat) : Nat := intCode f.width (intVal f x * intVal f y / 2 ^ f.width)

/-- `shl`; a count of the width or more gives 0, or the end of the range under sat (R179). -/
def shlElem (f : Nf) (x y _z : Nat) : Nat :=
  let t := y % 2 ^ f.width
  roundInt f (intVal f x * 2 ^ (min t f.width))

def shrElem (f : Nf) (x y _z : Nat) : Nat :=
  let t := y % 2 ^ f.width
  intCode f.width (intVal f x / 2 ^ (min t f.width))

/-- `dp4` on one 32-bit half h of a lane (R180). The old half is read by `decodeElem` like every fp32
operand, so a subnormal old half is flushed on reading when NF[i].ftz = 1. DESIGN CHOICE, unsafe
(log 54): R180 names ftz only for the rounding. -/
def dp4Half (f : Nf) (x y z : Word) (h : Nat) : Nat :=
  let ex (j : Nat) : Nat := elem x 8 (4 * h + j) % 2 ^ f.width
  let ey (j : Nat) : Nat := elem y 8 (4 * h + j) % 2 ^ f.width
  let old := elem z 32 h
  if f.isInt then
    let g := { f with width := 32 }
    roundInt g (intVal g old + ((List.range 4).map fun j => intVal f (ex j) * intVal f (ey j)).sum)
  else
    let g := { fp32 with rnd := f.rnd, sat := f.sat, ftz := f.ftz }
    roundVal g (sumVals f.rnd
      (decodeElem g old :: (List.range 4).map fun j => (decodeElem f (ex j)).mul (decodeElem f (ey j))))

/-! ## Conversion (R163 to R166) -/

/-- An element converted from one descriptor to another; equal descriptors copy it unchanged. -/
def convElem (src dst : Word) (x : Nat) : Nat :=
  let a := nfOf src
  let b := nfOf dst
  if src = dst then x % 2 ^ a.width
  else if a.isInt && b.isInt then roundInt b (intVal a x)
  else roundVal b (decodeElem a x)

/-- cvt's ratio of containers (R184). -/
def cvtRatio (a b : Nf) : Nat := max a.cont b.cont / min a.cont b.cont

/-- cvt on one lane: part q of the wider register against the whole of the narrower (R184). -/
def cvtLane (src dst : Word) (q : Nat) (old x : Word) : Word :=
  let a := nfOf src
  let b := nfOf dst
  if b.cont < a.cont then
    let n := 64 / a.cont
    laneOf b.cont fun k =>
      if q * n ≤ k ∧ k < q * n + n then convElem src dst (elem x a.cont (k - q * n)) else elem old b.cont k
  else
    let n := 64 / b.cont
    laneOf b.cont fun k => convElem src dst (elem x a.cont (q * n + k))

/-! ## The shape of a typed instruction (R174) -/

/-- The lane a typed instruction writes: every element of its registers under the descriptor. -/
def typedLane (f : Nf) (op : Nat → Nat → Nat → Nat) (x y z : Word) : Word :=
  laneOf f.cont fun k => op (elemOf f x k) (elemOf f y k) (elemOf f z k)

end Sys2Proof.Machine
end

