-- ==== Sys2Proof/Machine/Scalar.lean ====
section
/-! DEFINITION. Scalar instructions (spec/08 R167 to R173): uniform, on 64-bit words, wrapping modulo 2^64. -/

namespace Sys2Proof.Machine

/-- A scalar instruction writes `S[d]` once per warp where it takes effect (R40, R167). -/
def State.scalar (s : State) (h : Hdr) (d : BitVec 6) (x : Word) : Host.Outcome State Fault Refusal :=
  if s.taken h then .next (s.putS d.toNat x) else .next s

/-- The leading zero bits of a number of w bits. -/
def leadingZeros (w x : Nat) : Nat := if x = 0 then w else w - 1 - Nat.log2 x

/-- The set bits of a number of w bits. -/
def popCount (w x : Nat) : Nat := ((List.range w).filter x.testBit).length

/-- Shifts whose count is the whole unsigned word: zero for counts of 64 or more (R168). -/
def shiftLeft64 (x y : Word) : Word := if 64 ≤ y.toNat then 0#64 else x <<< y.toNat
def shiftRight64 (x y : Word) : Word := if 64 ≤ y.toNat then 0#64 else x >>> y.toNat

/-- SADD (R168). -/
def execSadd (h : Hdr) (d a b : BitVec 6) (s : State) : Host.Outcome State Fault Refusal :=
  s.scalar h d (s.rdS a.toNat + s.rdS b.toNat)

/-- SSUB (R168). -/
def execSsub (h : Hdr) (d a b : BitVec 6) (s : State) : Host.Outcome State Fault Refusal :=
  s.scalar h d (s.rdS a.toNat - s.rdS b.toNat)

/-- SMUL (R168). -/
def execSmul (h : Hdr) (d a b : BitVec 6) (s : State) : Host.Outcome State Fault Refusal :=
  s.scalar h d (s.rdS a.toNat * s.rdS b.toNat)

/-- SMULH (R168). -/
def execSmulh (h : Hdr) (d a b : BitVec 6) (s : State) : Host.Outcome State Fault Refusal :=
  s.scalar h d (BitVec.ofNat 64 ((s.rdS a.toNat).toNat * (s.rdS b.toNat).toNat / 2 ^ 64))

/-- SDIVU (R168). -/
def execSdivu (h : Hdr) (d a b : BitVec 6) (s : State) : Host.Outcome State Fault Refusal :=
  s.scalar h d (if s.rdS b.toNat = 0#64 then 0xFFFFFFFFFFFFFFFF#64 else s.rdS a.toNat / s.rdS b.toNat)

/-- SREMU (R168). -/
def execSremu (h : Hdr) (d a b : BitVec 6) (s : State) : Host.Outcome State Fault Refusal :=
  s.scalar h d (if s.rdS b.toNat = 0#64 then s.rdS a.toNat else s.rdS a.toNat % s.rdS b.toNat)

/-- SAND (R168). -/
def execSand (h : Hdr) (d a b : BitVec 6) (s : State) : Host.Outcome State Fault Refusal :=
  s.scalar h d (s.rdS a.toNat &&& s.rdS b.toNat)

/-- SOR (R168). -/
def execSor (h : Hdr) (d a b : BitVec 6) (s : State) : Host.Outcome State Fault Refusal :=
  s.scalar h d (s.rdS a.toNat ||| s.rdS b.toNat)

/-- SXOR (R168). -/
def execSxor (h : Hdr) (d a b : BitVec 6) (s : State) : Host.Outcome State Fault Refusal :=
  s.scalar h d (s.rdS a.toNat ^^^ s.rdS b.toNat)

/-- SSHL (R168). -/
def execSshl (h : Hdr) (d a b : BitVec 6) (s : State) : Host.Outcome State Fault Refusal :=
  s.scalar h d (shiftLeft64 (s.rdS a.toNat) (s.rdS b.toNat))

/-- SSHR (R168). -/
def execSshr (h : Hdr) (d a b : BitVec 6) (s : State) : Host.Outcome State Fault Refusal :=
  s.scalar h d (shiftRight64 (s.rdS a.toNat) (s.rdS b.toNat))

/-- SSAR (R168). -/
def execSsar (h : Hdr) (d a b : BitVec 6) (s : State) : Host.Outcome State Fault Refusal :=
  s.scalar h d ((s.rdS a.toNat).sshiftRight (min (s.rdS b.toNat).toNat 63))

/-- SMIN (R168). -/
def execSmin (h : Hdr) (d a b : BitVec 6) (s : State) : Host.Outcome State Fault Refusal :=
  s.scalar h d (if (s.rdS b.toNat).slt (s.rdS a.toNat) then s.rdS b.toNat else s.rdS a.toNat)

/-- SMAX (R168). -/
def execSmax (h : Hdr) (d a b : BitVec 6) (s : State) : Host.Outcome State Fault Refusal :=
  s.scalar h d (if (s.rdS a.toNat).slt (s.rdS b.toNat) then s.rdS b.toNat else s.rdS a.toNat)

/-- SLEA (R168). -/
def execSlea (h : Hdr) (d a b : BitVec 6) (s : State) : Host.Outcome State Fault Refusal :=
  s.scalar h d (s.rdS a.toNat + 8#64 * s.rdS b.toNat)

/-- SMOV (R168). -/
def execSmov (h : Hdr) (d a : BitVec 6) (s : State) : Host.Outcome State Fault Refusal :=
  s.scalar h d (s.rdS a.toNat)

/-- SCLZ (R168). -/
def execSclz (h : Hdr) (d a : BitVec 6) (s : State) : Host.Outcome State Fault Refusal :=
  s.scalar h d (BitVec.ofNat 64 (leadingZeros 64 (s.rdS a.toNat).toNat))

/-- SPOPC (R168). -/
def execSpopc (h : Hdr) (d a : BitVec 6) (s : State) : Host.Outcome State Fault Refusal :=
  s.scalar h d (BitVec.ofNat 64 (popCount 64 (s.rdS a.toNat).toNat))

/-- SADDI (R169). -/
def execSaddi (h : Hdr) (d a i : BitVec 6) (s : State) : Host.Outcome State Fault Refusal :=
  s.scalar h d (s.rdS a.toNat + wordOfInt (s.imm i))

/-- SMOVI (R169). -/
def execSmovi (h : Hdr) (d i : BitVec 6) (s : State) : Host.Outcome State Fault Refusal := s.scalar h d (wordOfInt (s.imm i))

/-- SMASK (R169): a width of 0 keeps the whole word. -/
def execSmask (h : Hdr) (d a i : BitVec 6) (s : State) : Host.Outcome State Fault Refusal :=
  s.scalar h d
    (if i = 0#6 then s.rdS a.toNat else s.rdS a.toNat &&& BitVec.ofNat 64 (2 ^ i.toNat - 1))

/-- SCMP (R170): the predicate is written in every lane of the mask. -/
def execScmp (h : Hdr) (d q : BitVec 3) (a b : BitVec 6) (s : State) : Host.Outcome State Fault Refusal :=
  if s.taken h then
    .next (s.putP d.toNat s.inMask fun _ => scalarCond q.toNat (s.rdS a.toNat) (s.rdS b.toNat))
  else .next s

/-- SCMPI (R170). -/
def execScmpi (h : Hdr) (d q : BitVec 3) (a i : BitVec 6) (s : State) : Host.Outcome State Fault Refusal :=
  if s.taken h then
    .next (s.putP d.toNat s.inMask fun _ => scalarCond q.toNat (s.rdS a.toNat) (wordOfInt (s.imm i)))
  else .next s

/-- The lowest lane of the issuing slot's mask (R171). -/
def State.lowestLane (s : State) : Nat := (lanes.find? s.inMask).getD 0

/-- SSEL (R40, R171): the guard of the lowest lane selects and does not suppress the write. -/
def execSsel (h : Hdr) (d a b : BitVec 6) (s : State) : Host.Outcome State Fault Refusal :=
  .next (s.putS d.toNat (if s.guard h s.lowestLane then s.rdS a.toNat else s.rdS b.toNat))

/-- SGET (R171): a lane index beyond 31 traps BOUNDS. -/
def execSget (h : Hdr) (d a b : BitVec 6) (s : State) : Host.Outcome State Fault Refusal :=
  if s.taken h ∧ 32 ≤ (s.rdS b.toNat).toNat then .next (s.trapHere .bounds)
  else s.scalar h d (s.rdV a.toNat (s.rdS b.toNat).toNat)

/-- SBC (R171): per lane under its guard. -/
def execSbc (h : Hdr) (d a : BitVec 6) (s : State) : Host.Outcome State Fault Refusal :=
  .next (s.putV d.toNat (s.active h) fun _ => s.rdS a.toNat)

/-- SPRED_TO_S (R171). -/
def execSpredToS (h : Hdr) (d : BitVec 6) (a : BitVec 3) (s : State) : Host.Outcome State Fault Refusal :=
  s.scalar h d ((laneMask (s.rdP a.toNat)).zeroExtend 64)

/-- SPRED_TO_P (R171): the predicate is written in every lane of the mask. -/
def execSpredToP (h : Hdr) (d : BitVec 3) (a : BitVec 6) (s : State) : Host.Outcome State Fault Refusal :=
  if s.taken h then .next (s.putP d.toNat s.inMask fun l => (s.rdS a.toNat).getLsbD l) else .next s

/-- The address of sld and sst (R47, R172). -/
def State.scalarAddr (s : State) (x : BitVec 6) (k : BitVec 3) : Nat :=
  (s.rdS (48 + k.toNat) + s.rdS x.toNat + wordOfInt s.off).toNat

/-- SLD (R172). -/
def execSld (h : Hdr) (d x : BitVec 6) (k : BitVec 3) (s : State) : Host.Outcome State Fault Refusal :=
  if s.taken h then
    match s.readUniform (s.scalarAddr x k) 8 with
    | .error e => .next (s.memStop e)
    | .ok (s, bs) => .next (s.putS d.toNat (BitVec.ofNat 64 (leNat bs)))
  else .next s

/-- SST (R172). -/
def execSst (h : Hdr) (d x : BitVec 6) (k : BitVec 3) (s : State) : Host.Outcome State Fault Refusal :=
  if s.taken h then
    match s.writeUniform (s.scalarAddr x k) (leBytes (s.rdS d.toNat).toNat 8) with
    | .error f => .next (s.memTrap f)
    | .ok s => .next s
  else .next s

/-- BUFLD (R173). An index beyond the pool records the address that it names as its trap address (log 38). -/
def execBufld (h : Hdr) (d a i : BitVec 6) (s : State) : Host.Outcome State Fault Refusal :=
  if s.taken h then
    let j := (s.rdS a.toNat + wordOfInt (s.imm i)).toNat
    let r := s.myLaunch.record
    if r.poolwords ≤ j then .next (s.trap .bounds (BitVec.ofNat 64 (r.pool + 8 * j)))
    else
      match s.readUniform ((r.pool + 8 * j) % 2 ^ 64) 8 with
      | .error e => .next (s.memStop e)
      | .ok (s, bs) => .next (s.putS d.toNat (BitVec.ofNat 64 (leNat bs)))
  else .next s

end Sys2Proof.Machine
end

