-- ==== Sys2Proof/Machine/Vector.lean ====
section
/-! DEFINITION. Typed and untyped vector instructions (spec/08 R174 to R187). -/

namespace Sys2Proof.Machine

/-- A typed instruction (R174, R175): FORMAT where some lane is active and the descriptor is not accepted; otherwise
each active lane of `V[d]` is written element by element. -/
def State.typed (s : State) (h : Hdr) (f : BitVec 2) (accepts : Nf → Bool) (d a b : BitVec 6)
    (op : Nf → Nat → Nat → Nat → Nat) : Host.Outcome State Fault Refusal :=
  let nf := nfOf (s.rdNf f.toNat)
  if !s.taken h then .next s
  else if !accepts nf then .next (s.trapHere .format)
  else
    .next (s.putV d.toNat (s.active h) fun l =>
      typedLane nf (op nf) (s.rdV a.toNat l) (s.rdV b.toNat l) (s.rdV d.toNat l))

/-- An untyped instruction writes each active lane of `V[d]` (R182). -/
def State.untyped (s : State) (h : Hdr) (d : Nat) (f : Nat → Word) : Host.Outcome State Fault Refusal := .next (s.putV d (s.active h) f)

/-- ADD (R176). -/
def execVadd (h : Hdr) (f : BitVec 2) (d a b : BitVec 6) (s : State) : Host.Outcome State Fault Refusal :=
  s.typed h f acceptsArith d a b addElem

/-- SUB (R176). -/
def execVsub (h : Hdr) (f : BitVec 2) (d a b : BitVec 6) (s : State) : Host.Outcome State Fault Refusal :=
  s.typed h f acceptsArith d a b subElem

/-- MUL (R176). -/
def execVmul (h : Hdr) (f : BitVec 2) (d a b : BitVec 6) (s : State) : Host.Outcome State Fault Refusal :=
  s.typed h f acceptsArith d a b mulElem

/-- FMA (R176). -/
def execVfma (h : Hdr) (f : BitVec 2) (d a b : BitVec 6) (s : State) : Host.Outcome State Fault Refusal :=
  s.typed h f acceptsArith d a b fmaElem

/-- MIN (R177). -/
def execVmin (h : Hdr) (f : BitVec 2) (d a b : BitVec 6) (s : State) : Host.Outcome State Fault Refusal :=
  s.typed h f acceptsArith d a b minElem

/-- MAX (R177). -/
def execVmax (h : Hdr) (f : BitVec 2) (d a b : BitVec 6) (s : State) : Host.Outcome State Fault Refusal :=
  s.typed h f acceptsArith d a b maxElem

/-- AMIN (R177). -/
def execVamin (h : Hdr) (f : BitVec 2) (d a b : BitVec 6) (s : State) : Host.Outcome State Fault Refusal :=
  s.typed h f acceptsArith d a b aminElem

/-- AMAX (R177). -/
def execVamax (h : Hdr) (f : BitVec 2) (d a b : BitVec 6) (s : State) : Host.Outcome State Fault Refusal :=
  s.typed h f acceptsArith d a b amaxElem

/-- CLAMP (R177). -/
def execVclamp (h : Hdr) (f : BitVec 2) (d a b : BitVec 6) (s : State) : Host.Outcome State Fault Refusal :=
  s.typed h f acceptsArith d a b clampElem

/-- MULH (R179). -/
def execVmulh (h : Hdr) (f : BitVec 2) (d a b : BitVec 6) (s : State) : Host.Outcome State Fault Refusal :=
  s.typed h f acceptsInt d a b mulhElem

/-- SHL (R179). -/
def execVshl (h : Hdr) (f : BitVec 2) (d a b : BitVec 6) (s : State) : Host.Outcome State Fault Refusal :=
  s.typed h f acceptsInt d a b shlElem

/-- SHR (R179). -/
def execVshr (h : Hdr) (f : BitVec 2) (d a b : BitVec 6) (s : State) : Host.Outcome State Fault Refusal :=
  s.typed h f acceptsInt d a b shrElem

/-- ABS (R178). -/
def execVabs (h : Hdr) (f : BitVec 2) (d a : BitVec 6) (s : State) : Host.Outcome State Fault Refusal :=
  s.typed h f acceptsArith d a a absElem

/-- NEG (R178). -/
def execVneg (h : Hdr) (f : BitVec 2) (d a : BitVec 6) (s : State) : Host.Outcome State Fault Refusal :=
  s.typed h f acceptsArith d a a negElem

/-- RINT (R178). -/
def execVrint (h : Hdr) (f : BitVec 2) (d a : BitVec 6) (s : State) : Host.Outcome State Fault Refusal :=
  s.typed h f acceptsArith d a a rintElem

/-- DP4 (R180). -/
def execVdp4 (h : Hdr) (f : BitVec 2) (d a b : BitVec 6) (s : State) : Host.Outcome State Fault Refusal :=
  let nf := nfOf (s.rdNf f.toNat)
  if !s.taken h then .next s
  else if !acceptsDp4 nf then .next (s.trapHere .format)
  else
    .next (s.putV d.toNat (s.active h) fun l =>
      laneOf 32 fun k => dp4Half nf (s.rdV a.toNat l) (s.rdV b.toNat l) (s.rdV d.toNat l) k)

/-- CMP (R181): sub-element 0 decides the predicate of each active lane. -/
def execVcmp (h : Hdr) (f : BitVec 2) (d q : BitVec 3) (a b : BitVec 6) (s : State) : Host.Outcome State Fault Refusal :=
  let nf := nfOf (s.rdNf f.toNat)
  if !s.taken h then .next s
  else if !acceptsArith nf then .next (s.trapHere .format)
  else
    .next (s.putP d.toNat (s.active h) fun l =>
      elemCond nf q.toNat (elemOf nf (s.rdV a.toNat l) 0) (elemOf nf (s.rdV b.toNat l) 0))

/-- AND (R182). -/
def execVand (h : Hdr) (d a b : BitVec 6) (s : State) : Host.Outcome State Fault Refusal :=
  s.untyped h d.toNat fun l => s.rdV a.toNat l &&& s.rdV b.toNat l

/-- OR (R182). -/
def execVor (h : Hdr) (d a b : BitVec 6) (s : State) : Host.Outcome State Fault Refusal :=
  s.untyped h d.toNat fun l => s.rdV a.toNat l ||| s.rdV b.toNat l

/-- XOR (R182). -/
def execVxor (h : Hdr) (d a b : BitVec 6) (s : State) : Host.Outcome State Fault Refusal :=
  s.untyped h d.toNat fun l => s.rdV a.toNat l ^^^ s.rdV b.toNat l

/-- ANDN (R182). -/
def execVandn (h : Hdr) (d a b : BitVec 6) (s : State) : Host.Outcome State Fault Refusal :=
  s.untyped h d.toNat fun l => s.rdV a.toNat l &&& ~~~(s.rdV b.toNat l)

/-- MOV (R182). -/
def execVmov (h : Hdr) (d a : BitVec 6) (s : State) : Host.Outcome State Fault Refusal := s.untyped h d.toNat fun l => s.rdV a.toNat l

/-- MOVI (R182). -/
def execVmovi (h : Hdr) (d i : BitVec 6) (s : State) : Host.Outcome State Fault Refusal := s.untyped h d.toNat fun _ => wordOfInt (s.imm i)

/-- SEL (R183): every lane of the mask is written, the guard selects. -/
def execVsel (h : Hdr) (d a b : BitVec 6) (s : State) : Host.Outcome State Fault Refusal :=
  .next (s.putV d.toNat s.inMask fun l => if s.guard h l then s.rdV a.toNat l else s.rdV b.toNat l)

/-- CVT (R184): FORMAT for a ratio above 4 or a part that does not exist. -/
def execVcvt (h : Hdr) (d a : BitVec 6) (sn tn q : BitVec 2) (s : State) : Host.Outcome State Fault Refusal :=
  let src := s.rdNf sn.toNat
  let dst := s.rdNf tn.toNat
  let ratio := cvtRatio (nfOf src) (nfOf dst)
  if !s.taken h then .next s
  else if 4 < ratio ∨ ratio ≤ q.toNat then .next (s.trapHere .format)
  else .next (s.putV d.toNat (s.active h) fun l => cvtLane src dst q.toNat (s.rdV d.toNat l) (s.rdV a.toNat l))

/-- Writes registers d to d + n − 1 in each active lane, register i with f i l (R46). -/
def State.putGroup (s : State) (h : Hdr) (d n : Nat) (f : Nat → Nat → Word) : State :=
  (List.range n).foldl (fun t i => t.putV (d + i) (s.active h) (f i)) s

/-- PACK (R185). -/
def execVpack (h : Hdr) (d a b : BitVec 6) (s : State) : Host.Outcome State Fault Refusal :=
  .next (s.putGroup h d.toNat 2 fun r l =>
    laneOf 8 fun i => elem (s.rdV a.toNat l) 4 (8 * r + i) + elem (s.rdV b.toNat l) 4 (8 * r + i) * 16)

/-- UNPACK_NIBBLES (R185, mode 0). -/
def execUnpackNibbles (h : Hdr) (d a : BitVec 6) (s : State) : Host.Outcome State Fault Refusal :=
  .next (s.putGroup h d.toNat 2 fun r l =>
    laneOf 4 fun i => elem (s.rdV (a.toNat + i / 8) l) 4 (2 * (i % 8) + r))

/-- UNPACK_HIGH_BITS (R185, mode 1). -/
def execUnpackHighBits (h : Hdr) (d a : BitVec 6) (s : State) : Host.Outcome State Fault Refusal :=
  .next (s.putGroup h d.toNat 4 fun r l => laneOf 8 fun i => elem (s.rdV a.toNat l) 2 (8 * r + i) * 16)

/-- UNPACK_WIDEN (R185, mode 2). -/
def execUnpackWiden (h : Hdr) (d a : BitVec 6) (s : State) : Host.Outcome State Fault Refusal :=
  .next (s.putGroup h d.toNat 2 fun r l => laneOf 8 fun i => elem (s.rdV a.toNat l) 4 (8 * r + i))

/-- The element width of a width code (R186). -/
def elemWidth (w : Nat) : Nat := 8 * 2 ^ w

/-- The low w bits of x in reverse order. -/
def reverseBits (w x : Nat) : Nat := bitSum (fun i => x.testBit (w - 1 - i)) w

/-- CLZ (R186). -/
def execVclz (h : Hdr) (d a : BitVec 6) (w : BitVec 3) (s : State) : Host.Outcome State Fault Refusal :=
  let n := elemWidth w.toNat
  s.untyped h d.toNat fun l => laneOf n fun k => leadingZeros n (elem (s.rdV a.toNat l) n k)

/-- POPC (R186). -/
def execVpopc (h : Hdr) (d a : BitVec 6) (w : BitVec 3) (s : State) : Host.Outcome State Fault Refusal :=
  let n := elemWidth w.toNat
  s.untyped h d.toNat fun l => laneOf n fun k => popCount n (elem (s.rdV a.toNat l) n k)

/-- BREV (R186). -/
def execVbrev (h : Hdr) (d a : BitVec 6) (w : BitVec 3) (s : State) : Host.Outcome State Fault Refusal :=
  let n := elemWidth w.toNat
  s.untyped h d.toNat fun l => laneOf n fun k => reverseBits n (elem (s.rdV a.toNat l) n k)

/-- LANE (R186): the element's index in warp order. -/
def execVlane (h : Hdr) (d : BitVec 6) (w : BitVec 3) (s : State) : Host.Outcome State Fault Refusal :=
  let n := elemWidth w.toNat
  s.untyped h d.toNat fun l => laneOf n fun k => l * (64 / n) + k

/-- PERM (R187). -/
def execVperm (h : Hdr) (d a b : BitVec 6) (s : State) : Host.Outcome State Fault Refusal :=
  s.untyped h d.toNat fun l => laneOf 8 fun i =>
    let sel := elem (s.rdV b.toNat l) 8 i
    if 128 ≤ sel then 0
    else if sel % 16 < 8 then elem (s.rdV a.toNat l) 8 (sel % 16)
    else elem (s.rdV d.toNat l) 8 (sel % 16 - 8)

end Sys2Proof.Machine
end

