-- ==== Sys2Proof/Machine/Special.lean ====
section
/-! DEFINITION. Special functions (spec/09 R188 to R190). The value delivered is a free value inside the bound of
R189: the constant Config.approx proposes it, and a proposal outside the bound is replaced by the rounded exact value
(log 6). The exact value is enclosed by integer arithmetic at 512 binary places (log 16). -/

namespace Sys2Proof.Machine

/-- One at the working precision. -/
def fxOne : Nat := 2 ^ 512
/-- ln 2, π and 2/√π at the working precision, rounded down (log 16). -/
def fxLn2 : Nat :=
  0xB17217F7D1CF79ABC9E3B39803F2F6AF40F343267298B62D8A0D175B8BAAFA2BE7B876206DEBAC98559552FB4AFA1B10ED2EAE35C138214427573B291169B825
def fxPi : Nat :=
  0x3243F6A8885A308D313198A2E03707344A4093822299F31D0082EFA98EC4E6C89452821E638D01377BE5466CF34E90C6CC0AC29B7C97C50DD3F84D5B5B5470917
def fxErf : Nat :=
  0x120DD750429B6D11AE3A914FED7FD8688281341D7587CEA2E7342B06199CC416180EB39F0B24E1E2281806C12D98F35D77A3E9DDC91C394F0E9EEDF0EFFFD84A2

/-- x at the working precision, rounded down. -/
def fxOf (m : Nat) (e : Int) : Nat := if 0 ≤ e + 512 then m * pow2 (e + 512) else m / pow2 (-(e + 512))

/-- Σ t^j / j! from the j-th term on, for n terms; term is t^j / j!. -/
def expSum (t : Nat) : Nat → Nat → Nat → Nat
  | 0, _, _ => 0
  | n + 1, j, term => term + expSum t n (j + 1) (term * t / fxOne / (j + 1))

/-- 2^f at the working precision, for f below 1 at the working precision. -/
def fxExp2 (f : Nat) : Nat := expSum (f * fxLn2 / fxOne) 110 0 fxOne

/-- Σ z^(2j+1) / (2j+1) for n terms; term is z^(2j+1). -/
def atanhSum (z2 : Nat) : Nat → Nat → Nat → Nat
  | 0, _, _ => 0
  | n + 1, j, term => term / (2 * j + 1) + atanhSum z2 n (j + 1) (term * z2 / fxOne)

/-- ln y at the working precision, for y at the working precision between 1 and 2. -/
def fxLn (y : Nat) : Nat :=
  let z := (y - fxOne) * fxOne / (y + fxOne)
  2 * atanhSum (z * z / fxOne) 170 0 z

/-- The alternating sum of term, then each next term the last one times r² over two rising factors: the sine from
j = 1, the cosine from j = 0. -/
def trigSum (r2 : Nat) : Nat → Nat → Int → Int
  | 0, _, _ => 0
  | n + 1, j, term => term + trigSum r2 n (j + 2) (-(term * r2 / fxOne / ((j + 1) * (j + 2))))

/-- sin and cos of an angle at the working precision. -/
def fxSin (r : Nat) : Int := trigSum (r * r / fxOne) 100 1 r
def fxCos (r : Nat) : Int := trigSum (r * r / fxOne) 100 0 fxOne

/-- Σ (−1)^j x^(2j+1) / (j! (2j+1)); term is ±x^(2j+1) / j!. -/
def erfSum (x2 : Nat) : Nat → Nat → Int → Int
  | 0, _, _ => 0
  | n + 1, j, term => term / (2 * j + 1 : Nat) + erfSum x2 n (j + 1) (-(term * x2 / fxOne / (j + 1 : Nat)))

/-! ## The functions of finite nonzero operands -/

/-- A number at the working precision as an exact value. -/
def fxVal (i : Int) : Val := Val.ofScaled i (-512) false

def rcpVal (s : Bool) (m : Nat) (e : Int) : Val :=
  let (q, x) := divMag 1 0 m e
  .fin s q x

def rsqrtVal (m : Nat) (e : Int) : Val :=
  let (q, x) := divMag 1 0 m e
  sqrtVal q x

/-- 2^x for x = i / 2^512; beyond the reach of every format the exponent is cut off. -/
def exp2Val (i : Int) : Val :=
  let k := i / fxOne
  if 4096 < k then .fin false 1 4096
  else if k < -4096 then .fin false 1 (-4096)
  else .fin false (fxExp2 (i % fxOne).toNat) (k - 512)

/-- The operand of exp2 at the working precision, exact for every accepted format. -/
def fxSigned (s : Bool) (m : Nat) (e : Int) : Int := if s then -(fxOf m e : Int) else (fxOf m e : Int)

def log2Val (m : Nat) (e : Int) : Val :=
  let k := floorLog m e
  let y := fxOf m (-(Nat.log2 m : Int))
  fxVal (k * fxOne + (fxLn y * fxOne / fxLn2 : Nat))

def sinVal (s : Bool) (m : Nat) (e : Int) : Val :=
  let half := fxPi / 2
  let x := fxOf m e
  let r := x % half
  let v := match x / half % 4 with
    | 0 => fxSin r
    | 1 => fxCos r
    | 2 => -(fxSin r)
    | _ => -(fxCos r)
  fxVal (if s then -v else v)

def cosVal (m : Nat) (e : Int) : Val :=
  let half := fxPi / 2
  let x := fxOf m e
  let r := x % half
  fxVal (match x / half % 4 with
    | 0 => fxCos r
    | 1 => -(fxSin r)
    | 2 => -(fxCos r)
    | _ => fxSin r)

/-- The number next below one at the working precision, for functions that come closer to one than that. -/
def fxNearOne (s : Bool) : Val := fxVal (if s then 1 - (fxOne : Int) else (fxOne : Int) - 1)

def tanhVal (s : Bool) (m : Nat) (e : Int) : Val :=
  if 8 ≤ floorLog m e then fxNearOne s
  else
    let u := 2 * fxOf m e * fxOne / fxLn2
    let x := fxExp2 (u % fxOne) * 2 ^ (u / fxOne)
    let v : Int := ((x - fxOne) * fxOne / (x + fxOne) : Nat)
    fxVal (if s then -v else v)

def erfVal (s : Bool) (m : Nat) (e : Int) : Val :=
  if 3 ≤ floorLog m e then fxNearOne s
  else
    let x := fxOf m e
    let v := erfSum (x * x / fxOne) 400 0 x * fxErf / fxOne
    fxVal (if s then -v else v)

/-! ## Delivering a result inside its bound -/

/-- The bound of a result: ulps at the exact value, or an absolute power of two (R189). -/
inductive Bound where
  | ulps (n : Nat)
  | abs (e : Int)
  deriving DecidableEq, Repr

/-- The spacing of codes around a magnitude, as the exponent of the ulp (R152, R189). -/
def ulpExp (f : Nf) (m : Nat) (e : Int) : Int := max (floorLog m e) (1 - f.bias) - f.fw

/-- A magnitude lies below the smallest normal of fp32, where one ulp is the bound (R189). -/
def tiny (f : Nf) (m : Nat) (e : Int) : Bool := f.width == 32 && m != 0 && decide (floorLog m e < 1 - f.bias)

/-- How far the working precision may lead from the exact value ±m × 2^e under a bound, as a power of two (log 16). -/
def slackExp (b : Bound) (m : Nat) (e : Int) : Int :=
  match b with
  | .abs _ => -370
  | .ulps _ => if m = 0 ∨ floorLog m e < -1 then -480 else -400 + max 0 (floorLog m e)

/-- Whether a finite value lies within a bound of the exact value y = ±m × 2^e, as the working precision has it (log
16). -/
def within (f : Nf) (b : Bound) (y v : Val) : Bool :=
  match y, v with
  | .fin s m e, .fin t n x =>
    let (k, q) : Nat × Int :=
      if tiny f m e ∨ tiny f n x then (1, 1 - f.bias - f.fw)
      else match b with
        | .ulps k => (k, if m = 0 then 1 - f.bias - f.fw else ulpExp f m e)
        | .abs q => (1, q)
    let z := slackExp b m e
    let e0 := min (min e x) (min q z)
    let d := (scaled s m e e0 - scaled t n x e0).natAbs
    decide (d ≤ k * pow2 (q - e0) + pow2 (z - e0))
  | _, _ => false

/-- The result of a special function at exact value y: the value Config.approx proposes where it lies in the bound,
does not exceed 1 in magnitude for the bounded functions, and y does not overflow; otherwise y rounded to nearest.
A result below the smallest normal is flushed under ftz (R189). -/
def deliver (fn : Nat) (desc : Word) (x z : Nat) (b : Bound) (unit : Bool) (y : Val) : Nat :=
  let f := { nfOf desc with rnd := 0 }
  let r := roundVal f y
  let c := Config.approx fn desc x z % 2 ^ f.width
  let v := decodeMini { f with ftz := false } c
  let beyond := match y with
    | .fin _ m e => decide (cmpMag m e (maxFin f).1 (maxFin f).2 = .gt)
    | _ => true
  if beyond || !within f b y v || (unit && (Val.fin false 1 0).cmpTotal v.abs == .lt) then r
  else roundVal f v

/-- The descriptors special functions accept: those of fp32, fp16 and bf16 but for rnd, sat and ftz (R188). -/
def acceptsSf (f : Nf) : Bool :=
  [11, 12, 13].any fun i =>
    let g := nfOf (Config.standardOf i)
    f.kind == 2 && f.width == g.width && f.ew == g.ew && f.fw == g.fw && f.bias == g.bias && f.specials == g.specials

/-- A power of two (R189, R190). -/
def isPow2 (m : Nat) : Bool := m == 2 ^ Nat.log2 m

/-- Bounds of log2 and of sin and cos (R189). -/
def log2Bound (f : Nf) (m : Nat) (e : Int) : Bound :=
  if f.width = 32 ∧ cmpMag m e 1 (-1) ≠ .lt ∧ cmpMag m e 1 1 ≠ .gt then .abs (-22) else .ulps 1
def trigBound (f : Nf) (m : Nat) (e : Int) : Bound :=
  if cmpMag m e 1 16 = .gt then (if f.width = 32 then .abs (-22) else .abs (-10))
  else .ulps (if f.width = 32 then 2 else 1)
def wideBound (f : Nf) : Bound := .ulps (if f.width = 32 then 2 else 1)

/-- The value one as an element. -/
def oneCode (f : Nf) : Nat := roundVal { f with rnd := 0 } (.fin false 1 0)

/-- 2^t for an exact operand t (R190): powers of two are exact. Where a power of two is not representable, as 2^−150 in
fp32, it is rounded to nearest too, which is the model's choice inside the bound of R189 (log 6). -/
def exp2Elem (fn : Nat) (desc : Word) (x z : Nat) (t : Val) : Nat :=
  let f := { nfOf desc with rnd := 0 }
  match t with
  | .nan => nanCode f
  | .inf true => roundVal f (.fin false 0 0)
  | .inf false => roundVal f (.inf false)
  | .fin s m e =>
    if m = 0 then oneCode f
    else if 0 ≤ e ∨ m % pow2 (-e) = 0 then roundVal f (.fin false 1 (max (-4096) (min 4096 (fxSigned s m e / fxOne))))
    else deliver fn desc x z (.ulps 1) false (exp2Val (fxSigned s m e))

/-- One element of a special function: R190's special cases, then R189. -/
def sfElem (fn : Nat) (desc : Word) (x z : Nat) : Nat :=
  let f := nfOf desc
  let g := { f with rnd := 0 }
  let zero (s : Bool) : Nat := roundVal g (.fin s 0 0)
  match fn, decodeElem f x with
  | 9, v => exp2Elem 9 desc x z (sumVals 0 [v, (decodeElem f z).neg])
  | 3, v => exp2Elem 3 desc x 0 v
  | _, .nan => nanCode f
  | 0, .inf s => zero s
  | 0, .fin s m e => if m = 0 then roundVal g (.inf s) else deliver 0 desc x 0 (.ulps 1) false (rcpVal s m e)
  | 1, .inf s => if s then nanCode f else zero false
  | 1, .fin s m e =>
    if m = 0 then roundVal g (.inf s) else if s then nanCode f
    else deliver 1 desc x 0 (.ulps 1) false (rsqrtVal m e)
  | 2, .inf s => if s then nanCode f else roundVal g (.inf false)
  | 2, .fin s m e => if m = 0 then zero s else if s then nanCode f else roundVal f (sqrtVal m e)
  | 4, .inf s => if s then nanCode f else roundVal g (.inf false)
  | 4, .fin s m e =>
    if m = 0 then roundVal g (.inf true)
    else if s then nanCode f
    else if isPow2 m then roundVal g (.ofInt (floorLog m e))
    else deliver 4 desc x 0 (log2Bound f m e) false (log2Val m e)
  | 5, .inf _ => nanCode f
  | 5, .fin s m e => if m = 0 then zero s else deliver 5 desc x 0 (trigBound f m e) true (sinVal s m e)
  | 6, .inf _ => nanCode f
  | 6, .fin _ m e => if m = 0 then oneCode f else deliver 6 desc x 0 (trigBound f m e) true (cosVal m e)
  | 7, .inf s => roundVal g (.fin s 1 0)
  | 7, .fin s m e => if m = 0 then zero s else deliver 7 desc x 0 (wideBound f) true (tanhVal s m e)
  | 8, .inf s => roundVal g (.fin s 1 0)
  | 8, .fin s m e => if m = 0 then zero s else deliver 8 desc x 0 (wideBound f) true (erfVal s m e)
  | _, _ => nanCode f

/-- A special function instruction (R188). -/
def State.special (s : State) (h : Hdr) (d a : BitVec 6) (f : BitVec 2) (fn : Nat) : Host.Outcome State Fault Refusal :=
  let desc := s.rdNf f.toNat
  let nf := nfOf desc
  if !s.taken h then .next s
  else if !acceptsSf nf then .next (s.trapHere .format)
  else
    .next (s.putV d.toNat (s.active h) fun l =>
      laneOf nf.cont fun k => sfElem fn desc (elemOf nf (s.rdV a.toNat l) k) (elemOf nf (s.rdV d.toNat l) k))

/-- RCP (R188 to R190). -/
def execRcp (h : Hdr) (d a : BitVec 6) (f : BitVec 2) (s : State) : Host.Outcome State Fault Refusal :=
  s.special h d a f 0

/-- RSQRT (R188 to R190). -/
def execRsqrt (h : Hdr) (d a : BitVec 6) (f : BitVec 2) (s : State) : Host.Outcome State Fault Refusal :=
  s.special h d a f 1

/-- SQRT (R188 to R190). -/
def execSqrt (h : Hdr) (d a : BitVec 6) (f : BitVec 2) (s : State) : Host.Outcome State Fault Refusal :=
  s.special h d a f 2

/-- EXP2 (R188 to R190). -/
def execExp2 (h : Hdr) (d a : BitVec 6) (f : BitVec 2) (s : State) : Host.Outcome State Fault Refusal :=
  s.special h d a f 3

/-- LOG2 (R188 to R190). -/
def execLog2 (h : Hdr) (d a : BitVec 6) (f : BitVec 2) (s : State) : Host.Outcome State Fault Refusal :=
  s.special h d a f 4

/-- SIN (R188 to R190). -/
def execSin (h : Hdr) (d a : BitVec 6) (f : BitVec 2) (s : State) : Host.Outcome State Fault Refusal :=
  s.special h d a f 5

/-- COS (R188 to R190). -/
def execCos (h : Hdr) (d a : BitVec 6) (f : BitVec 2) (s : State) : Host.Outcome State Fault Refusal :=
  s.special h d a f 6

/-- TANH (R188 to R190). -/
def execTanh (h : Hdr) (d a : BitVec 6) (f : BitVec 2) (s : State) : Host.Outcome State Fault Refusal :=
  s.special h d a f 7

/-- ERF (R188 to R190). -/
def execErf (h : Hdr) (d a : BitVec 6) (f : BitVec 2) (s : State) : Host.Outcome State Fault Refusal :=
  s.special h d a f 8

/-- EXD (R188 to R190). -/
def execExd (h : Hdr) (d a : BitVec 6) (f : BitVec 2) (s : State) : Host.Outcome State Fault Refusal :=
  s.special h d a f 9

end Sys2Proof.Machine
end

