-- ==== Sys2Proof/Machine/Lanes.lean ====
section
/-! DEFINITION. Cross-lane instructions and xswap (spec/09 R191 to R203). -/

namespace Sys2Proof.Machine

/-- The width of a 2-bit width code (R191). -/
def laneWidth (w : Nat) : Nat := 8 * 2 ^ w

/-- Element e of width w of a register in warp order (R191). -/
def State.warpElem (s : State) (r w e : Nat) : Nat := elem (s.rdV r (e / (64 / w))) w (e % (64 / w))

/-- SHFL (R192): a byte gather by index bytes. -/
def execShfl (h : Hdr) (d a b : BitVec 6) (s : State) : Out :=
  .next (s.putV d.toNat (s.active h) fun l => laneOf 8 fun j =>
    let i := elem (s.rdV b.toNat l) 8 j
    if s.active h (i / 8) then elem (s.rdV a.toNat (i / 8)) 8 (i % 8) else elem (s.rdV d.toNat l) 8 j)

/-- The source element of shfli, if it lies in the warp (R193). -/
def shfliSource (mode dist n e : Nat) : Option Nat :=
  match mode with
  | 0 => if dist ≤ e then some (e - dist) else none
  | 1 => if e + dist < n then some (e + dist) else none
  | 2 => if e ^^^ dist < n then some (e ^^^ dist) else none
  | _ => some ((e + n - dist % n) % n)

/-- SHFLI (R193). -/
def execShfli (h : Hdr) (d a i : BitVec 6) (s : State) : Out :=
  let x := s.immU i
  let w := laneWidth (bits x 1 0)
  let n := 64 / w
  .next (s.putV d.toNat (s.active h) fun l => laneOf w fun k =>
    match shfliSource (bits x 3 2) (bits x 11 4) (32 * n) (l * n + k) with
    | some e => if s.active h (e / n) then s.warpElem a.toNat w e else elem (s.rdV d.toNat l) w k
    | none => elem (s.rdV d.toNat l) w k)

/-- BCAST (R194): a selector out of range traps BOUNDS. -/
def execBcast (h : Hdr) (d a b : BitVec 6) (s : State) : Out :=
  let x := (s.rdS b.toNat).toNat
  let w := laneWidth (bits x 9 8)
  if !s.taken h then .next s
  else if x / 2 ^ 10 ≠ 0 ∨ 32 * (64 / w) ≤ bits x 7 0 then .next (s.trapHere .bounds)
  else .next (s.putV d.toNat (s.active h) fun _ => laneOf w fun _ => s.warpElem a.toNat w (bits x 7 0))

/-- VOTE_OR (R195). -/
def execVoteOr (h : Hdr) (d a : BitVec 3) (s : State) : Out :=
  .next (s.putP d.toNat (s.active h) fun _ => (s.activeLanes h).any (s.rdP a.toNat))

/-- VOTE_AND (R195). -/
def execVoteAnd (h : Hdr) (d a : BitVec 3) (s : State) : Out :=
  .next (s.putP d.toNat (s.active h) fun _ => (s.activeLanes h).all (s.rdP a.toNat))

/-- VOTE_MASK (R195). -/
def execVoteMask (h : Hdr) (d : BitVec 6) (a : BitVec 3) (s : State) : Out :=
  s.scalar h d ((laneMask fun l => s.active h l && s.rdP a.toNat l).zeroExtend 64)

/-- VOTE_SAME (R195). -/
def execVoteSame (h : Hdr) (d : BitVec 3) (a : BitVec 6) (s : State) : Out :=
  .next (s.putP d.toNat (s.active h) fun _ =>
    match s.activeLanes h with
    | [] => true
    | l :: ls => ls.all fun m => s.rdV a.toNat m == s.rdV a.toNat l)

/-- VOTE_CNT (R195). -/
def execVoteCnt (h : Hdr) (d : BitVec 6) (a : BitVec 3) (s : State) : Out :=
  s.scalar h d (BitVec.ofNat 64 ((s.activeLanes h).filter (s.rdP a.toNat)).length)

/-! ## Reductions and scans (R196 to R198) -/

/-- One combination of a reduction (R196): add, min and max under the descriptor, the others on container bits. -/
def combineElem (f : Nf) (o x y : Nat) : Nat :=
  match o with
  | 0 => addElem f x y 0
  | 1 => minElem f x y 0
  | 2 => maxElem f x y 0
  | 3 => x &&& y
  | 4 => x ||| y
  | _ => x ^^^ y

/-- The tree of R197 over 2^k positions from lo; a position that is absent passes the other side. -/
def treeOf (comb : Nat → Nat → Nat) (x : Nat → Option Nat) : Nat → Nat → Option Nat
  | 0, lo => x lo
  | k + 1, lo =>
    match treeOf comb x k lo, treeOf comb x k (lo + 2 ^ k) with
    | some a, some b => some (comb a b)
    | some a, none => some a
    | none, b => b

/-- Elements a reduction counts, in warp order: those of active lanes; arithmetic ops ignore the high bits of a 6-bit
container (R174, R196). -/
def State.present (s : State) (h : Hdr) (f : Nf) (o a e : Nat) : Option Nat :=
  let n := 64 / f.cont
  if s.active h (e / n) then
    let x := s.warpElem a f.cont e
    some (if o ≤ 2 then x % 2 ^ f.width else x)
  else none

/-- Descriptors that reductions accept: kinds 0 to 3 with at most 8 elements in a lane (R196). -/
def acceptsRed (f : Nf) : Bool := decide (f.kind ≤ 3) && f.cont != 4

/-- RED (R197). -/
def execRed (h : Hdr) (d a : BitVec 6) (m : BitVec 1) (o : BitVec 3) (f : BitVec 2) (s : State) : Out :=
  let nf := nfOf (s.rdNf f.toNat)
  let n := 64 / nf.cont
  if !s.taken h then .next s
  else if !acceptsRed nf then .next (s.trapHere .format)
  else
    let comb := combineElem nf o.toNat
    let x := s.present h nf o.toNat a.toNat
    .next (s.putV d.toNat (s.active h) fun _ => laneOf nf.cont fun k =>
      (if m = 0#1 then treeOf comb (fun l => x (l * n + k)) 5 0
       else treeOf comb x (5 + Nat.log2 n) 0).getD 0)

/-- The identity of a scan's op in a format (R198). -/
def scanIdentity (f : Nf) (o : Nat) : Nat :=
  let top (s : Bool) : Nat :=
    match f.kind with
    | 0 | 1 => intCode f.width (if s then intMin f else intMax f)
    | 2 => if f.specials = 0 then withSign f s ((2 ^ f.ew - 1) * 2 ^ f.fw) else withSign f s (maxFinCode f)
    | _ => if s then 0xFF else 0x7F
  match o with
  | 1 => top false
  | 2 => top true
  | 3 => 2 ^ f.cont - 1
  | _ => 0

/-- The fold of the present positions among the first e, left to right; none where none is present (R198). -/
def foldTo (comb : Nat → Nat → Nat) (x : Nat → Option Nat) : Nat → Option Nat
  | 0 => none
  | e + 1 =>
    match foldTo comb x e, x e with
    | some r, some v => some (comb r v)
    | none, some v => some v
    | r, none => r

/-- SCAN (R198): inclusive folds to e + 1, exclusive to e, with the identity before the first present position. -/
def execScan (h : Hdr) (d a : BitVec 6) (m : BitVec 1) (o : BitVec 3) (f : BitVec 2) (s : State) : Out :=
  let nf := nfOf (s.rdNf f.toNat)
  let n := 64 / nf.cont
  if !s.taken h then .next s
  else if !acceptsRed nf then .next (s.trapHere .format)
  else
    let comb := combineElem nf o.toNat
    let x := s.present h nf o.toNat a.toNat
    .next (s.putV d.toNat (s.active h) fun l => laneOf nf.cont fun k =>
      (foldTo comb x (l * n + k + (if m = 0#1 then 1 else 0))).getD (scanIdentity nf o.toNat))

/-- REDSEG (R198): the keys are the old elements of d. -/
def execRedseg (h : Hdr) (d a : BitVec 6) (o : BitVec 3) (f : BitVec 2) (s : State) : Out :=
  let nf := nfOf (s.rdNf f.toNat)
  let n := 64 / nf.cont
  if !s.taken h then .next s
  else if !acceptsRed nf then .next (s.trapHere .format)
  else
    let x := s.present h nf o.toNat a.toNat
    let key := s.warpElem d.toNat nf.cont
    .next (s.putV d.toNat (s.active h) fun l => laneOf nf.cont fun k =>
      (treeOf (combineElem nf o.toNat) (fun e => if key e = key (l * n + k) then x e else none)
        (5 + Nat.log2 n) 0).getD 0)

/-- MATCH (R199). -/
def execVmatch (h : Hdr) (d a : BitVec 6) (w : BitVec 2) (s : State) : Out :=
  let n := laneWidth w.toNat
  .next (s.putV d.toNat (s.active h) fun l =>
    (laneMask fun m => s.active h m && elem (s.rdV a.toNat m) n 0 == elem (s.rdV a.toNat l) n 0).zeroExtend 64)

/-- The rank of a lane among the lanes of the mask below it (R199). -/
def State.rankInMask (s : State) (l : Nat) : Nat := ((List.range l).filter s.inMask).length

/-- COMPACT (R199): lanes of the mask are written whatever their guard. -/
def execVcompact (h : Hdr) (d a : BitVec 6) (s : State) : Out :=
  let act := s.activeLanes h
  .next (s.putV d.toNat (fun l => s.inMask l && decide (s.rankInMask l < act.length)) fun l =>
    s.rdV a.toNat (act.getD (s.rankInMask l) 0))

/-! ## xswap (R200 to R203) -/

/-- The resident block of a launch with a linear index. -/
def State.blockOf (s : State) (launch lin : Nat) : Option Nat :=
  (s.blocks.find? fun (e : Nat × Block) => e.2.used && e.2.launch == launch && e.2.lin == lin).map (·.1)

/-- The partner's slot that waits at an xswap naming this warp: the slot, its registers d and a, its active lanes and
its tag (R201). -/
def State.partnerWait (s : State) (partner lin idx : Nat) : Option (Turn × Nat × Nat × W32 × Nat) :=
  [⟨partner, false⟩, ⟨partner, true⟩].findSome? fun t =>
    match ((s.warp t.warp).micro t.slotB).wait with
    | .xswap d a ls b w tag => if b = lin ∧ w = idx then some (t, d, a, ls, tag) else none
    | _ => none

/-- Both sides of an xswap trap BOUNDS (R200). -/
def State.swapTrap (s : State) (t : Turn) : State :=
  let s1 := s.trapHere .bounds
  let m := (s1.warp t.warp).micro t.slotB
  let s2 := s1.setWarp t.warp ((s1.warp t.warp).setMicro t.slotB { m with wait := .none })
  s2.takeTrap t { cause := .bounds, taddr := s.slotAddr t, waddr := s.slotAddr t }

/-- The warp of an index of a saved block of a launch has ended (R200). -/
def Launch.savedEnded (l : Launch) (lin idx : Nat) : Bool :=
  l.saved.any fun e => e.lin == lin && e.kept.any fun k => k.idx == idx && k.ended

/-- An xswap that no exchange has been made for yet: it waits for its partner, exchanges, or traps (R200, R201). -/
def State.xswap (s : State) (h : Hdr) (d a b : BitVec 6) : Out :=
  if !s.taken h then .next s
  else
    let x := (s.rdS b.toNat).toNat
    let blk := s.block s.myBlock
    let lin := bits x 31 0
    let idx := bits x 36 32
    let tag := bits x 47 40
    let l := s.launch blk.launch
    if x / 2 ^ 48 ≠ 0 ∨ bits x 39 37 ≠ 0 ∨ l.record.total ≤ lin ∨ l.record.warps ≤ idx ∨
        (lin = blk.lin ∧ idx = s.cw.idx) ∨ l.exited.contains lin ∨ l.savedEnded lin idx then
      .next (s.trapHere .bounds)
    else
      let ls := laneMask (s.active h)
      let wait := s.waitFor (.xswap d.toNat a.toNat ls lin idx tag)
      match s.blockOf blk.launch lin with
      | none => .next wait
      | some pb =>
        if clusterOf (coreOfBlock pb) = clusterOf s.here ∧ (s.warpAt pb idx).all fun k => (s.partnerWait k blk.lin s.cw.idx).isNone then
          .next (s.trapHere .bounds)
        else
          match s.warpAt pb idx with
          | none => .next wait
          | some k =>
            if !s.liveWarp k then .next (s.trapHere .bounds)
            else
              match s.partnerWait k blk.lin s.cw.idx with
              | none => .next wait
              | some (t, pd, pa, pls, ptag) =>
                if ptag ≠ tag ∨ clusterOf (coreOfBlock pb) = clusterOf s.here then .next (s.swapTrap t)
                else
                  let both := ls &&& pls
                  let mine (l : Nat) : Word := s.rdV a.toNat l
                  let theirs (l : Nat) : Word := Tab.get 0#64 ((s.warp k).micro t.slotB).src.v (32 * pa + l)
                  let s1 := s.putV d.toNat both.getLsbD theirs
                  .next (s1.finishWait t (.swapped both (lanes.map mine)) fun w => w.putV pd both.getLsbD mine)

/-- XSWAP (R200, R201). A word whose partner has made the exchange meanwhile takes up what it was handed (log 53). -/
def execXswap (h : Hdr) (d a b : BitVec 6) (s : State) : Out :=
  match s.mic.wake with
  | .swapped both vals => .next (s.putV d.toNat both.getLsbD fun l => vals.getD l 0#64)
  | _ => s.xswap h d a b

end Sys2Proof.Machine
end

