-- ==== Sys2Proof/Machine/Logs.lean ====
section
/-! DEFINITION. Partitions and their completion and event rings, and the error logs (spec/18 R364, R368, R369, spec/20
R405). -/

namespace Sys2Proof.Machine

/-! ## Partitions (R364) -/

/-- The stacks of a partition under the layout in force. -/
def State.stacksOf (s : State) (p : Nat) : List Nat :=
  match s.layout with
  | 1 => if p = 0 then [0, 1, 2, 3] else []
  | 2 => if p < 2 then [2 * p, 2 * p + 1] else []
  | _ => if p < 4 then [p] else []

/-- The cores of a partition in device core order. -/
def State.coresOf (s : State) (p : Nat) : List Nat :=
  (s.stacksOf p).flatMap fun k => (List.range 64).map (64 * k + ·)

/-- The partition page p is present for a port (R367). -/
def State.owns (s : State) (port p : Nat) : Bool := decide (p < s.layout) && (s.part p).port == port

/-- A byte range lies wholly inside one frame window of a partition (R351, R368). -/
def Partition.inside (x : Partition) (base n : Nat) : Bool :=
  (x.win0 ++ x.win1).any fun w => decide (w.1 ≤ base) && decide (base + n ≤ w.1 + w.2)

/-! ## Bytes of records -/

/-- A power of two between two bounds. -/
def pow2In (n lo hi : Nat) : Bool := decide (lo ≤ n) && decide (n ≤ hi) && n == 2 ^ Nat.log2 n

/-! ## Rings (R368) -/

/-- Bytes of an entry of a ring (R368). -/
def entryBytes : RingKind → Nat
  | .completion => 16 | .event => 16 | .control => 32 | .admin => 64

def Partition.ring (x : Partition) : RingKind → Ring
  | .completion => x.completion | .event => x.event | .control => x.control | .admin => x.admin

def Partition.setRing (x : Partition) (k : RingKind) (r : Ring) : Partition :=
  match k with
  | .completion => { x with completion := r }
  | .event => { x with event := r }
  | .control => { x with control := r }
  | .admin => { x with admin := r }

/-- An entry of the ring is outstanding: written and not consumed, or waiting to be written. -/
def Partition.outstanding (x : Partition) (k : RingKind) : Bool :=
  (x.ring k).head != (x.ring k).tail || (k == .completion && !x.backlog.isEmpty)

/-- The host of a partition is signalled on an MSI-X vector of its port (R363). -/
def State.signalHost (s : State) (p vector : Nat) : State :=
  let k := 64 * (s.part p).port + vector
  { s with msix := Tab.put s.msix k (Tab.get 0 s.msix k + 1) }

/-- The vector of a command queue's completion interrupt, or 0 for none (R77, R363). -/
def irqVector (irq : Bool) (queue : Nat) : Nat := if irq then 1 + queue % 63 else 0

/-- Entries of 15 bytes that wait are written to the completion ring in order, each with the valid bit of the pass,
while the ring has room; each is signalled on vector 0, and on its own where it has one (R369, R77). -/
def State.drainBacklog : Nat → State → Nat → State
  | 0, s, _ => s
  | n + 1, s, p =>
    let x := s.part p
    let r := x.completion
    match x.backlog with
    | [] => s
    | e :: rest =>
      if !r.configured ∨ (r.tail + 1) % r.size = r.head then s
      else
        let s := s.homeWrite (r.base + 16 * r.tail) (e.1 ++ [if r.pass then 1#8 else 0#8])
        let tail := (r.tail + 1) % r.size
        let r := { r with tail := tail, pass := if tail = 0 then !r.pass else r.pass }
        let s := (s.setPart p { s.part p with backlog := rest, completion := r }).signalHost p 0
        State.drainBacklog n (if e.2 = 0 then s else s.signalHost p e.2) p

/-- A completion entry, with the vector of its completion interrupt (R77, R369). -/
def State.complete (s : State) (p tag status source queue rollbacks head vector : Nat) : State :=
  let e := leBytes tag 8 ++ leBytes status 1 ++ leBytes source 1 ++ leBytes queue 1 ++ leBytes rollbacks 1 ++
    leBytes head 2 ++ [0#8]
  let x := s.part p
  State.drainBacklog (x.backlog.length + 1) (s.setPart p { x with backlog := x.backlog ++ [(e, vector)] }) p

/-- An event entry of 16 bytes; an event that finds the ring full is dropped and counted (R369). -/
def State.postEvent (s : State) (p : Nat) (e : List Byte) : State :=
  let x := s.part p
  let r := x.event
  if !r.configured ∨ (r.tail + 1) % r.size = r.head then
    s.setPart p { x with eventsLostBit := true, eventsLost := x.eventsLost + 1 }
  else
    let s := s.homeWrite (r.base + 16 * r.tail) e
    (s.setPart p { s.part p with event := { r with tail := (r.tail + 1) % r.size } }).signalHost p 0

/-- An event posted to every partition. -/
def State.postAll (s : State) (e : List Byte) : State := (List.range s.layout).foldl (fun s p => s.postEvent p e) s

/-! ## Error logs (R405) -/

/-- The I/O die's clock as a log entry records it: it moves on by a free amount (log 4). -/
def State.now (s : State) : Nat × State :=
  let (i, s) := s.draw
  let t := s.micros + Config.microseconds i
  (t, { s with micros := t })

/-- The event of a log entry (R405). -/
def State.logEvent (s : State) (log seq part : Nat) : State :=
  let e := [3#8, BitVec.ofNat 8 log] ++ List.replicate 6 0#8 ++ leBytes seq 8
  if part = 0xFF then s.postAll e else s.postEvent part e

/-- The location that a check covers, as one number (R405). -/
def EccEntry.location (e : EccEntry) : Nat :=
  let span := if e.unit ≤ 3 then 8 else if e.unit = 4 ∨ 6 ≤ e.unit ∧ e.unit ≤ 8 then 32 else 1
  (e.addr / span * 2 ^ 16 + e.place) * 16 + e.unit

/-- An array-ECC entry is written, at most one of kind 1 per millisecond for one location (R405). -/
def State.logEcc (s : State) (e : EccEntry) : State :=
  let (t, s) := s.now
  let old := s.ecc.reverse.find? fun x => x.kind == 1 && x.location == e.location
  if e.kind = 1 ∧ old.any (fun x => decide (t < x.time + 1000)) then
    { s with suppressed := Tab.put s.suppressed e.location (min 255 (Tab.get 0 s.suppressed e.location + 1)) }
  else
    let n := s.ecc.length
    let s : State :=
      { s with
        ecc := s.ecc ++ [{ e with time := t, repeats := if e.kind = 1 then Tab.get 0 s.suppressed e.location else 0 }]
        suppressed := if e.kind = 1 then Tab.drop s.suppressed e.location else s.suppressed }
    s.logEvent 0 n e.part

/-- A transfer entry is written (R405). -/
def State.logXfer (s : State) (e : XferEntry) : State :=
  let (t, s) := s.now
  let n := s.xfer.length
  let s : State := { s with xfer := s.xfer ++ [{ e with time := t }] }
  s.logEvent 1 n e.part

def EccEntry.bytes (e : EccEntry) (seq : Nat) : List Byte :=
  leBytes seq 8 ++ leBytes e.kind 1 ++ leBytes e.unit 1 ++ leBytes e.place 2 ++ leBytes e.part 1 ++
    leBytes e.repeats 1 ++ leBytes e.syndrome 2 ++ leBytes e.addr 8 ++ leBytes e.time 8

def XferEntry.bytes (e : XferEntry) (seq : Nat) : List Byte :=
  leBytes seq 8 ++ leBytes e.kind 1 ++ leBytes e.path 1 ++ leBytes e.place 2 ++ leBytes e.attempts 1 ++
    leBytes e.lane 1 ++ leBytes e.spares 1 ++ leBytes e.part 1 ++ leBytes e.addr 8 ++ leBytes e.time 8

/-- The bytes of a log: its header and its 47 slots, each with the youngest entry that lies in it (R405). -/
def logBytes (magic : List Byte) (entries : List (List Byte)) : List Byte :=
  let n := entries.length
  let slot (k : Nat) : List Byte :=
    if n ≤ k then List.replicate 32 0#8 else entries.getD (k + (n - 1 - k) / 47 * 47) []
  magic ++ leBytes 1 2 ++ leBytes 47 2 ++ leBytes n 8 ++ List.replicate 16 0#8 ++ (List.range 47).flatMap slot

/-! ## Poison consumed (R403, R405) -/

/-- Poison consumed on a core, or on the way to it, is logged with the word's address (R405; the unit is log 26's). -/
def State.logPoison (s : State) (core addr : Nat) : State :=
  s.logEcc { kind := 3, unit := 3, place := core, part := s.partOfStack (stackOf core), repeats := 0, syndrome := 0,
             addr := addr, time := 0 }

/-- What of a block's warps has stopped at poison is logged as consumed. -/
def State.logStopped (s : State) (b : Nat) : State :=
  (s.warpsOf b).foldl (fun (s : State) k =>
    let w := s.warp k
    if w.stat = .stopped ∧ !w.byStop ∧ w.cause.toNat % 128 = Cause.poison.code then s.logPoison (coreOfWarp k) w.taddr.toNat
    else s) s

end Sys2Proof.Machine
end

