-- ==== Sys2Proof/Machine/Objects.lean ====
section
/-! DEFINITION. Barrier objects and bar (spec/14 R311 to R318). -/

namespace Sys2Proof.Machine

/-- The fields of a barrier object (R311). -/
structure Obj where
  phase : Nat
  bytes : Nat
  arr : Nat
  count : Nat
  deriving DecidableEq, Repr

/-- The object that a word holds (R311). -/
def Obj.ofNat (n : Nat) : Obj :=
  { phase := bits n 63 63, bytes := bits n 62 32, arr := bits n 31 16, count := bits n 15 0 }

/-- The word of an object (R311). -/
def Obj.num (o : Obj) : Nat := o.phase % 2 * 2 ^ 63 + o.bytes % 2 ^ 31 * 2 ^ 32 + o.arr % 2 ^ 16 * 2 ^ 16 + o.count % 2 ^ 16

/-- The completion test after an update (R312). -/
def Obj.test (o : Obj) : Obj := if o.arr = 0 ∧ o.bytes = 0 then { o with phase := 1 - o.phase, arr := o.count } else o

/-- The object at an offset of a block's scratchpad. -/
def State.objAt (s : State) (b off : Nat) : Obj := Obj.ofNat ((s.block b).scratch.num off 8)

/-- One indivisible update of an object, followed by the completion test (R312). -/
def State.updateObj (s : State) (b off : Nat) (f : Obj → Obj) : State :=
  let s := s.scratchPrep b off 8
  s.scratchWrite b off (leBytes (f (s.objAt b off)).test.num 8)

/-- A credit of bytes written (R312). -/
def State.credit (s : State) (b off n : Nat) : State :=
  s.updateObj b off fun o => { o with bytes := (o.bytes + 2 ^ 31 - n % 2 ^ 31) % 2 ^ 31 }

/-- The space and the scope that field z gives (R313). -/
def objSpace (z : BitVec 2) : Space := if z.getLsbD 0 then .c else .l
def objScope (z : BitVec 2) : Nat := if z.getLsbD 1 then 1 else 0

/-- The address of the object a word names (R313). -/
def State.objAddr (s : State) (x : BitVec 6) (k : BitVec 3) : Nat :=
  (s.rdS (48 + k.toNat) + s.rdS x.toNat + wordOfInt s.off).toNat

/-- The block and offset of the object at an address, or the trap of the address (R313); reads tells whether the old
word is read, which a poisoned word does not allow (R403). -/
def State.objPlaceAt (s : State) (a : Nat) (z : BitVec 2) (reads : Bool) : Except MemFault (Nat × Nat × Nat) :=
  if a % 8 ≠ 0 then .error ⟨.align, a, 0#16⟩
  else
    match s.placeOf s.myBlock (objSpace z) a 8 with
    | some (.scratch b o) =>
      if reads ∧ (poisonIn (s.block b).poison o 8).isSome then .error ⟨.poison, a, 0#16⟩ else .ok (a, b, o)
    | _ => .error ⟨.bounds, a, 0#16⟩

/-- The block and offset of the object a word names, or the trap of its address. -/
def State.objPlace (s : State) (x : BitVec 6) (z : BitVec 2) (k : BitVec 3) (reads : Bool) :
    Except MemFault (Nat × Nat × Nat) := s.objPlaceAt (s.objAddr x k) z reads

/-- BOSET (R313). -/
def execBoset (h : Hdr) (d x : BitVec 6) (z : BitVec 2) (k : BitVec 3) (s : State) : Out :=
  if !s.taken h then .next s
  else
    match s.objPlace x z k false with
    | .error f => .next (s.memTrap f)
    | .ok (a, b, o) =>
      let v := (s.rdS d.toNat).toNat
      let n := bits v 15 0
      if bits v 62 16 ≠ 0 ∨ n = 0 then .next (s.memTrap ⟨.bounds, a, 0#16⟩)
      else
        let s := (s.beginRelease false s.mask).2
        .next (s.updateObj b o fun _ => { phase := bits v 63 63, bytes := 0, arr := n, count := n })

/-- BOMARK (R313, R315): a release at its scope whose update is the release write. -/
def execBomark (h : Hdr) (d x : BitVec 6) (z : BitVec 2) (k : BitVec 3) (s : State) : Out :=
  if !s.taken h then .next s
  else
    match s.objPlace x z k true with
    | .error f => .next (s.memTrap f)
    | .ok (a, b, o) =>
      let obj := (s.scratchPrep b o 8).objAt b o
      if obj.arr = 0 then .next (s.memTrap ⟨.bounds, a, 0#16⟩)
      else
        let s := ((s.beginRelease false s.mask).2.release (objScope z) true).2
        let s := s.updateObj b o fun o => { o with arr := o.arr - 1 }
        .next (s.putS d.toNat (BitVec.ofNat 64 obj.phase))

/-- BOADD (R313). -/
def execBoadd (h : Hdr) (d x : BitVec 6) (z : BitVec 2) (k : BitVec 3) (s : State) : Out :=
  if !s.taken h then .next s
  else
    match s.objPlace x z k true with
    | .error f => .next (s.memTrap f)
    | .ok (a, b, o) =>
      let v := (s.rdS d.toNat).toNat
      if 2 ^ 31 ≤ v then .next (s.memTrap ⟨.bounds, a, 0#16⟩)
      else
        let s := (s.beginRelease false s.mask).2
        .next (s.updateObj b o fun o => { o with bytes := (o.bytes + v) % 2 ^ 31 })

/-- The object's address, and the token and limit in the layout of S[d], that a `bowait` of a restored slot takes from its
wake condition (R316), or that it reads. -/
def State.waitOperands (s : State) (d x : BitVec 6) (k : BitVec 3) : Nat × Nat :=
  match s.mic.wake with
  | .bowait a t n => (a, n * 2 ^ 32 + if t then 1 else 0)
  | _ => (s.objAddr x k, (s.rdS d.toNat).toNat)

/-- BOWAIT (R313, R315, R316): the slot waits while the phase equals the token. -/
def execBowait (h : Hdr) (d x : BitVec 6) (z : BitVec 2) (k : BitVec 3) (s : State) : Out :=
  if !s.taken h then .next s
  else if s.mic.wake = .done true then .next ((s.acquire (objScope z)).putS d.toNat 1#64)
  else if s.mic.wake = .done false then .next (s.putS d.toNat 0#64)
  else
    let (at_, v) := s.waitOperands d x k
    match s.objPlaceAt at_ z true with
    | .error f => .next (s.memTrap f)
    | .ok (a, b, o) =>
      let t := v % 2
      let limit := bits v 63 32
      if bits v 31 1 ≠ 0 then .next (s.memTrap ⟨.bounds, a, 0#16⟩)
      else
        let s := s.scratchPrep b o 8
        if (s.objAt b o).phase ≠ t then .next ((s.acquire (objScope z)).putS d.toNat 1#64)
        else
          let s := s.waitFor (.bowait b o (t == 1) limit d.toNat z)
          .next (if limit = 0 then s else s.later (.bowaitExpire s.cur.warp s.cur.slotB))

/-- BOPEEK (R313, R315). -/
def execBopeek (h : Hdr) (d x : BitVec 6) (z : BitVec 2) (k : BitVec 3) (s : State) : Out :=
  if !s.taken h then .next s
  else
    match s.objPlace x z k true with
    | .error f => .next (s.memTrap f)
    | .ok (a, b, o) =>
      let v := (s.rdS d.toNat).toNat
      if 2 ≤ v then .next (s.memTrap ⟨.bounds, a, 0#16⟩)
      else
        let s := s.scratchPrep b o 8
        if (s.objAt b o).phase ≠ v then .next ((s.acquire (objScope z)).putS d.toNat 1#64)
        else .next (s.putS d.toNat 0#64)

/-- BOWAIT_EXPIRE (R316): the limit passes; a phase that has completed by then still returns 1. -/
def execBowaitExpire (warp : Nat) (slotB : Bool) (s : State) : Out :=
  let t : Turn := ⟨warp, slotB⟩
  let w := ((s.warp warp).micro slotB).wait
  match w with
  | .bowait _ _ _ limit _ _ =>
    if limit = 0 ∧ !s.objDone w ∨ (s.warp warp).stat ≠ .running then .next s
    else .next (s.endBowait t (s.objDone w))
  | _ => .next s

/-! ## bar (R317, R318) -/

/-- BAR (R317): a restored slot that executes it again under its wake condition has arrived already (R320). -/
def execBar (h : Hdr) (a : BitVec 6) (i : BitVec 4) (s : State) : Out :=
  if !s.taken h then .next s
  else if s.mic.wake = .bar i.toNat true then .next s
  else if s.mic.wake = .bar i.toNat false then .next (s.waitFor (.bar i.toNat))
  else
    let b := s.block s.myBlock
    let n := i.toNat
    let x := Tab.get {} b.bars n
    let v := if a = 0#6 then 0 else (s.rdS a.toNat).toNat
    let m := BitVec.ofNat 32 v
    let badMask := decide (a ≠ 0#6) &&
      (decide (2 ^ 32 ≤ v) || decide (v = 0) || decide (2 ^ b.warps ≤ v) || !m.getLsbD s.cw.idx)
    if badMask ∨ (x.fixed ∧ x.mask ≠ m) then .next (s.trapHere .bounds)
    else
      let x : Bar := { fixed := true, mask := m, arrived := x.arrived ||| BitVec.ofNat 32 (2 ^ s.cw.idx) }
      let s := s.setBlock s.myBlock { b with bars := Tab.put b.bars n x }
      let s := (s.setCw { s.cw with trailing := without s.cw.trailing n }).untrigger s.cur.warp
      if s.barFull s.myBlock x then .next (s.barCheck s.myBlock n)
      else .next ((s.waitFor (.bar n)).barCheck s.myBlock n)

end Sys2Proof.Machine
end

