-- ==== Sys2Proof/Machine/Tiles.lean ====
section
/-! DEFINITION. Tile descriptors, the checks of acceptance, the range scoreboard and the tile queue (spec/10 R205 to
R208, R215 to R218; spec/14 R304 to R306, R310). -/

namespace Sys2Proof.Machine

/-! ## Descriptors (R205) -/

/-- A tile descriptor (R205). -/
structure Desc where
  base : Nat
  high : Nat
  soff : Nat
  tmp : Bool
  space : Nat
  swz : Nat
  stride : Nat
  rows : Nat
  deriving DecidableEq, Repr

/-- The descriptor that a register pair holds; rows is the number of rows. -/
def descOf (base shape : Word) : Desc :=
  let n := shape.toNat
  { base := base.toNat, high := bits n 63 56, soff := bits n 55 36, tmp := bits n 35 35 == 1, space := bits n 34 32,
    swz := bits n 31 29, stride := bits n 26 11, rows := bits n 10 0 + 1 }

/-- The nf register that a shape names. -/
def shapeNf (shape : Word) : Nat := bits shape.toNat 28 27

/-- A descriptor that traps FORMAT whatever the instruction (R205). -/
def Desc.bad (d : Desc) : Bool := d.high != 0 || decide (4 ≤ d.space) || (d.swz != 0 && decide (2 ≤ d.space))

/-- The space of a code (R205). -/
def spaceOf (n : Nat) : Space :=
  match n with
  | 0 => .l
  | 1 => .c
  | 2 => .k
  | _ => .g

/-! ## Opcodes -/

/-- Instructions that read t1 as a descriptor pair, t2 as a pair, and t3 as a register (R235). -/
def pairOne (op : Nat) : Bool := [0xF0, 0xF1, 0xF2, 0xF3, 0xF4, 0xF6, 0xF8, 0xFA, 0xFD].contains op
def pairTwo (op : Nat) : Bool := [0xF0, 0xF1, 0xF8, 0xFA].contains op
def readsThree (op : Nat) : Bool := [0xF0, 0xF1, 0xF6, 0xF8, 0xFA, 0xFD].contains op
/-- Instructions with an engine control word (R217). -/
def hasCtl (op : Nat) : Bool := [0xF2, 0xF3, 0xF4, 0xF5, 0xF6, 0xF7, 0xF9].contains op
/-- Instructions with an auxiliary word (R218). -/
def hasAux (op : Nat) : Bool := [0xF6, 0xF8, 0xFA, 0xFD].contains op
/-- Instructions that need the baton (R213). -/
def needsBaton (op : Nat) : Bool := [0xF2, 0xF3, 0xF4, 0xF5, 0xF6, 0xF7, 0xF9].contains op
/-- Instructions of the stream unit; the others run in the load unit (R216). -/
def onStream (op : Nat) : Bool := [0xF4, 0xF5, 0xF6, 0xF7, 0xF9].contains op
/-- Instructions that read no format through a shape: copies through neither, a fill not through its own (R227, R305). -/
def noFormat (op : Nat) : Bool := op == 0xF0 || op == 0xF1 || op == 0xFD
/-- Copies (R303). -/
def isCopy (op : Nat) : Bool := op == 0xF0 || op == 0xF1

/-! ## Kept values (R235) -/

def TileOp.val (t : TileOp) (m : Nat) : Word := t.vals.getD m 0#64
def TileOp.ctl (t : TileOp) : Nat := (t.val 2).toNat
def TileOp.aux (t : TileOp) : Nat := (t.val 4).toNat
def TileOp.one (t : TileOp) : Desc := descOf (t.val 0) (t.val 1)
def TileOp.two (t : TileOp) : Desc := descOf (t.val 2) (t.val 3)
def TileOp.core (t : TileOp) : Nat := coreOfBlock t.block

/-- Fields of the engine control word (R217). -/
def ctlTag (c : Nat) : Nat := bits c 63 56
def ctlChain (c : Nat) : Nat := bits c 55 54
def ctlFold (c : Nat) : Bool := bits c 53 53 == 1
def ctlAi (c : Nat) : Bool := bits c 36 36 == 1
def ctlRelu (c : Nat) : Bool := bits c 35 35 == 1
def ctlClear (c : Nat) : Bool := bits c 34 34 == 1
def ctlAcc (c : Nat) : Bool := bits c 33 33 == 1
def ctlBank (c : Nat) : Nat := bits c 32 32
def ctlTarget (c : Nat) : Bool := bits c 31 31 == 1
def ctlCount (c : Nat) : Nat := bits c 29 20 + 1
def ctlShift (c : Nat) : Int := sextNat (bits c 17 10) 8
def ctlRow0 (c : Nat) : Nat := bits c 9 0

/-- A must-be-zero field of the control word is set; a delivered weight load may carry the fold mark (R217, R237). -/
def TileOp.ctlBad (t : TileOp) : Bool :=
  let c := t.ctl
  bits c 52 37 != 0 || (ctlFold c && !(t.rewritten.isSome && (t.op == 0xF2 || t.op == 0xF3))) || bits c 30 30 != 0 ||
    bits c 19 18 != 0

/-- Fields of the auxiliary word (R218) and of the copy control word (R304). -/
def auxBar (x : Nat) : Nat := bits x 63 32
def auxBv (x : Nat) : Bool := bits x 31 31 == 1
def auxOrder (x : Nat) : Bool := bits x 16 16 == 1
def auxCount (x : Nat) : Nat := bits x 10 0
def copyMask (x : Nat) : Nat := bits x 27 24
def copyLen (x : Nat) : Nat := bits x 15 0

/-! ## Formats of matrix rows (R208) -/

/-- The depth of a width in elements (R208). -/
def depthOf (w : Nat) : Nat :=
  match w with
  | 16 => 192
  | 8 => 384
  | 6 => 512
  | _ => 768

/-- A format that a matrix row may have (R208). -/
def matrixOk (f : Nf) : Bool :=
  match f.width with
  | 16 => f.kind == 2
  | 8 => decide (f.kind ≤ 3)
  | 6 => f.kind == 2
  | 4 => decide (f.kind ≤ 2)
  | _ => false

/-- An accepted pair of activation and weight formats (R208). -/
def pairOk (a w : Nf) : Bool := matrixOk a && matrixOk w && a.width == w.width && a.isInt == w.isInt

/-! ## The memory an instruction touches -/

/-- One side of a tile instruction: its descriptor, the bytes of a row, its scale rows and their bytes. -/
structure Side where
  d : Desc
  len : Nat
  scaleRows : Nat := 0
  scaleLen : Nat := 0
  /-- The bytes of a scale row that are read: those of its groups (R162). -/
  scaleRead : Nat := 0
  dest : Bool := false
  deriving DecidableEq, Repr

/-- The address of row r (R206). -/
def Desc.row (d : Desc) (r : Nat) : Nat := (d.base + r * d.stride) % 2 ^ 64
/-- The address of scale row r of a side (R206). -/
def Side.scaleAt (e : Side) (r : Nat) : Nat := (e.d.base + 16 * e.d.soff + e.scaleLen * r) % 2 ^ 64

/-- The first byte and length of every row and scale row. A scale row counts with its 32 bytes, also where its groups have
fewer read (R162): that a watch on the others is hit is the model's choice (R400; log 57). -/
def Side.spans (e : Side) : List (Nat × Nat) :=
  (List.range e.d.rows).map (fun r => (e.d.row r, e.len)) ++
    (List.range e.scaleRows).map fun r => (e.scaleAt r, e.scaleLen)

/-- The sides of an instruction, destination first (R219 to R227, R305). -/
def TileOp.sides (t : TileOp) : List Side :=
  let d := t.one
  let e := t.two
  let f := nfOf t.f1
  let g := nfOf t.f2
  let has := d.soff != 0
  match t.op with
  | 0xF0 | 0xF1 =>
    [{ d := d, len := copyLen t.aux, dest := true }, { d := e, len := copyLen t.aux }]
  | 0xF2 | 0xF4 =>
    [{ d := d, len := 384, scaleRows := if has then d.rows else 0, scaleLen := 32, scaleRead := depthOf f.width / 32 }]
  | 0xF3 =>
    [{ d := d, len := 8 * f.width, scaleRows := if has then (d.rows + 31) / 32 else 0, scaleLen := 64
       scaleRead := 64 }]
  | 0xF6 => [{ d := d, len := 8 * f.cont, dest := true }]
  | 0xF8 =>
    [{ d := d, len := e.rows * f.width / 8, dest := true }, { d := e, len := d.rows * g.width / 8 }]
  | 0xFA =>
    let len (x : Nf) : Nat :=
      if auxOrder t.aux ∧ (x.width = 4 ∨ x.width = 6) then 384 else auxCount t.aux * x.cont / 8
    [{ d := d, len := len f, dest := true }, { d := e, len := len g }]
  | 0xFD => [{ d := d, len := auxCount t.aux, dest := true }]
  | _ => []

/-- The instruction moves data over its router: some side lies outside the block's own pool (R361). -/
def TileOp.travels (t : TileOp) : Bool := t.sides.any fun e => e.d.space != 0

/-- The injection and memory budgets of a partition admit a request from a core (R361, R362). -/
def State.trafficOpen (s : State) (core part : Nat) : Bool :=
  let x := s.part part
  (x.inj == 0 || decide ((s.cluster (clusterOf core)).injected < x.inj)) && (x.mem == 0 || decide (x.memUsed < x.mem))

/-- What a request costs the budgets; its flits and the DRAM bytes it moves are free (R361, R362; log 4). -/
def State.chargeTraffic (s : State) (core part : Nat) : State :=
  let x := s.part part
  let s :=
    if x.inj = 0 then s
    else
      let (i, s) := s.draw
      let u := s.cluster (clusterOf core)
      s.setCluster (clusterOf core) { u with injected := u.injected + Config.counted i }
  if x.mem = 0 then s
  else
    let (i, s) := s.draw
    s.setPart part { s.part part with memUsed := (s.part part).memUsed + Config.counted i }

/-- The partition of an instruction's block. -/
def State.tilePart (s : State) (t : TileOp) : Nat := (s.launch (s.block t.block).launch).part

/-- The physical address of a byte of a page checked at acceptance (R307). -/
def TileOp.phys (t : TileOp) (va : Nat) : Nat :=
  match t.pages.find? fun p => p.1 == va / 2 ^ 16 * 2 ^ 16 with
  | none => va
  | some p => p.2 + va % 2 ^ 16

/-- An instruction of the two units meets a DRAM channel that repeats a transfer (R406). -/
def State.tileWaits (s : State) (t : TileOp) : Bool :=
  !s.attempts.isEmpty && t.sides.any fun e => decide (spaceOf e.d.space = .g) &&
    e.spans.any fun a => (s.busyChannel (t.phys a.1) a.2).isSome

/-- The budgets admit the requests that an instruction makes next, and what these cost them (R361, R362). -/
def State.tileOpens (s : State) (t : TileOp) : Bool := !t.travels || s.trafficOpen t.core (s.tilePart t)
def State.chargeTile (s : State) (t : TileOp) : State :=
  if t.travels then s.chargeTraffic t.core (s.tilePart t) else s

/-- The blocks that receive a multicast (R306), with the number of the core in its cluster. -/
def State.receivers (s : State) (t : TileOp) : List (Nat × Option Nat) :=
  ((List.range 4).filter fun j => (copyMask t.aux).testBit j).map fun j => (j, s.windowBlock t.block j)

/-! ## FORMAT (R215 step 2) -/

/-- The format that a bank holds once every earlier accepted load of it has finished, extra naming words accepted
with this one; none where it is empty (R204). -/
def State.bankFormat (s : State) (core bank : Nat) (extra : List TileOp) : Option Word :=
  let c := s.core core
  let loads (t : TileOp) : Bool := (t.op == 0xF2 || t.op == 0xF3) && ctlBank t.ctl == bank
  match ((c.loadBusy.toList ++ c.queue ++ extra).filter loads).getLast? with
  | some t => some t.f1
  | none =>
    let b := if bank = 0 then c.bank0 else c.bank1
    if b.loaded then some b.fmt else none

/-- The format checks of an instruction (R205, R208, R219 to R227, R305). -/
def State.tileFormatBad (s : State) (t : TileOp) (extra : List TileOp) : Bool :=
  let d := t.one
  let e := t.two
  let f := nfOf t.f1
  let g := nfOf t.f2
  let intScaled := f.isInt && d.soff != 0
  (pairOne t.op && d.bad) || (pairTwo t.op && e.bad) ||
  match t.op with
  | 0xF0 => d.soff != 0 || e.soff != 0 || d.rows != e.rows
  | 0xF1 => d.soff != 0 || e.soff != 0 || d.rows != e.rows || d.space != 1
  | 0xF2 => !matrixOk f || intScaled
  | 0xF3 => !matrixOk f || intScaled || (f.width != 8 && f.width != 16)
  | 0xF4 =>
    !matrixOk f || intScaled || decide (2 ≤ d.space) ||
      (match s.bankFormat t.core (ctlBank t.ctl) extra with
       | none => true
       | some w => !pairOk f (nfOf w))
  | 0xF6 => decide (4 ≤ f.kind) || d.soff != 0
  | 0xF8 =>
    decide (4 ≤ g.kind) || (g.width != 8 && g.width != 16) || f.width != g.width || d.soff != 0 || e.soff != 0
  | 0xF9 =>
    if ctlTarget t.ctl then ctlAi t.ctl
    else match s.bankFormat t.core (ctlBank t.ctl) extra with
      | none => true
      | some w => (nfOf w).isInt
  | 0xFA =>
    let n := auxCount t.aux
    d.rows != e.rows || d.soff != 0 || e.soff != 0 ||
      (if auxOrder t.aux then
        [f, g].any fun x =>
          (x.width == 4 || x.width == 6) && n != depthOf x.width
       else (f.width == 4 || g.width == 4) && n % 2 != 0)
  | _ => false

/-! ## ALIGN and BOUNDS (R215 steps 3 and 4) -/

/-- Misaligned addresses of a side (R206). -/
def Side.misaligned (e : Side) : List Nat :=
  if e.d.base % 16 ≠ 0 then [e.d.base] else if e.d.stride % 16 ≠ 0 then [(e.d.base + e.d.stride) % 2 ^ 64] else []

/-- The word of an instruction with its barrier object's offset, where it is looked at (R218, R304). -/
def TileOp.object (t : TileOp) : Option Nat :=
  if hasAux t.op then some (auxBar t.aux) else if isCopy t.op ∧ auxBv t.aux then some (auxBar t.aux) else none

/-- Addresses that trap ALIGN, and whether the word itself does (R206, R218, R304). -/
def TileOp.alignFaults (t : TileOp) : List Nat :=
  t.sides.flatMap Side.misaligned ++ (match t.object with
    | some o => if o % 8 ≠ 0 then [o] else []
    | none => []) ++
  (if isCopy t.op ∧ copyLen t.aux % 16 ≠ 0 then [t.addr.toNat] else [])

/-- The lowest byte of a span outside the memory of its space, for a block (R30, R31, R206, R262). -/
def State.spanBad (s : State) (b : Nat) (sp : Space) (z a n : Nat) : Option Nat :=
  if z = 0 then
    match sp with
    | .l => let m := (s.block b).scratchSize; if a + n ≤ m then none else some (max a m)
    | .c =>
      if 2 ^ 23 ≤ a then some a
      else match s.windowBlock b (a / 2 ^ 21) with
        | none => some a
        | some y =>
          let m := (s.block y).scratchSize
          if a % 2 ^ 21 + n ≤ m then none else some (max a (a / 2 ^ 21 * 2 ^ 21 + m))
    | .k =>
      match (s.stack (stackOf (coreOfBlock b))).allocOf (s.block b).launch with
      | none => some a
      | some (_, m) => if a + n ≤ m then none else some (max a m)
    | .g => none
  else
    leastBy id (((List.range ((n + 7) / 8)).map fun i => swizzle (a + 8 * i) z).filter fun w =>
      (s.placeOf b sp w 1).isNone)

/-- The lowest bytes of a side outside its space. -/
def State.sideBad (s : State) (b : Nat) (e : Side) : List Nat :=
  e.spans.filterMap fun p => s.spanBad b (spaceOf e.d.space) e.d.swz p.1 p.2

/-- BOUNDS faults of the destination of a multicast: its window bits, and rows and object in every receiver (R306). -/
def State.multicastBad (s : State) (t : TileOp) : List Nat :=
  let d := t.one
  let rs := s.receivers t
  if 2 ^ 21 ≤ d.base then [d.base]
  else if copyMask t.aux = 0 ∨ rs.any (fun r => r.2.isNone) then [t.addr.toNat]
  else
    rs.flatMap fun r =>
      let y := r.2.getD 0
      ((List.range d.rows).filterMap fun i => s.spanBad y .l d.swz (d.row i) (copyLen t.aux)) ++
        (if auxBv t.aux then (s.spanBad y .l 0 (auxBar t.aux) 8).toList else [])

/-- A row range reaches past the last accumulator row (R217). -/
def accPast (row0 n : Nat) : Bool := decide (1024 < row0 + n)

/-- Whether the word itself traps BOUNDS by its control or auxiliary word (R217 to R227, R304). -/
def State.wordBounds (s : State) (t : TileOp) : Bool :=
  let d := t.one
  let c := t.ctl
  let x := t.aux
  (hasCtl t.op && t.ctlBad) || (hasAux t.op && (bits x 30 17 != 0 || bits x 15 11 != 0)) ||
  match t.op with
  | 0xF0 => bits x 30 28 != 0 || bits x 23 16 != 0 || copyMask x != 0 || copyLen x == 0
  | 0xF1 => bits x 30 28 != 0 || bits x 23 16 != 0 || copyLen x == 0
  | 0xF2 => decide (64 < d.rows)
  | 0xF3 => decide (depthOf (nfOf t.f1).width < d.rows)
  | 0xF4 =>
    accPast (ctlRow0 c) d.rows ||
      (ctlChain c != 0 && (decide (3 < t.core % 4 + ctlChain c) ||
        (List.range (ctlChain c + 1)).any fun i => (s.windowBlock t.block (t.core % 4 + i)).isNone))
  | 0xF6 => accPast (ctlRow0 c) d.rows || auxCount x != 0
  | 0xF7 => accPast (ctlRow0 c) (ctlCount c)
  | 0xF8 =>
    auxCount x != 0 || decide (24576 * 8 < t.two.rows * d.rows * (nfOf t.f1).width)
  | 0xF9 => ctlTarget c && accPast (ctlRow0 c) (ctlCount c)
  | 0xFA => auxCount x == 0 || decide (1024 < auxCount x)
  | 0xFD => auxCount x == 0
  | _ => false

/-- Every BOUNDS fault of an instruction, as trap addresses. -/
def State.boundsFaults (s : State) (t : TileOp) : List Nat :=
  (if s.wordBounds t then [t.addr.toNat] else
    (if t.op = 0xF1 then s.multicastBad t ++ (t.sides.drop 1).flatMap (s.sideBad t.block)
     else
      t.sides.flatMap (s.sideBad t.block) ++ (match t.object with
        | some o => (s.spanBad t.block .l 0 o 8).toList
        | none => [])))

/-! ## Translation and watchpoints (R215 step 5, R400) -/

/-- The lowest address of every 64 KiB piece that spans touch, by piece. -/
def piecesOf (spans : List (Nat × Nat)) : Tab Nat :=
  spans.foldl (fun (t : Tab Nat) (p : Nat × Nat) =>
    (List.range ((p.1 % 2 ^ 16 + p.2 + 2 ^ 16 - 1) / 2 ^ 16)).foldl (fun (t : Tab Nat) i =>
      let va := if i = 0 then p.1 else p.1 / 2 ^ 16 * 2 ^ 16 + i * 2 ^ 16
      Tab.put t (va / 2 ^ 16) (min va (Tab.get va t (va / 2 ^ 16)))) t) []

/-- The pieces of a side in rising order, each translated. -/
def State.xlatePieces (s : State) (t : TileOp) (k : Kind) : List (Nat × Nat) → Except MemFault (State × List (Nat × Nat))
  | [] => .ok (s, [])
  | (_, va) :: rest =>
    let launch := (s.block t.block).launch
    match s.translate t.core (s.launch launch).ctx (va % 2 ^ 64) k with
    | .bad c y => .error ⟨c, va % 2 ^ 64, y⟩
    | .ok s e =>
      let s := if k.writes then s.snapBefore launch va e else s
      match State.xlatePieces s t k rest with
      | .error f => .error f
      | .ok (s, ps) => .ok (s, (va / 2 ^ 16 * 2 ^ 16, e.phys (va / 2 ^ 16 * 2 ^ 16)) :: ps)

/-- The sides in global memory translated, every fault with the lowest address first. -/
def State.xlateSides (s : State) (t : TileOp) : List Side → Except MemFault (State × List (Nat × Nat))
  | [] => .ok (s, [])
  | e :: rest =>
    if e.d.space = 3 then
      match s.xlatePieces t (if e.dest then .dest else .source) (piecesOf e.spans), State.xlateSides s t rest with
      | .error f, .error g => .error (if g.addr < f.addr then g else f)
      | .error f, .ok _ => .error f
      | .ok _, .error g => .error g
      | .ok (s, ps), .ok _ =>
        match State.xlateSides s t rest with
        | .error g => .error g
        | .ok (s, qs) => .ok (s, ps ++ qs)
    else State.xlateSides s t rest

/-- The lowest watched address that the global sides touch. -/
def State.watchedSides (s : State) (t : TileOp) : Option Nat :=
  if t.pass then none
  else
    leastBy id ((t.sides.filter fun e => e.d.space == 3).flatMap fun e =>
      e.spans.filterMap fun p => watchHit (s.block t.block).watch (!e.dest) e.dest p.1 p.2)

/-- Every check of acceptance, in the order of R215. The answer gives the instruction with its pages (R307). -/
def State.checkTile (s : State) (t : TileOp) (extra : List TileOp) : Except MemFault (State × TileOp) :=
  if needsBaton t.op ∧ (s.core t.core).baton ≠ some t.warp then .error ⟨.baton, t.addr.toNat, 0#16⟩
  else if s.tileFormatBad t extra then .error ⟨.format, t.addr.toNat, 0#16⟩
  else
    match leastBy id t.alignFaults with
    | some a => .error ⟨.align, a, 0#16⟩
    | none =>
      match leastBy id (s.boundsFaults t) with
      | some a => .error ⟨.bounds, a, 0#16⟩
      | none =>
        match s.xlateSides t t.sides with
        | .error f => .error f
        | .ok (s', ps) =>
          match s.watchedSides t with
          | some a => .error ⟨.watch, a, 0#16⟩
          | none => .ok (s', { t with pages := ps })

/-! ## The range scoreboard (R310) -/

/-- The key of an address of a space for a block (R310). -/
def State.rangeKey (s : State) (b : Nat) (sp : Space) (a : Nat) : RangeKey :=
  match sp with
  | .l => .pool b
  | .c =>
    match s.windowBlock b (a / 2 ^ 21) with
    | some y => if y = b then .pool b else .window y
    | none => .window b
  | .k => .stack
  | .g => .global

/-- The offset of an address that ranges compare. -/
def rangeOffset (sp : Space) (a : Nat) : Nat := if sp = .c then a % 2 ^ 21 else a

/-- A row cut where its bytes stop being consecutive: at pages in global memory, at 8-byte words under a swizzle. -/
def chunksOf (sp : Space) (z a n : Nat) : List (Nat × Nat) :=
  if sp = .g then
    let k := min n (2 ^ 16 - a % 2 ^ 16)
    if k = n then [(a, n)] else [(a, k), (a + k, n - k)]
  else if z = 0 then [(a, n)]
  else (List.range ((n + 7) / 8)).map fun i => (swizzle (a + 8 * i) z, min 8 (n - 8 * i))

/-- The range of some pieces of consecutive bytes, from the first byte to the last, widened outward to 64-byte boundaries
(R310). -/
def rangeOf (key : RangeKey) (sp : Space) (ps : List (Nat × Nat)) (dest : Bool) (t : TileOp) : Range :=
  let first := rangeOffset sp ((leastBy id (ps.map (·.1))).getD 0)
  let last := ps.foldl (fun m p => max m (rangeOffset sp p.1 + p.2 - 1)) 0
  { key := key, first := first / 64 * 64, last := last / 64 * 64 + 63, dest := dest, tile := t }

/-- The ranges of one side: one for each core's window that it touches in cluster memory, else one (R310). -/
def State.sideRanges (s : State) (t : TileOp) (e : Side) : List Range :=
  let sp := spaceOf e.d.space
  let ps := e.spans.flatMap fun p => chunksOf sp e.d.swz p.1 p.2
  if t.op = 0xF1 ∧ e.dest then
    if (copyMask t.aux).testBit (t.core % 4) then [rangeOf (.pool t.block) sp ps true t] else []
  else if sp = .c then
    ((List.range 4).map fun k => ps.filter fun p => p.1 / 2 ^ 21 == k).filterMap fun qs =>
      qs.head?.map fun q => rangeOf (s.rangeKey t.block sp q.1) sp qs e.dest t
  else [rangeOf (s.rangeKey t.block sp 0) sp ps e.dest t]

/-- The ranges that an accepted instruction records (R310). -/
def State.rangesOf (s : State) (t : TileOp) : List Range := t.sides.flatMap (s.sideRanges t)

/-- An access of a block overlaps a recorded range of its core that holds it: a load waits for destinations, any other
access for every range (R310). -/
def State.rangeHeld (s : State) (b : Nat) (sp : Space) (load : Bool) (a n : Nat) : Bool :=
  let key := s.rangeKey b sp a
  let off := rangeOffset sp a
  (s.core (coreOfBlock b)).ranges.any fun r =>
    r.key == key && (r.dest || !load) && decide (off ≤ r.last) && decide (r.first < off + n)

/-! ## Copy budgets (R309) -/

/-- The context of a copy and its copy budget, 0 for none (R309, R346). -/
def State.copyCtx (s : State) (t : TileOp) : Nat := (s.launch (s.block t.block).launch).ctx
def State.copyBudget (s : State) (t : TileOp) : Nat := ((s.context (s.copyCtx t)).map (·.cbud)).getD 0

/-- The context's copy budget of the period is spent (R309). -/
def State.copyPaused (s : State) (t : TileOp) : Bool :=
  s.copyBudget t != 0 && decide (s.copyBudget t ≤ Tab.get 0 (s.core t.core).copied (s.copyCtx t))

/-! ## Acceptance -/

/-- The tile queue and the scoreboard have room for an instruction (R204, R310). -/
def State.tileRoom (s : State) (t : TileOp) : Bool :=
  let c := s.core t.core
  decide (c.queue.length < 8) && decide (c.ranges.length + (s.rangesOf t).length ≤ 16)

/-- The units of a core look for work: each starts the head of its part of the queue, and a chain whose participants
have all arrived starts (R216, R221, R303). -/
def State.stirUnits (s : State) (core : Nat) : State :=
  let q := (s.core core).queue
  let s := if q.any fun t => onStream t.op then s.later (.tileUnitStart core .stream) else s
  let s := if q.any fun t => !onStream t.op then s.later (.tileUnitStart core .load) else s
  if q.any fun t => isCopy t.op then s.later (.copyStart core) else s

/-- A chained mma or an mmarx, whose warp waits at the rendezvous (R221). -/
def TileOp.chained (t : TileOp) : Bool := t.op == 0xF5 || (t.op == 0xF4 && ctlChain t.ctl != 0)

/-- An instruction enters the tile queue with its ranges; a chained one that the window or a restore puts there blocks its
warp's slot at the rendezvous (R221, R237). -/
def State.acceptTile (s : State) (t : TileOp) : State :=
  let c := s.core t.core
  let s := (s.setCore t.core { c with queue := c.queue ++ [t], ranges := c.ranges ++ s.rangesOf t }).stirUnits t.core
  if t.chained ∧ t.back.isSome then
    let w := s.warp t.warp
    (s.setWarp t.warp (w.setMicro t.slotB { w.micro t.slotB with wait := .chain false })).later (.chainRendezvous t.core)
  else s

/-! ## Issue of a tile word -/

/-- The instruction that the issuing word makes, with its kept values (R235). -/
def State.tileOf (s : State) (op : Nat) (t1 t2 t3 : BitVec 6) : TileOp :=
  let S (on : Bool) (r : Nat) : Word := if on then s.rdS r else 0#64
  let v1 := S (pairOne op) (t1.toNat + 1)
  let v3 := S (pairTwo op) (t2.toNat + 1)
  { op := op
    word := BitVec.ofNat 32 (op * 2 ^ 18 + t1.toNat * 2 ^ 12 + t2.toNat * 2 ^ 6 + t3.toNat)
    warp := s.cur.warp
    block := s.myBlock
    slotB := s.cur.slotB
    vals := [s.rdS t1.toNat, v1, s.rdS t2.toNat, v3, S (readsThree op) t3.toNat]
    f1 := if pairOne op then s.rdNf (shapeNf v1) else 0#64
    f2 := if pairTwo op then s.rdNf (shapeNf v3) else 0#64
    addr := s.myAddr
    pass := s.cw.pass }

/-- The words of the chain group that issues. -/
def State.groupWords (s : State) : List W32 := groupOf (s.mic.pkt.drop s.mic.group)

/-- The word enters the rewrite window (R230, R232): a tile word other than a copy, of the baton's holder on the IE. A
warp that is being promoted issues nothing there (R111, R121). -/
def State.entersWindow (s : State) (t : TileOp) : Bool :=
  !isCopy t.op && (s.core t.core).baton == some t.warp && decide (s.cw.engine = .ie)

/-- The word's chain group holds another word than nop, which is a flush point of the same issue (R232; log 29). -/
def State.mixedGroup (s : State) : Bool :=
  decide (1 < (s.groupWords.filter fun w => decide (2 ≤ opOf w)).length)

/-- A tile or copy instruction that writes memory is the first write behind a release fence of the slot's lanes (R273,
R276): where it enters the window or is accepted, the releases are made. A write to global memory carries its record from
then on, and any other has the core write back (R284, R288; log 55). -/
def State.tileRelease (s : State) (t : TileOp) : TileOp × State :=
  if t.sides.any (·.dest) then
    let (ts, s) := s.beginRelease (t.sides.any fun e => e.dest && e.d.space == 3) s.mask
    ({ t with entry := (ts.filterMap (·.entry)).max? }, s)
  else (t, s)

/-- The issuing word traps with a fault of acceptance. -/
def State.tileTrap (s : State) (f : MemFault) : State :=
  s.takeTrap s.cur
    { cause := f.cause, taddr := BitVec.ofNat 64 f.addr, waddr := s.myAddr, synd := f.synd,
      pass := decide (f.cause = .watch) }

end Sys2Proof.Machine
end

