-- ==== Sys2Proof/Machine/Matrix.lean ====
section
/-! DEFINITION. The matrix engine (spec/10 R204 to R227): its tile words, the baton, the two units and the effect of
every tile instruction on banks, accumulators and memory. An instruction's whole effect happens when it finishes. -/

namespace Sys2Proof.Machine

/-! ## Reading and writing tile memory (R206, R207) -/

/-- A core's dirty bytes of the lines of a range go home (R305). -/
def State.pushLines (s : State) (core p n : Nat) : State :=
  s.writeBack core fun l => decide (p / 128 ≤ l.line) && decide (l.line ≤ (p + n - 1) / 128)

/-- A core's copies of the lines of a range leave its L1 (R207, R265). -/
def State.dropLines (s : State) (core p n : Nat) : State :=
  let c := s.core core
  s.setCore core
    (c.keepL1 (c.l1.filter fun l => !(decide (p / 128 ≤ l.line) && decide (l.line ≤ (p + n - 1) / 128))))

/-- One chunk of a tile read, with the first poisoned word among its bytes. -/
def State.tileReadAt (s : State) (t : TileOp) (sp : Space) (a n : Nat) : State × List Byte × Option Nat :=
  if sp = .g then
    let p := t.phys a
    if s.unreachable p then (s, List.replicate n 0#8, some a)
    else
      let (s, bs) := (s.pushLines t.core p n).homeRead p n
      (s, bs, (poisonIn s.poison p n).map fun w => a + w - p)
  else
    match s.placeOf t.block sp a n with
    | some (.scratch b o) =>
      let (s, bs, w) := s.scratchRead b o n
      (s, bs, w.map fun w => a + w - o)
    | some (.stack k o) =>
      let (s, bs, w) := s.stackRead k o n
      (s, bs, w.map fun w => a + w - o)
    | _ => (s, List.replicate n 0#8, none)

/-- A row of a tile read, with the first poisoned word (R206). -/
def State.tileRow (s : State) (t : TileOp) (d : Desc) (a n : Nat) : State × List Byte × Option Nat :=
  (chunksOf (spaceOf d.space) d.swz a n).foldl (fun (acc : State × List Byte × Option Nat) c =>
    let (s, bs, w) := acc.1.tileReadAt t (spaceOf d.space) c.1 c.2
    (s, acc.2.1 ++ bs, acc.2.2.or w)) (s, [], none)

/-- Rows of a tile read in rising order; the first poisoned word ends the read (R403). -/
def State.tileRows (s : State) (t : TileOp) (d : Desc) (n : Nat) : List Nat → Except Nat (State × List (List Byte))
  | [] => .ok (s, [])
  | a :: rest =>
    match s.tileRow t d a n with
    | (_, _, some w) => .error w
    | (s, bs, none) =>
      match State.tileRows s t d n rest with
      | .error w => .error w
      | .ok (s, r) => .ok (s, bs :: r)

/-- The addresses of a tile's rows. -/
def Desc.rowAddrs (d : Desc) : List Nat := (List.range d.rows).map d.row

/-- The signature of a warp takes a record of a write to G or K of its audited launch (R410). -/
def State.signFor (s : State) (k a : Nat) (bs : List Byte) : State :=
  let w := s.warp k
  if (s.launch (s.block w.block).launch).record.audit then
    s.setWarp k { w with sig := (leBytes a 8 ++ leBytes (2 ^ bs.length - 1) ((bs.length + 7) / 8) ++ bs).foldl crcByte w.sig }
  else s

/-- One chunk of a tile write (R207, R411). A release write carries its core's record (R284), and reads of its lines that
are in flight for the core find it (R265). -/
def State.tileWriteAt (s : State) (t : TileOp) (sp : Space) (a : Nat) (bs : List Byte) : State :=
  let s := if sp = .g ∨ sp = .k then s.signFor t.warp a bs else s
  if sp = .g then
    let p := t.phys a
    if (s.block t.block).replay then s
    else
      let ls := linesOf (cellsAt p bs)
      let s := (s.pushLines t.core p bs.length).dropLines t.core p bs.length
      let s := ls.foldl (fun s l => t.entry.elim s fun e => s.enterRecord l t.core e) s
      ls.foldl (fun s l => s.reread t.core l) (s.homeWrite p bs)
  else
    match s.placeOf t.block sp a bs.length with
    | some (.scratch b o) => s.scratchWrite b o bs
    | some (.stack k o) => if (s.block t.block).replay then s else s.stackWrite k o bs
    | _ => s

/-- A row of a tile written, and credited to the instruction's barrier object (R206, R218). -/
def State.writeRow (s : State) (t : TileOp) (d : Desc) (a : Nat) (bs : List Byte) : State :=
  let s := ((chunksOf (spaceOf d.space) d.swz a bs.length).foldl (fun (acc : State × List Byte) c =>
    (acc.1.tileWriteAt t (spaceOf d.space) c.1 (acc.2.take c.2), acc.2.drop c.2)) (s, bs)).1
  if auxBv t.aux then s.credit t.block (auxBar t.aux) bs.length else s

/-- Rows of a destination written in rising order. -/
def State.writeRows (s : State) (t : TileOp) (d : Desc) (rows : List (List Byte)) : State :=
  (rows.zipIdx).foldl (fun s r => s.writeRow t d (d.row r.2) r.1) s

/-! ## Elements of rows (R159 to R161) -/

/-- Element j of a 384-byte matrix row (R160, R161). -/
def matrixElem (w : Nat) (b : Nat → Nat) (j : Nat) : Nat :=
  match w with
  | 16 => b (2 * j) + 256 * b (2 * j + 1)
  | 8 => b j
  | 6 => (if j < 256 then b j % 16 else b (j - 256) / 16) + 16 * (b (256 + j / 4) / 4 ^ (j % 4) % 4)
  | _ => if j < 384 then b j % 16 else b (j - 384) / 16

/-- The matrix row of elements, for the widths whose packing is not register order (R160, R161). -/
def matrixRow (w : Nat) (g : Nat → Nat) : List Byte :=
  (List.range 384).map fun j => BitVec.ofNat 8 <|
    if w = 6 then
      if j < 256 then g j % 16 + 16 * (g (j + 256) % 16)
      else
        let q := 4 * (j - 256)
        g q / 16 % 4 + 4 * (g (q + 1) / 16 % 4) + 16 * (g (q + 2) / 16 % 4) + 64 * (g (q + 3) / 16 % 4)
    else g j % 16 + 16 * (g (j + 384) % 16)

/-- Element j of a row in register order, in containers of c bits (R159). -/
def regElem (c : Nat) (b : Nat → Nat) (j : Nat) : Nat :=
  if c = 4 then b (j / 2) / 16 ^ (j % 2) % 16
  else ((List.range (c / 8)).map fun i => b (c / 8 * j + i) * 256 ^ i).sum

/-- The row of n elements in register order (R159). -/
def regRow (c : Nat) (g : Nat → Nat) (n : Nat) : List Byte := leBytes (packElems c g n) (n * c / 8)

/-- The bytes of a list by position. -/
def byteFn (bs : List Byte) (i : Nat) : Nat := (bs.getD i 0#8).toNat

/-! ## Accumulators and banks (R204) -/

def Core.acc0 (c : Core) (row col : Nat) : Nat := (Tab.get 0#32 c.accum (64 * row + col)).toNat
/-- The accumulator memory with one element replaced; a zero element is not listed. -/
def accPut (t : Tab W32) (row col v : Nat) : Tab W32 :=
  if v % 2 ^ 32 = 0 then Tab.drop t (64 * row + col) else Tab.put t (64 * row + col) (BitVec.ofNat 32 v)

def Core.bank (c : Core) (b : Nat) : Bank := if b = 0 then c.bank0 else c.bank1
def Core.setBank (c : Core) (b : Nat) (x : Bank) : Core := if b = 0 then { c with bank0 := x } else { c with bank1 := x }

/-- The scale exponent byte E of a column's group (R219). -/
def Bank.scale (b : Bank) (col g : Nat) : Nat := (Tab.get 127#8 b.scales (24 * col + g)).toNat
/-- Byte i of a column's weights. -/
def Bank.byte (b : Bank) (col i : Nat) : Nat := (Tab.get 0#8 b.bytes (384 * col + i)).toNat

/-- The fold of a shift into every scale of a bank (R224, R237). -/
def Bank.shifted (b : Bank) (n : Int) : Bank :=
  { b with
    scaled := true
    scales := (List.range 1536).filterMap fun k =>
      let e := (Tab.get 127#8 b.scales k).toNat
      let r := if e = 255 then 255 else (max 0 (min 254 ((e : Int) + n))).toNat
      if r = 127 then none else some (k, BitVec.ofNat 8 r) }

/-! ## The sums (R210, R211) -/

/-- fp32 rounding of an exact value, decoded again. -/
def rnd32 (v : Val) : Val := decodeElem fp32 (roundVal fp32 v)

/-- An exact value times a power of two. -/
def Val.shift (v : Val) (n : Int) : Val :=
  match v with
  | .fin s m e => .fin s m (e + n)
  | x => x

/-- One group's term: the exact sum of its 32 products under both scales, rounded once; a scale of 0xFF is NaN
(R209, R210). -/
def groupTerm (fa fw : Nf) (a w : Nat → Nat) (g ea ew : Nat) : Val :=
  if ea = 255 ∨ ew = 255 then .nan
  else
    let p := (List.range 32).map fun j =>
      (decodeElem fa (a (32 * g + j))).mul (decodeElem fw (w (32 * g + j)))
    rnd32 ((sumVals 0 p).shift ((ea : Int) - 127 + ((ew : Int) - 127)))

/-- One accumulator element after a row of a floating pair (R210). -/
def accFloat (fa fw : Nf) (a w : Nat → Nat) (sa sw : Nat → Nat) (x0 : Nat) : Nat :=
  roundVal fp32 <| (List.range (depthOf fw.width / 32)).foldl
    (fun x g => rnd32 (sumVals 0 [x, groupTerm fa fw a w g (sa g) (sw g)])) (decodeElem fp32 x0)

/-- One accumulator element after a row of an integer pair, and whether it saturated (R211). -/
def accInt (fa fw : Nf) (a w : Nat → Nat) (x0 : Nat) : Nat × Bool :=
  let r := (List.range (depthOf fw.width / 32)).foldl (fun (x : Int × Bool) g =>
    let s := ((List.range 32).map fun j => intVal fa (a (32 * g + j)) * intVal fw (w (32 * g + j))).sum
    let y := x.1 + s
    if 2 ^ 31 - 1 < y then (2 ^ 31 - 1, true) else if y < -(2 ^ 31) then (-(2 ^ 31), true) else (y, x.2))
    (sextNat x0 32, false)
  (intCode 32 r.1, r.2)

/-- An activation row as a stream carries it: its element function, its scales and its format. -/
structure StreamRow where
  elem : Nat → Nat
  scale : Nat → Nat

/-- A word of the accumulators lies in n rows from one on. -/
def accWordIn (row n w : Nat) : Bool := decide (row ≤ w / 32) && decide (w / 32 < row + n)

/-- Accumulator rows are written afresh: their words are good (R403). -/
def Core.cleanRows (c : Core) (row n : Nat) : Core :=
  { c with badAccum := c.badAccum.filter fun w => !accWordIn row n w }

/-- The stream's rows past one core's bank, into its accumulator rows (R210, R211, R220, R221). -/
def Core.stream (c : Core) (ctl : Nat) (fa : Nf) (rows : List StreamRow) : Core :=
  let c := c.cleanRows (ctlRow0 ctl) rows.length
  let b := c.bank (ctlBank ctl)
  let fw := nfOf b.fmt
  (rows.zipIdx).foldl (fun (c : Core) (r : StreamRow × Nat) =>
    let row := ctlRow0 ctl + r.2
    (List.range 64).foldl (fun (c : Core) col =>
      let w (j : Nat) : Nat := matrixElem fw.width (b.byte col) j
      let x0 := if ctlAcc ctl then c.acc0 row col else 0
      if fw.isInt then
        let v := accInt fa fw r.1.elem w x0
        { c with accum := accPut c.accum row col v.1, overflow := c.overflow || v.2 }
      else
        { c with accum := accPut c.accum row col (accFloat fa fw r.1.elem w r.1.scale (b.scale col) x0) }) c) c

/-- A core's rows in the form that streams carry: no scales where the tile has none (R209). -/
def streamRow (w : Nat) (scaled : Bool) (row scales : List Byte) : StreamRow :=
  { elem := fun j => matrixElem w (byteFn row) j, scale := fun g => if scaled then byteFn scales g else 127 }

/-- The rows and the scale rows of a weight or activation tile. -/
def State.tileAll (s : State) (t : TileOp) (e : Side) : Except Nat (State × List (List Byte) × List (List Byte)) :=
  match s.tileRows t e.d e.len e.d.rowAddrs with
  | .error w => .error w
  | .ok (s, rows) =>
    match s.tileRows t e.d e.scaleRead ((List.range e.scaleRows).map e.scaleAt) with
    | .error w => .error w
    | .ok (s, sc) => .ok (s, rows, sc)

/-! ## The instructions (R219 to R227) -/

/-- The listed entries of a table given by a function, in rising order. -/
def tabOf (n : Nat) (dflt : Byte) (f : Nat → Byte) : Tab Byte :=
  (List.range n).filterMap fun k => if f k = dflt then none else some (k, f k)

/-- Rows of a tile as they go into a bank (R219): wld's row is a column, wldt's a depth element of every column. -/
def bankOf (t : TileOp) (rows sc : List (List Byte)) : Bank :=
  let f := nfOf t.f1
  let at' (l : List (List Byte)) (r i : Nat) : Byte := (l.getD r []).getD i 0#8
  let n := f.width / 8
  let b : Bank :=
    if t.op = 0xF2 then
      { loaded := true, fmt := t.f1, scaled := t.one.soff != 0,
        bytes := (rows.zipIdx).flatMap fun (r : List Byte × Nat) =>
          (r.1.zipIdx).filterMap fun (b : Byte × Nat) => if b.1 = 0#8 then none else some (384 * r.2 + b.2, b.1),
        scales := tabOf 1536 127#8 fun k =>
          if k / 24 < sc.length ∧ k % 24 < depthOf f.width / 32 then at' sc (k / 24) (k % 24) else 127#8 }
    else
      { loaded := true, fmt := t.f1, scaled := t.one.soff != 0,
        bytes := (List.range 64).flatMap fun c => (List.range rows.length).flatMap fun r =>
          (List.range n).filterMap fun i =>
            if at' rows r (n * c + i) = 0#8 then none else some (384 * c + n * r + i, at' rows r (n * c + i)),
        scales := tabOf 1536 127#8 fun k => if k % 24 < sc.length then at' sc (k % 24) (k / 24) else 127#8 }
  if ctlFold t.ctl then b.shifted (ctlShift t.ctl) else b

/-- wld and wldt (R219). -/
def State.runLoad (s : State) (t : TileOp) : Except Nat State :=
  match t.sides with
  | [] => .ok s
  | e :: _ =>
    match s.tileAll t e with
    | .error w => .error w
    | .ok (s, rows, sc) => .ok (s.setCore t.core ((s.core t.core).setBank (ctlBank t.ctl) (bankOf t rows sc)))

/-- The members of a chain after its head: cores and their mmarx (R221). -/
def State.chainMembers (s : State) (t : TileOp) : List (Nat × TileOp) :=
  (List.range (ctlChain t.ctl)).filterMap fun i =>
    (s.core (t.core + 1 + i)).streamBusy.map fun m => (t.core + 1 + i, m)

/-- The first poisoned word that an instruction of the two units would consume in its core's stores, as an address of
R405: of the bank that a stream passes, or of accumulator rows that it reads (R403). -/
def State.storePoison (s : State) (t : TileOp) : Option Nat :=
  let c := s.core t.core
  let r := ctlRow0 t.ctl
  let accum (n : Nat) : Option Nat := (c.badAccum.find? (accWordIn r n)).map (8 * ·)
  match t.op with
  | 0xF4 | 0xF5 =>
    ((c.bank (ctlBank t.ctl)).poison.head?.map (8 * ·)).or (if ctlAcc t.ctl then accum t.one.rows else none)
  | 0xF6 => accum t.one.rows
  | 0xF9 => if ctlTarget t.ctl then accum (ctlCount t.ctl) else none
  | _ => none

/-- mma, with the members of its chain (R220 to R222). -/
def State.runMma (s : State) (t : TileOp) : Except Nat State :=
  match t.sides, (s.chainMembers t).findSome? fun m => s.storePoison { m.2 with vals := t.vals.take 2 ++ m.2.vals.drop 2 } with
  | [], _ => .ok s
  | _, some w => .error w
  | e :: _, none =>
    match s.tileAll t e with
    | .error w => .error w
    | .ok (s, rows, sc) =>
      let f := nfOf t.f1
      let rs := (rows.zipIdx).map fun (r : List Byte × Nat) =>
        streamRow f.width (t.one.soff != 0) r.1 (sc.getD r.2 [])
      let s := s.setCore t.core ((s.core t.core).stream t.ctl f rs)
      .ok ((s.chainMembers t).foldl (fun s m =>
        let c := (s.core m.1).stream m.2.ctl f rs
        (s.setCore m.1 { c with streamBusy := none }).stirUnits m.1) s)

/-- aread (R223). -/
def State.runAread (s : State) (t : TileOp) : State :=
  let d := t.one
  let f := nfOf t.f1
  let c := t.ctl
  let k := s.core t.core
  let value (r col : Nat) : Nat :=
    let x := k.acc0 (ctlRow0 c + r) col
    let v := if ctlAi c then Val.ofInt (sextNat x 32) else decodeElem fp32 x
    let y := v.shift (ctlShift c)
    let neg := match y with
      | .inf s => s
      | .fin s _ _ => s
      | .nan => false
    roundVal f (if ctlRelu c && neg then .fin false 0 0 else y)
  let rows := (List.range d.rows).map fun r => regRow f.cont (value r) 64
  let k := if ctlClear c then
      { k.cleanRows (ctlRow0 c) d.rows with accum := k.accum.filter fun e => !(decide (64 * ctlRow0 c ≤ e.1) && decide (e.1 < 64 * (ctlRow0 c + d.rows))) }
    else k
  (s.setCore t.core k).writeRows t d rows

/-- azero (R224). -/
def State.runAzero (s : State) (t : TileOp) : State :=
  let c := t.ctl
  let k := s.core t.core
  let rest := k.accum.filter fun e => !(decide (64 * ctlRow0 c ≤ e.1) && decide (e.1 < 64 * (ctlRow0 c + ctlCount c)))
  s.setCore t.core { k.cleanRows (ctlRow0 c) (ctlCount c) with accum := rest }

/-- tscl (R224). -/
def State.runTscl (s : State) (t : TileOp) : State :=
  let c := t.ctl
  let k := s.core t.core
  if ctlTarget c then
    let one (r col : Nat) : Nat := roundVal fp32 ((decodeElem fp32 (k.acc0 r col)).shift (ctlShift c))
    let acc := (List.range (ctlCount c)).foldl (fun (a : Tab W32) (r : Nat) =>
      (List.range 64).foldl (fun (a : Tab W32) (col : Nat) => accPut a (ctlRow0 c + r) col (one (ctlRow0 c + r) col)) a)
      k.accum
    s.setCore t.core { k with accum := acc }
  else s.setCore t.core (k.setBank (ctlBank c) ((k.bank (ctlBank c)).shifted (ctlShift c)))

/-- ttr (R225). -/
def State.runTtr (s : State) (t : TileOp) : Except Nat State :=
  let d := t.one
  let e := t.two
  let n := (nfOf t.f1).width / 8
  match s.tileRows t e (d.rows * n) e.rowAddrs with
  | .error w => .error w
  | .ok (s, src) =>
    .ok (s.writeRows t d ((List.range d.rows).map fun j => src.flatMap fun row => (row.drop (n * j)).take n))

/-- tcvt (R226). -/
def State.runTcvt (s : State) (t : TileOp) : Except Nat State :=
  let f := nfOf t.f1
  let g := nfOf t.f2
  let n := auxCount t.aux
  let packed (x : Nf) : Bool := auxOrder t.aux && (x.width == 4 || x.width == 6)
  let len := if packed g then 384 else n * g.cont / 8
  match s.tileRows t t.two len t.two.rowAddrs with
  | .error w => .error w
  | .ok (s, src) =>
    let row (bs : List Byte) : List Byte :=
      let get (j : Nat) : Nat :=
        (if packed g then matrixElem g.width (byteFn bs) j else regElem g.cont (byteFn bs) j) % 2 ^ g.width
      let out (j : Nat) : Nat := convElem t.f2 t.f1 (get j)
      if packed f then matrixRow f.width out else regRow f.cont out n
    .ok (s.writeRows t t.one (src.map row))

/-- tfill (R227). -/
def State.runTfill (s : State) (t : TileOp) : State :=
  let v := leBytes (t.val 2).toNat 8
  let row := (List.range (auxCount t.aux)).map fun i => v.getD (i % 8) 0#8
  s.writeRows t t.one (List.replicate t.one.rows row)

/-- The effect of an instruction of the two units; the answer is the address of a poisoned word where it stops. -/
def State.runTile (s : State) (t : TileOp) : Except Nat State :=
  match s.storePoison t with
  | some w => .error w
  | none =>
    match t.op with
    | 0xF2 | 0xF3 => s.runLoad t
    | 0xF4 => s.runMma t
    | 0xF6 => .ok (s.runAread t)
    | 0xF7 => .ok (s.runAzero t)
    | 0xF8 => s.runTtr t
    | 0xF9 => .ok (s.runTscl t)
    | 0xFA => s.runTcvt t
    | 0xFD => .ok (s.runTfill t)
    | _ => .ok s

/-! ## Dependences and the two units (R216) -/

/-- Banks read and written by an instruction. -/
def TileOp.bankUse (t : TileOp) : Option (Nat × Bool) :=
  match t.op with
  | 0xF2 | 0xF3 => some (ctlBank t.ctl, true)
  | 0xF4 | 0xF5 => some (ctlBank t.ctl, false)
  | 0xF9 => if ctlTarget t.ctl then none else some (ctlBank t.ctl, true)
  | _ => none

/-- Accumulator rows used by an instruction: the first, the first beyond, and whether they are written. -/
def TileOp.rowUse (t : TileOp) : Option (Nat × Nat × Bool) :=
  let r := ctlRow0 t.ctl
  match t.op with
  | 0xF4 => some (r, r + t.one.rows, true)
  | 0xF5 => some (r, 1024, true)
  | 0xF6 => some (r, r + t.one.rows, ctlClear t.ctl)
  | 0xF7 => some (r, r + ctlCount t.ctl, true)
  | 0xF9 => if ctlTarget t.ctl then some (r, r + ctlCount t.ctl, true) else none
  | _ => none

/-- Two ranges of the scoreboard conflict: they overlap and one is a destination. -/
def Range.conflicts (a b : Range) : Bool :=
  a.key == b.key && decide (a.first ≤ b.last) && decide (b.first ≤ a.last) && (a.dest || b.dest)

/-- An instruction must wait for an earlier one (R216). -/
def State.dependsOn (s : State) (t e : TileOp) : Bool :=
  (match t.bankUse, e.bankUse with
   | some a, some b => a.1 == b.1 && (a.2 || b.2)
   | _, _ => false) ||
  (match t.rowUse, e.rowUse with
   | some a, some b => decide (a.1 < b.2.1) && decide (b.1 < a.2.1) && (a.2.2 || b.2.2)
   | _, _ => false) ||
  (s.rangesOf t).any fun a => (s.rangesOf e).any a.conflicts

/-- The instructions under way on a core. -/
def Core.underWay (c : Core) : List TileOp :=
  c.streamBusy.toList ++ c.loadBusy.toList ++ (c.copy0.toList ++ c.copy1.toList).map (·.tile)

/-- The head of a unit's part of the queue, if every earlier instruction that it depends on has finished. -/
def State.startable (s : State) (core : Nat) (stream : Bool) : Option TileOp :=
  let c := s.core core
  match c.queue.find? fun t => onStream t.op == stream with
  | none => none
  | some t =>
    if (c.underWay ++ c.queue.takeWhile fun e => onStream e.op != stream).any (s.dependsOn t) ∨ !s.tileOpens t ∨
        (!isCopy t.op ∧ s.tileWaits t) then none
    else some t

/-- The queue without the first instruction of a unit. -/
def dropFirst (stream : Bool) : List TileOp → List TileOp
  | [] => []
  | t :: q => if onStream t.op = stream then q else t :: dropFirst stream q

/-- TILE_UNIT_START (R216): a chain's members start at their rendezvous, a copy is handed to the copy engine. -/
def execTileUnitStart (core : Nat) (unit : TileUnit) (s : State) : Out :=
  let c := s.core core
  match unit with
  | .stream =>
    if c.streamBusy.isSome then .next s
    else
      match s.startable core true with
      | none => .next s
      | some t =>
        if t.chained then .next (s.later (.chainRendezvous core))
        else
          .next (((s.chargeTile t).setCore core { c with queue := dropFirst true c.queue, streamBusy := some t }).later
            (.tileUnitFinish core .stream))
  | .load =>
    if c.loadBusy.isSome then .next s
    else
      match s.startable core false with
      | none => .next s
      | some t =>
        if isCopy t.op then .next (s.later (.copyStart core))
        else
          .next (((s.chargeTile t).setCore core { c with queue := dropFirst false c.queue, loadBusy := some t }).later
            (.tileUnitFinish core .load))

/-- An instruction that has finished leaves the scoreboard. -/
def State.dropRanges (s : State) (t : TileOp) : State :=
  let c := s.core t.core
  s.setCore t.core { c with ranges := (s.rangesOf t).foldl (fun l r => l.erase r) c.ranges }

/-! ## Stops between groups (R104, R382) -/

/-- A waiting slot takes its instruction back, which has had no effect (R104, R391, R203, R221). Its arrival at a bar
is kept where the wait is saved. -/
def State.withdraw (s : State) (t : Turn) (keepBar : Bool) : State :=
  let w := s.warp t.warp
  let m := w.micro t.slotB
  let c := coreOfWarp t.warp
  let s := match m.wait with
    | .bar n =>
      if keepBar ∨ (w.micro (!t.slotB)).wait = .bar n then s
      else
        let b := s.block w.block
        let x := Tab.get {} b.bars n
        let x := { x with arrived := x.arrived &&& ~~~(BitVec.ofNat 32 (2 ^ w.idx)) }
        s.setBlock w.block { b with bars := if x.arrived = 0#32 then Tab.drop b.bars n else Tab.put b.bars n x }
    | .baton => s.setCore c { s.core c with batonQueue := without (s.core c).batonQueue t.num }
    | .take _ _ => s.setBlock w.block { s.block w.block with takers := without (s.block w.block).takers t.num }
    | .chain true =>
      let gone := (s.core c).queue.filter fun x => x.chained && x.warp == t.warp && x.slotB == t.slotB
      gone.foldl (fun s x => (s.setCore c { s.core c with queue := (s.core c).queue.erase x }).dropRanges x) s
    | _ => s
  let keep := match m.wait with
    | .bar _ => keepBar
    | .bowait _ _ _ _ _ _ => keepBar
    | _ => false
  if keep then s
  else s.setWarp t.warp ((s.warp t.warp).setMicro t.slotB { (s.warp t.warp).micro t.slotB with wait := .none })

/-- The word at which a slot resumes: the first of the group that it is inside, or the next one (R104, R113, R381). -/
def Micro.resumeWord (m : Micro) : Nat := if m.mid then m.group else m.word

/-- The slot at which a warp goes on between groups: one inside its packet, else the one that issued last. Where both are
inside their packets it is slot A, which is the model's choice (log 57). -/
def Warp.nextSlot (w : Warp) : Bool :=
  if w.ctl.a.live && !w.ma.atBoundary then false
  else if w.ctl.b.live && !w.mb.atBoundary then true
  else if (w.ctl.path w.lastB).live then w.lastB else !w.lastB

/-- The slot at which a warp is stopped: one that a wait blocks (R104), slot A of two, or else the one at which it goes on
(log 57). -/
def Warp.stopSlot (w : Warp) : Bool :=
  if w.ctl.a.live && w.ma.wait.blocks then false
  else if w.ctl.b.live && w.mb.wait.blocks then true
  else w.nextSlot

/-- A warp stops with a trap, which may name the address of its stop point, at its next group not issued, or at the group
of its blocking instruction, which has no effect (R104, R382). -/
def State.stopAt (s : State) (warp : Nat) (i : Word → TrapInfo) : State :=
  let b := (s.warp warp).stopSlot
  let s := s.withdraw ⟨warp, b⟩ false
  let m := (s.warp warp).micro b
  let s := s.setWarp warp ((s.warp warp).setMicro b { m with word := m.resumeWord, group := m.resumeWord })
  s.takeTrap ⟨warp, b⟩ (i (s.slotAddr ⟨warp, b⟩))

/-- A group of a rule is counted as restarted (R253). -/
def Core.countRestart (c : Core) (rule : Nat) : Core :=
  { c with restarted := Tab.put c.restarted rule (Tab.get 0#64 c.restarted rule + 1#64) }

/-- A tile or copy instruction consumes poison: its warp traps POISON where it still runs, which counts a rewritten group
as restarted, and its launch is rolled back (R215, R252, R253, R307, R403); an audit replay is to be abandoned (R411). -/
def State.tilePoison (s : State) (t : TileOp) (w : Nat) : State :=
  let k := s.warp t.warp
  if (s.block t.block).used ∧ k.block = t.block ∧ (k.stat = .running ∨ k.stat = .halted) then
    let s := match t.rewritten with
      | none => s
      | some r => s.setCore t.core ((s.core t.core).countRestart r.1)
    s.stopAt t.warp fun _ =>
      { cause := .poison, taddr := BitVec.ofNat 64 w, waddr := (t.rewritten.map (·.2)).getD t.addr,
        rewritten := t.rewritten.isSome }
  else if !(s.block t.block).used then s
  else
    let s := s.logPoison t.core w
    if (s.block t.block).replay then s.setBlock t.block { s.block t.block with saving := some .trap }
    else s.undo (s.block t.block).launch

/-- TILE_UNIT_FINISH (R216). -/
def execTileUnitFinish (core : Nat) (unit : TileUnit) (s : State) : Out :=
  let c := s.core core
  let busy := match unit with
    | .stream => c.streamBusy
    | .load => c.loadBusy
  match busy with
  | none => .next s
  | some t =>
    if t.op = 0xF5 then .next s
    else
      let done (s : State) : State :=
        let c := s.core core
        let s := s.setCore core (match unit with
          | .stream => { c with streamBusy := none }
          | .load => { c with loadBusy := none })
        (s.dropRanges t).stirUnits core
      match s.runTile t with
      | .ok s => .next (done s)
      | .error w =>
        let s := (s.chainMembers t).foldl (fun s m =>
          if t.op = 0xF4 ∧ t.chained then
            (s.setCore m.1 { s.core m.1 with streamBusy := none }).stirUnits m.1
          else s) s
        .next ((done s).tilePoison t w)

/-! ## The rendezvous of a chain (R221) -/

/-- The head of a stream unit's queue. -/
def Core.streamHead (c : Core) : Option TileOp := if c.streamBusy.isSome then none else c.queue.find? fun t => onStream t.op

/-- The warp of an instruction holds the baton of its core. -/
def State.byHolder (s : State) (t : TileOp) : Bool := (s.core t.core).baton == some t.warp

/-- The participants of the chain that a core heads, where all have arrived: each member's mmarx with the head's tag at
the front of its stream unit, from the baton's holder of a block of the head's gang. -/
def State.chainReady (s : State) (core : Nat) : Option (TileOp × List TileOp) :=
  match (s.core core).streamHead with
  | none => none
  | some t =>
    if t.op ≠ 0xF4 ∨ ctlChain t.ctl = 0 ∨ !s.byHolder t then none
    else
      let ms := (List.range (ctlChain t.ctl)).map fun i =>
        match (s.core (core + 1 + i)).streamHead with
        | none => none
        | some m =>
          if m.op = 0xF5 ∧ ctlTag m.ctl = ctlTag t.ctl ∧ s.byHolder m ∧ (s.members t.block).contains m.block then some m
          else none
      if (core + ctlChain t.ctl) / 4 = core / 4 ∧ ms.all Option.isSome ∧ (s.startable core true).isSome ∧
          (List.range (ctlChain t.ctl)).all (fun i => (s.startable (core + 1 + i) true).isSome) then
        some (t, ms.filterMap id)
      else none

/-- What a member checks at the rendezvous (R221): BOUNDS before FORMAT, and of several members that fail the one
nearest the head gives the cause, R221 naming no order (log 57). Every load of its bank accepted before it has finished
by then, and one accepted after it has not begun, so that the bank itself is judged (R204, R216). -/
def State.memberFault (s : State) (t m : TileOp) : Option Cause :=
  let b := (s.core m.core).bank (ctlBank m.ctl)
  if accPast (ctlRow0 m.ctl) t.one.rows then some .bounds
  else if b.loaded ∧ pairOk (nfOf t.f1) (nfOf b.fmt) then none else some .format

/-- A participant's queue entry leaves the queue for its unit, or is dropped. -/
def State.leaveQueue (s : State) (t : TileOp) (start : Bool) : State :=
  let c := s.core t.core
  s.setCore t.core { c with queue := dropFirst true c.queue, streamBusy := if start then some t else c.streamBusy }

/-- A warp goes back to a tile word that the window held or has delivered, and so do its held words. The slot takes up the
packet again; the other slot stays where it is, but where the word's pending transfer has moved it (R251). -/
def State.backTo (s : State) (t : TileOp) (b : Back) : State :=
  let w := s.warp t.warp
  let o := !t.slotB
  let stays := b.pend.all fun p => p.ctl.path o == b.ctl.path o
  let path := if stays then w.ctl.path o else b.ctl.path o
  let keep (c : Ctl) : Ctl := if stays then c.setPath o path else c
  let c := s.core t.core
  let s := s.setCore t.core { c with window := [], flushing := false }
  let w : Warp := { w with
    ctl := keep b.ctl
    lastB := t.slotB
    restart := b.skip
    pend := b.pend.map fun p => { p with ctl := keep p.ctl } }
  let w := if stays then w else w.setMicro o {}
  s.setWarp t.warp (w.setMicro t.slotB { word := b.word, group := b.word })

/-- The participant's waiting slot goes on, or traps with a cause at the instruction, or at the first original word of its
rewritten group (R221, R250). -/
def State.releaseChain (s : State) (t : TileOp) (c : Option Cause) : State :=
  let x : Turn := ⟨t.warp, t.slotB⟩
  let m := (s.warp t.warp).micro t.slotB
  match m.wait with
  | .chain own =>
    match c with
    | none => if own then s.finishWait x .met id else s.setWarp t.warp ((s.warp t.warp).setMicro t.slotB m.retry)
    | some c =>
      let s := s.setWarp t.warp ((s.warp t.warp).setMicro t.slotB { m with wait := .none })
      let s := match t.back with
        | none => s
        | some b =>
          let s := match t.rewritten with
            | none => s
            | some r => s.setCore t.core ((s.core t.core).countRestart r.1)
          s.backTo t b
      s.takeTrap x { cause := c, taddr := t.addr, waddr := t.addr, rewritten := t.rewritten.isSome }
  | _ => s

/-- CHAIN_RENDEZVOUS (R221): the event of a member is the event of its head. -/
def execChainRendezvous (core : Nat) (s : State) : Out :=
  match ((List.range (core % 4 + 1)).map fun i => core - i).findSome? s.chainReady with
  | none => .next s
  | some (t, ms) =>
    match ms.findSome? (s.memberFault t) with
    | some c =>
      let s := (t :: ms).foldl (fun s m => (s.leaveQueue m false).dropRanges m) s
      let s := (t :: ms).foldl (fun s m => s.releaseChain m (some c)) s
      .next ((t :: ms).foldl (fun s m => s.stirUnits m.core) s)
    | none =>
      let s := (t :: ms).foldl (fun s m => (s.leaveQueue m true).releaseChain m none) s
      .next (s.later (.tileUnitFinish t.core .stream))

/-! ## The baton (R212, R213) -/

/-- The recorded instructions that come back with a warp's grant find room in the scoreboard. -/
def State.reloadFits (s : State) (core k : Nat) : Bool :=
  let c := s.core core
  match c.savedEngines.find? fun e => e.holder == some k with
  | none => true
  | some e => c.tileIdle && decide (c.ranges.length + (e.ops.flatMap s.rangesOf).length ≤ 16)

/-- The baton can be granted to a warp at once: a holder of another context, and one whose engine is to be reloaded, wait
for an empty tile queue (R213, R214; log 30). -/
def State.batonOpen (s : State) (core k : Nat) : Bool :=
  let c := s.core core
  let ctx := (s.launch (s.block (s.warp k).block).launch).ctx
  (c.batonCtx == ctx || c.tileIdle) && s.reloadFits core k

/-- BATON_TAKE (R212): a free baton with an empty queue is granted at once where its grant need not wait (R213). -/
def execBatonTake (h : Hdr) (s : State) : Out :=
  let c := s.core s.here
  if !s.taken h ∨ c.baton = some s.cur.warp ∨ s.mic.wake = .met then .next s
  else if c.baton = none ∧ c.batonQueue = [] ∧ s.batonOpen s.here s.cur.warp then .next (s.grantBaton s.here s.cur.warp)
  else
    let s := s.setCore s.here { c with batonQueue := c.batonQueue ++ [s.cur.num] }
    .next ((s.waitFor .baton).later (.batonGrant s.here))

/-- BATON_GIVE (R212). -/
def execBatonGive (h : Hdr) (s : State) : Out :=
  if !s.taken h then .next s
  else if (s.core s.here).baton ≠ some s.cur.warp then .next (s.trapHere .baton)
  else .next (s.giveBaton s.here)

/-- BATON_TRY (R212): a baton whose grant must wait is not free (log 30). -/
def execBatonTry (h : Hdr) (e : BitVec 6) (s : State) : Out :=
  let c := s.core s.here
  if !s.taken h then .next s
  else if c.baton = some s.cur.warp then .next (s.putS e.toNat 1#64)
  else if c.baton = none ∧ c.batonQueue = [] ∧ s.batonOpen s.here s.cur.warp then
    .next ((s.grantBaton s.here s.cur.warp).putS e.toNat 1#64)
  else .next (s.putS e.toNat 0#64)

/-- BATON_OVF (R212). -/
def execBatonOvf (h : Hdr) (e : BitVec 6) (s : State) : Out :=
  let c := s.core s.here
  if !s.taken h then .next s
  else if c.baton ≠ some s.cur.warp then .next (s.trapHere .baton)
  else .next ((s.setCore s.here { c with overflow := false }).putS e.toNat (if c.overflow then 1#64 else 0#64))

/-- The recorded engine state and instructions of a saved holder come back with its grant, which has waited until no
instruction of an earlier holder is left in the tile queue (R214). -/
def State.reloadEngine (s : State) (core k : Nat) : State :=
  let c := s.core core
  match c.savedEngines.find? fun x => x.holder == some k with
  | none => s
  | some x =>
    let s := s.setCore core { c with
      savedEngines := c.savedEngines.filter fun y => y.holder != some k
      bank0 := x.bank0
      bank1 := x.bank1
      accum := x.accum
      badAccum := x.badAccum
      overflow := x.overflow }
    x.ops.foldl (fun s t => s.acceptTile t) s

/-- BATON_GRANT (R212 to R214): the earliest waiter gets a free baton, once the tile queue is empty where the context
changes; every slot of that warp that waits for it goes on. -/
def execBatonGrant (core : Nat) (s : State) : Out :=
  let c := s.core core
  match c.baton, c.batonQueue with
  | none, x :: rest =>
    let k := (Turn.ofNum x).warp
    if !s.batonOpen core k then .next s
    else
      let s := s.setCore core { c with batonQueue := rest.filter fun y => (Turn.ofNum y).warp != k }
      let s := s.grantBaton core k
      .next ([⟨k, false⟩, ⟨k, true⟩].foldl (fun (s : State) (t : Turn) =>
        if ((s.warp k).micro t.slotB).wait = .baton then s.finishWait t .met id else s) (s.reloadEngine core k))
  | _, _ => .next s

end Sys2Proof.Machine
end

