-- ==== Sys2Proof/Machine/Rules.lean ====
section
/-! DEFINITION. Rule tables of the rewrite stage (spec/11 R241 to R248): their bytes, their checks and the default
table. -/

namespace Sys2Proof.Machine

/-! ## Bytes of records -/

/-- A little-endian field of a byte string. -/
def fld (bs : List Byte) (off n : Nat) : Nat := leNat ((bs.drop off).take n)

/-- n bytes of a byte string are zero. -/
def zeros (bs : List Byte) (off n : Nat) : Bool := ((bs.drop off).take n).all fun b => b == 0#8

/-! ## Rule tables (R241 to R247) -/

/-- A field reference and whether it is legal in a rule of n pattern words (R236, R246). -/
def refAt (bs : List Byte) (off : Nat) : FieldRef × Bool :=
  let x := fld bs off 3
  ({ width := bits x 23 18 + 1, lo := bits x 17 12, v := bits x 11 6 },
    decide (bits x 17 12 + bits x 23 18 + 1 ≤ 64) && bits x 5 0 == 0)

/-- A value code of a rule of n pattern words (R235). -/
def codeOk (n v : Nat) : Bool := v == 0x20 || (decide (v < 8 * n) && v % 8 != 7)

/-- A slot that an opcode reads as a register (R235). -/
def slotRead (op m : Nat) : Bool :=
  match m with
  | 0 | 1 => pairOne op
  | 2 => true
  | 3 => pairTwo op
  | _ => readsThree op

/-- Opcodes of patterns and replacements (R242). -/
def ruleOp (op : Nat) : Bool := (decide (0xF2 ≤ op) && decide (op ≤ 0xFA)) || op == 0xFD

/-- A guard term (R243), if legal. -/
def guardAt (n : Nat) (bs : List Byte) : Option Guard :=
  let (a, aok) := refAt bs 2
  let (b, bok) := refAt bs 5
  let op := fld bs 0 1
  if 1 ≤ op ∧ op ≤ 8 ∧ fld bs 1 1 = 0 ∧ aok ∧ bok ∧ codeOk n a.v ∧ codeOk n b.v then
    some { op := op, a := a, b := b, k := BitVec.ofNat 64 (fld bs 8 8) }
  else none

/-- An edit term (R244), if legal in a rule of n pattern and k replacement words. -/
def editAt (n k : Nat) (bs : List Byte) : Option Edit :=
  let (d, dok) := refAt bs 2
  let (x, xok) := refAt bs 5
  let (y, yok) := refAt bs 8
  let op := fld bs 0 1
  let tgt := fld bs 1 1
  let j := bits tgt 5 4
  let m := bits tgt 2 0
  if 1 ≤ op ∧ op ≤ 4 ∧ tgt = 16 * j + m ∧ j < k ∧ m ≤ 4 ∧ dok ∧ d.v = 0 ∧ xok ∧ yok ∧ codeOk n x.v ∧ codeOk n y.v ∧
      fld bs 11 1 = 0 ∧ (op ≠ 2 ∨ d.width = x.width) then
    some { op := op, word := j, slot := m, dst := d, s := x, t := y, k := (BitVec.ofNat 32 (fld bs 12 4)).signExtend 64 }
  else none

/-- A rule entry (R242), if legal. Its name, bytes 8 to 15, is not read: R246 lists no test of it, and that a name
which is no padded ASCII is accepted is the model's choice (log 57). -/
def ruleAt (bs : List Byte) : Option Rule :=
  let n := fld bs 1 1
  let k := fld bs 2 1
  let g := fld bs 3 1
  let e := fld bs 4 1
  let cls := fld bs 0 1
  let pattern := (List.range n).map fun i => fld bs (16 + i) 1
  let output := (List.range k).map fun j => fld bs (20 + j) 1
  let source := (List.range k).map fun j => (List.range 5).map fun m => fld bs (24 + 5 * j + m) 1
  let guards := (List.range g).filterMap fun t => guardAt n ((bs.drop (48 + 16 * t)).take 16)
  let edits := (List.range e).filterMap fun t => editAt n k ((bs.drop (48 + 16 * (g + t))).take 16)
  let ok := decide (cls ≤ 2) && decide (1 ≤ n) && decide (n ≤ 4) && decide (k ≤ 4) && decide (g ≤ 12) && decide (e ≤ 6) &&
    decide (g + e ≤ 12) && decide (fld bs 5 1 ≤ 1) &&
    pattern.all ruleOp && output.all ruleOp && zeros bs (16 + n) (4 - n) && zeros bs (20 + k) (4 - k) &&
    zeros bs (24 + 5 * k) (20 - 5 * k) && zeros bs 44 4 && zeros bs (48 + 16 * (g + e)) (192 - 16 * (g + e)) &&
    zeros bs 240 16 && guards.length == g && edits.length == e &&
    (output.zip source).all fun (o : Nat × List Nat) =>
      (o.2.zipIdx).all fun (v : Nat × Nat) => codeOk n v.1 && (v.1 == 0x20 || slotRead o.1 v.2)
  if ok then
    some { cls := cls, enabled := fld bs 5 1 == 1, pattern := pattern, output := output, source := source
           guards := guards, edits := edits }
  else none

/-- A rule table from its bytes, or none where it is rejected (R241, R246). -/
def tableAt (bs : List Byte) : Option (List Rule) :=
  let n := fld bs 6 2
  let signer := BitVec.ofNat 256 (leNat ((bs.drop 16).take 32).reverse)
  let sigBytes := (bs.drop (64 + 256 * n)).take 64
  let rules := (List.range n).filterMap fun i => ruleAt ((bs.drop (64 + 256 * i)).take 256)
  let signed := !zeros bs 16 32
  if bs.take 4 = [0x52#8, 0x57#8, 0x54#8, 0#8] ∧ fld bs 4 2 = 1 ∧ n ≤ 64 ∧ fld bs 8 4 = 128 + 256 * n ∧
      bs.length = 128 + 256 * n ∧ zeros bs 12 4 ∧ zeros bs 56 8 ∧ rules.length = n ∧
      (if signed then Config.sm2Verifies (Config.sm3 (bs.take (64 + 256 * n))) signer (BitVec.ofNat 512 (leNat sigBytes.reverse))
       else zeros bs (64 + 256 * n) 64) then
    some rules
  else none

/-! ## The default rules (R248) -/

/-- A reference to bits hi to lo of a value code (R236). -/
def refOf (v hi lo : Nat) : FieldRef := { width := hi + 1 - lo, lo := lo, v := v }
/-- The reference to a whole value. -/
def whole (v : Nat) : FieldRef := refOf v 63 0
/-- The constant 0 (R235). -/
def zeroRef : FieldRef := refOf 0x20 63 0

def gEq (r : FieldRef) (k : Nat) : Guard := { op := 1, a := r, b := zeroRef, k := BitVec.ofNat 64 k }
def gEqf (a b : FieldRef) : Guard := { op := 3, a := a, b := b, k := 0#64 }
def gNef (a b : FieldRef) : Guard := { op := 4, a := a, b := b, k := 0#64 }
def gLeu (r : FieldRef) (k : Nat) : Guard := { op := 5, a := r, b := zeroRef, k := BitVec.ofNat 64 k }
def gGeu (r : FieldRef) (k : Nat) : Guard := { op := 6, a := r, b := zeroRef, k := BitVec.ofNat 64 k }
/-- sext(A) + sext(B) between two bounds (R243). -/
def gRange (a b : FieldRef) (lo hi : Int) : Guard :=
  { op := 7, a := a, b := b, k := BitVec.ofNat 64 ((hi % 2 ^ 32).toNat * 2 ^ 32 + (lo % 2 ^ 32).toNat) }
def gRowb (a b : FieldRef) (k : Nat) : Guard := { op := 8, a := a, b := b, k := BitVec.ofNat 64 k }

def eSet (word slot : Nat) (d : FieldRef) (k : Nat) : Edit :=
  { op := 1, word := word, slot := slot, dst := d, s := zeroRef, t := zeroRef, k := BitVec.ofNat 64 k }
def eCopy (word slot : Nat) (d s : FieldRef) : Edit :=
  { op := 2, word := word, slot := slot, dst := d, s := s, t := zeroRef, k := 0#64 }
def eAdd (word slot : Nat) (d s t : FieldRef) : Edit :=
  { op := 3, word := word, slot := slot, dst := d, s := s, t := t, k := 0#64 }
def eAddk (word slot : Nat) (d s : FieldRef) (k : Nat) : Edit :=
  { op := 4, word := word, slot := slot, dst := d, s := s, t := zeroRef, k := BitVec.ofNat 64 k }

/-- Guards of rule 1 on the transpose a and the load b (R248). -/
def transposeGuards : List Guard :=
  [gEq (refOf 1 35 35) 1, gEqf (whole 8) (whole 0), gEqf (whole 9) (whole 1), gEq (refOf 4 31 31) 0,
   gRowb (refOf 3 10 0) (refOf 6 10 4) 384, gEq (refOf 1 10 0) 63]

/-- Edits of a fold of the shift of word `from` into the control word of replacement 0 (R237). -/
def foldEdits (v : Nat) : List Edit := [eSet 0 2 (refOf 0 53 53) 1, eCopy 0 2 (refOf 0 17 10) (refOf v 17 10)]

/-- The shipped default table (R248). -/
def defaultRules : List Rule :=
  [{ cls := 0, enabled := true, pattern := [0xF8, 0xF2, 0xF9], output := [0xF3], source := [[2, 3, 10, 0x20, 0x20]]
     guards := transposeGuards ++
       [gEq (refOf 18 31 31) 0, gEqf (refOf 18 32 32) (refOf 10 32 32), gEq (refOf 13 3 1) 1]
     edits := eCopy 0 1 (refOf 0 28 27) (refOf 1 28 27) :: foldEdits 18 },
   { cls := 0, enabled := true, pattern := [0xF8, 0xF2], output := [0xF3], source := [[2, 3, 10, 0x20, 0x20]]
     guards := transposeGuards
     edits := [eCopy 0 1 (refOf 0 28 27) (refOf 1 28 27)] },
   { cls := 0, enabled := true, pattern := [0xF2, 0xF9], output := [0xF2], source := [[0, 1, 2, 0x20, 0x20]]
     guards := [gEq (refOf 10 31 31) 0, gEqf (refOf 10 32 32) (refOf 2 32 32), gGeu (refOf 5 3 0) 2, gLeu (refOf 5 3 0) 3]
     edits := foldEdits 10 },
   { cls := 0, enabled := true, pattern := [0xF3, 0xF9], output := [0xF3], source := [[0, 1, 2, 0x20, 0x20]]
     guards := [gEq (refOf 10 31 31) 0, gEqf (refOf 10 32 32) (refOf 2 32 32), gGeu (refOf 5 3 0) 2, gLeu (refOf 5 3 0) 3]
     edits := foldEdits 10 },
   { cls := 0, enabled := true, pattern := [0xF8, 0xF8], output := [0xFA], source := [[8, 9, 2, 3, 12]]
     guards := [gEq (refOf 1 35 35) 1, gEqf (whole 10) (whole 0), gEqf (whole 11) (whole 1), gEq (refOf 4 31 31) 0,
       gLeu (refOf 1 10 0) 1023, gEqf (refOf 9 10 0) (refOf 3 10 0), gEqf (whole 6) (whole 13)]
     edits := [eAddk 0 4 (refOf 0 10 0) (refOf 1 10 0) 1, eSet 0 4 (refOf 0 16 16) 0] },
   { cls := 0, enabled := true, pattern := [0xF7, 0xF4], output := [0xF4], source := [[8, 9, 10, 0x20, 0x20]]
     guards := [gEq (refOf 10 33 33) 1, gEq (refOf 10 55 54) 0, gEqf (refOf 2 9 0) (refOf 10 9 0),
       gEqf (refOf 2 29 20) (refOf 9 10 0)]
     edits := [eSet 0 2 (refOf 0 33 33) 0] },
   { cls := 1, enabled := true, pattern := [0xF9, 0xF6], output := [0xF6], source := [[8, 9, 10, 0x20, 12]]
     guards := [gEq (refOf 2 31 31) 1, gEq (refOf 2 36 36) 0, gEq (refOf 10 36 36) 0, gEq (refOf 10 34 34) 1,
       gEqf (refOf 2 9 0) (refOf 10 9 0), gEqf (refOf 2 29 20) (refOf 9 10 0),
       gRange (refOf 2 17 10) zeroRef (-128) 0, gRange (refOf 10 17 10) zeroRef (-128) 0,
       gRange (refOf 2 17 10) (refOf 10 17 10) (-128) 127]
     edits := [eAdd 0 2 (refOf 0 17 10) (refOf 2 17 10) (refOf 10 17 10)] },
   { cls := 2, enabled := true, pattern := [0xF2, 0xF4, 0xF4], output := [0xF4, 0xF2, 0xF4]
     source := [[16, 17, 18, 0x20, 0x20], [0, 1, 2, 0x20, 0x20], [8, 9, 10, 0x20, 0x20]]
     guards := [gEqf (refOf 10 32 32) (refOf 2 32 32), gNef (refOf 18 32 32) (refOf 2 32 32), gEq (refOf 10 33 33) 1,
       gEq (refOf 18 33 33) 1, gEq (refOf 10 55 54) 0, gEq (refOf 18 55 54) 0, gEqf (refOf 10 9 0) (refOf 18 9 0),
       gEqf (refOf 9 10 0) (refOf 17 10 0)]
     edits := [] }]

/-! ## The table in use (R247) -/

/-- The default table: the shipped one, or what a staged image of it holds that has taken its place; none where it did not
verify at boot, and none where what was staged is no table (R247, R365, R372; log 14). -/
def State.defaultTable (s : State) : List Rule :=
  if !s.bootResult.testBit 3 then []
  else match s.images.find? fun e => e.1 == 3 with
    | none => defaultRules
    | some e => (tableAt (Config.stagedTable e.2)).getD []

/-- The table a context uses: its own, or the default one (R247). -/
def State.rulesOf (s : State) (ctx : Nat) : List Rule := ((s.context ctx).bind (·.table)).getD s.defaultTable

end Sys2Proof.Machine
end

