-- ==== Sys2Proof/Machine/Rewrite.lean ====
section
/-! DEFINITION. The rewrite stage (spec/11 R230 to R253): the default rules, matching at the oldest held word,
replacement, delivery and rwctl. -/

namespace Sys2Proof.Machine

/-! ## Guards, edits and replacement (R235 to R245) -/

/-- The value of a code over the held words (R235). -/
def codeVal (ws : List HeldWord) (v : Nat) : Nat :=
  match ws[v / 8]? with
  | none => 0
  | some w =>
    if v = 0x20 then 0
    else match v % 8 with
      | 5 => w.tile.f1.toNat
      | 6 => w.tile.f2.toNat
      | 7 => 0
      | m => (w.tile.val m).toNat

/-- The field a reference names. -/
def FieldRef.read (r : FieldRef) (ws : List HeldWord) : Nat :=
  if r.v = 0x20 then 0 else codeVal ws r.v >>> r.lo % 2 ^ r.width

/-- A guard holds (R243). -/
def Guard.holds (g : Guard) (ws : List HeldWord) : Bool :=
  let a := g.a.read ws
  let b := g.b.read ws
  let k := g.k.toNat
  let sum := sextNat a g.a.width + sextNat b g.b.width
  match g.op with
  | 1 => a == k % 2 ^ g.a.width
  | 2 => a != k % 2 ^ g.a.width
  | 3 => a == b
  | 4 => a != b
  | 5 => decide (a ≤ k)
  | 6 => decide (k ≤ a)
  | 7 => decide (sextNat (k % 2 ^ 32) 32 ≤ sum) && decide (sum ≤ sextNat (k / 2 ^ 32) 32)
  | 8 => decide ((a + 1) * b = 8 * k)
  | _ => false

/-- The value that an edit puts into its destination field (R244). -/
def Edit.value (e : Edit) (ws : List HeldWord) : Nat :=
  let s := e.s.read ws
  let i : Int :=
    match e.op with
    | 1 => e.k.toInt
    | 2 => s
    | 3 => sextNat s e.s.width + sextNat (e.t.read ws) e.t.width
    | _ => s + e.k.toInt
  (i % 2 ^ e.dst.width).toNat

/-- A field of a 64-bit value replaced. -/
def setField (x : Nat) (r : FieldRef) (v : Nat) : Nat := x - (x >>> r.lo % 2 ^ r.width) <<< r.lo + v <<< r.lo

/-- The values of replacement word j after the rule's edits (R237, R245). -/
def Rule.valsOf (r : Rule) (ws : List HeldWord) (j : Nat) : List Word :=
  let base := (r.source.getD j []).map fun v => if v = 0x20 then 0 else codeVal ws v
  ((r.edits.filter fun e => e.word == j).foldl (fun (vs : List Nat) e =>
    vs.set e.slot (setField (vs.getD e.slot 0) e.dst (e.value ws))) base).map (BitVec.ofNat 64)

/-- The replacement words of a rule for the held words it matches (R237). They make no WATCH check where a word of the
group makes none: what the others touch has been tested with them (R250, R383). -/
def State.replacement (s : State) (i : Nat) (r : Rule) (ws : List HeldWord) : List TileOp :=
  match ws with
  | [] => []
  | w :: _ =>
    let t := w.tile
    (r.output.zipIdx).map fun (o : Nat × Nat) =>
      let vs := r.valsOf ws o.2
      let nf (m : Nat) : Word := Tab.get 0#64 (s.warp t.warp).regs.nf (shapeNf (vs.getD m 0#64))
      { op := o.1, word := BitVec.ofNat 32 (o.1 * 2 ^ 18), warp := t.warp, block := t.block, slotB := t.slotB, vals := vs
        f1 := if pairOne o.1 then nf 1 else 0#64
        f2 := if pairTwo o.1 then nf 3 else 0#64
        rewritten := some (i, t.addr), addr := t.addr, pass := ws.any (·.tile.pass)
        entry := (ws.filterMap (·.tile.entry)).max? }

/-! ## Matching (R234, R240) -/

/-- The class set of a warp allows a class (R67, R240). R67 ANDs a launch's mask with its descriptor's rwperm; the command
processor reads the launch record alone, whose rwmask the model takes as ANDed already by the runtime (log 57). -/
def State.classAllowed (s : State) (k cls : Nat) : Bool :=
  let w := s.warp k
  !w.suspended && (cls == 0 || (w.cmask.getLsbD cls && (s.launch (s.block w.block).launch).record.rwmask.testBit cls))

/-- Opcodes of a pattern agree with held words, as far as both go. -/
def agrees : List Nat → List HeldWord → Bool
  | p :: ps, w :: ws => p == w.tile.op && agrees ps ws
  | _, _ => true

/-- What matching decides at the oldest held word: nothing yet, deliver it, or apply a rule. -/
inductive Decision where
  | hold
  | deliver
  | apply (index : Nat) (rule : Rule)

/-- The decision of R234. -/
def State.decideWindow (s : State) (core : Nat) (forced : Bool) : Decision :=
  let ws := (s.core core).window
  match ws with
  | [] => .hold
  | w :: _ =>
    let k := w.tile.warp
    let forced := forced || decide (8 ≤ ws.length)
    if 0 < (s.warp k).skip then .deliver
    else
      let rules := ((s.rulesOf (s.launch (s.block w.tile.block).launch).ctx).zipIdx).filter fun (r : Rule × Nat) =>
        r.1.enabled && s.classAllowed k r.1.cls && agrees r.1.pattern ws
      let full := rules.find? fun (r : Rule × Nat) =>
        decide (r.1.pattern.length ≤ ws.length) && r.1.guards.all fun g => g.holds (ws.take r.1.pattern.length)
      let part := rules.filter fun (r : Rule × Nat) => decide (ws.length < r.1.pattern.length)
      match full with
      | none => if !part.isEmpty && !forced then .hold else .deliver
      | some r => if (part.any fun (q : Rule × Nat) => decide (q.2 < r.2)) && !forced then .hold else .apply r.2 r.1

/-! ## Delivery (R231, R250, R251) -/

/-- The window without its first n words. -/
def State.dropHeld (s : State) (core n : Nat) : State :=
  s.setCore core { s.core core with window := (s.core core).window.drop n }

/-- Where a held word has its warp go back to. -/
def HeldWord.back (h : HeldWord) (skip : Nat) : Back := { word := h.group, ctl := h.ctl, pend := h.pend, skip := skip }

/-- A held word, or the first word of a rewritten group, traps (R250): younger held words are discarded. -/
def State.heldTrap (s : State) (h : HeldWord) (f : MemFault) (group : Option (Nat × Nat)) : State :=
  let t := h.tile
  let s := match group with
    | none => s
    | some r => s.setCore t.core ((s.core t.core).countRestart r.1)
  (s.backTo t (h.back ((group.map (·.2)).getD 0))).takeTrap ⟨t.warp, t.slotB⟩
    { cause := f.cause, taddr := BitVec.ofNat 64 f.addr, waddr := t.addr, synd := f.synd, rewritten := group.isSome,
      pass := decide (f.cause = .watch) }

/-- The checks of a list of words, each seeing the words before it as accepted (R204, R250). -/
def State.checkAll (s : State) (extra : List TileOp) : List TileOp → Except MemFault (State × List TileOp)
  | [] => .ok (s, [])
  | t :: rest =>
    match s.checkTile t extra with
    | .error f => .error f
    | .ok (s, t) =>
      match State.checkAll s (extra ++ [t]) rest with
      | .error f => .error f
      | .ok (s, ts) => .ok (s, t :: ts)

/-- The oldest held word is delivered unchanged; none where there is no room. -/
def State.deliverOne (s : State) (core : Nat) (h : HeldWord) : Option State :=
  let t := h.tile
  match s.checkTile t [] with
  | .error f => some (s.heldTrap h f none)
  | .ok (s', t) =>
    if !s.tileRoom t then none
    else
      let s := (s'.dropHeld core 1).acceptTile (if t.chained then { t with back := some (h.back 0) } else t)
      some (s.setWarp t.warp { s.warp t.warp with skip := (s.warp t.warp).skip - 1 })

/-- A rule is applied to the oldest held words (R250); none where there is no room. -/
def State.applyRule (s : State) (core i : Nat) (r : Rule) (ws : List HeldWord) : Option State :=
  match ws with
  | [] => none
  | h :: _ =>
    let n := r.pattern.length
    let group := ws.take n
    let olds := group.map fun w => { w.tile with addr := h.tile.addr }
    match s.checkAll [] olds with
    | .error f => some (s.heldTrap h f (some (i, n)))
    | .ok _ =>
      match s.checkAll [] (s.replacement i r group) with
      | .error f => some (s.heldTrap h f (some (i, n)))
      | .ok (s', ts) =>
        let c := s.core core
        if 8 < c.queue.length + ts.length ∨ 16 < c.ranges.length + (ts.flatMap s.rangesOf).length then none
        else
          let s := ts.foldl (fun s t =>
            s.acceptTile (if t.chained then { t with back := some (h.back n) } else t)) (s'.dropHeld core n)
          let c := s.core core
          some (s.setCore core { c with applied := Tab.put c.applied i (Tab.get 0#64 c.applied i + 1#64) })

/-- A chained word that the window has delivered blocks its warp, and the words behind it stay in the window (R221). -/
def State.windowBlocked (s : State) (h : HeldWord) : Bool :=
  decide (((s.warp h.tile.warp).micro h.tile.slotB).wait = .chain false)

/-- One move of a core's window; none where it holds. -/
def State.windowMove (s : State) (core : Nat) (forced : Bool) : Option State :=
  let c := s.core core
  match c.window with
  | [] => none
  | h :: _ =>
    if s.windowBlocked h then none
    else
      match s.decideWindow core (forced || c.flushing) with
      | .hold => none
      | .deliver => s.deliverOne core h
      | .apply i r => s.applyRule core i r c.window

/-- Every held word is delivered with matching forced, as far as there is room (R232). -/
def State.flushLoop : Nat → State → Nat → State
  | 0, s, _ => s
  | n + 1, s, core =>
    match s.windowMove core true with
    | none => s
    | some s => State.flushLoop n s core

/-- A flush of a core's window: it goes on where a full tile queue stops it, until no word is held (R231), and the
holder's skip count ends with it (R251). -/
def State.flushWindow (s : State) (core : Nat) : State :=
  let k := ((s.core core).window.head?.map (·.tile.warp)).or (s.core core).baton
  let s := State.flushLoop 9 s core
  let empty := (s.core core).window.isEmpty
  let s := s.setCore core { s.core core with flushing := !empty }
  match k with
  | none => s
  | some k =>
    if empty ∧ (s.warp k).stat = .running then s.setWarp k { s.warp k with skip := 0 } else s

/-- A window that is being flushed goes on (R231): its next word leaves it, and with its last one the flush is over. -/
def State.windowStep (s : State) (core : Nat) : Option State :=
  (s.windowMove core false).map fun t =>
    if (s.core core).flushing && (t.core core).window.isEmpty then t.flushWindow core else t

/-- REWRITE_TIMEOUT (R231): a flush of the held words begins. A window that holds none has no word that 16 cycles could
have passed since, and nothing happens. -/
def execRewriteTimeout (core : Nat) (s : State) : Out :=
  .next (if (s.core core).window.isEmpty then s else s.flushWindow core)

/-- A chained word of a block that the window delivered as it was, and that waits at its rendezvous. -/
def State.deliveredChain (s : State) (core block : Nat) : Option TileOp :=
  (s.core core).queue.find? fun t => t.block == block && t.chained && t.back.isSome && t.rewritten.isNone

/-- A save of the holder's block discards the held words of its warp, which goes back to the oldest, or to a chained word
delivered before them, which is withdrawn from its rendezvous (R221, R251). -/
def State.discardWindow (s : State) (core block : Nat) : State :=
  match s.deliveredChain core block with
  | some t =>
    let s := (s.setCore core { s.core core with queue := (s.core core).queue.erase t }).dropRanges t
    (t.back.map (s.backTo t)).getD s
  | none =>
    match (s.core core).window with
    | [] => s
    | h :: _ => if h.tile.block = block then s.backTo h.tile (h.back 0) else s

/-! ## The tile words (R215, R230) -/

/-- The issuing word is checked and accepted; where there is no room it waits. -/
def State.tileAccept (s : State) (t : TileOp) : Out :=
  match s.checkTile t [] with
  | .error f => .next (s.tileTrap f)
  | .ok (s', t) =>
    if !s.tileRoom t then .next (s.waitFor (.room .queue))
    else
      let (t, s') := s'.tileRelease t
      let s' := s'.acceptTile t
      .next (if t.chained then (s'.waitFor (.chain true)).later (.chainRendezvous t.core) else s')

/-- A held word whose group holds a flush point beside it leaves the window with its entry (R232): it waits as a whole
where there is no room, and a chained one waits at its rendezvous as the slot's own word. -/
def State.flushEntered (s t : State) (core : Nat) : State :=
  let u := t.flushWindow core
  if u.cw.stat ≠ t.cw.stat then u
  else if !(u.core core).window.isEmpty then s.waitFor (.room .window)
  else
    match u.mic.wait with
    | .chain _ =>
      let own (x : TileOp) : TileOp := if x.chained && x.warp == s.cur.warp then { x with back := none } else x
      (u.setCore core { u.core core with queue := (u.core core).queue.map own }).waitFor (.chain true)
    | _ => u

/-- A tile word (R215, R230): it enters the window, or is checked and accepted; where there is no room it waits. -/
def State.tileWord (s : State) (h : Hdr) (op : Nat) (t1 t2 t3 : BitVec 6) : Out :=
  if !s.taken h ∨ s.mic.wake = .met then .next s
  else
    let t := s.tileOf op t1 t2 t3
    let c := s.core t.core
    if !s.entersWindow t then s.tileAccept t
    else if 8 ≤ c.window.length then .next (s.waitFor (.room .window))
    else
      let (t, s') := s.tileRelease t
      let w : HeldWord := { tile := t, group := s.mic.group, ctl := s.cw.ctl, pend := s.cw.pend }
      let s' := s'.setCore t.core { s'.core t.core with window := c.window ++ [w] }
      .next (if s.mixedGroup then s.flushEntered s' t.core else s'.later (.rewriteTimeout t.core))

/-- WLD (R219). -/
def execWld (h : Hdr) (e f : BitVec 6) (s : State) : Out := s.tileWord h 0xF2 e f 0#6
/-- WLDT (R219). -/
def execWldt (h : Hdr) (e f : BitVec 6) (s : State) : Out := s.tileWord h 0xF3 e f 0#6
/-- MMA (R220). -/
def execMma (h : Hdr) (e f : BitVec 6) (s : State) : Out := s.tileWord h 0xF4 e f 0#6
/-- MMARX (R221). -/
def execMmarx (h : Hdr) (f : BitVec 6) (s : State) : Out := s.tileWord h 0xF5 0#6 f 0#6
/-- AREAD (R223). -/
def execAread (h : Hdr) (e f g : BitVec 6) (s : State) : Out := s.tileWord h 0xF6 e f g
/-- AZERO (R224). -/
def execAzero (h : Hdr) (f : BitVec 6) (s : State) : Out := s.tileWord h 0xF7 0#6 f 0#6
/-- TTR (R225). -/
def execTtr (h : Hdr) (e f g : BitVec 6) (s : State) : Out := s.tileWord h 0xF8 e f g
/-- TSCL (R224). -/
def execTscl (h : Hdr) (f : BitVec 6) (s : State) : Out := s.tileWord h 0xF9 0#6 f 0#6
/-- TCVT (R226). -/
def execTcvt (h : Hdr) (e f g : BitVec 6) (s : State) : Out := s.tileWord h 0xFA e f g
/-- TFILL (R227). -/
def execTfill (h : Hdr) (e f g : BitVec 6) (s : State) : Out := s.tileWord h 0xFD e f g

/-! ## rwctl (R249) -/

/-- The effect of an rwctl word after the holder's flush; it waits where the flush finds no room, and has no effect
where a held word traps. -/
def State.afterFlush (s : State) (f : State → State) : State :=
  if (s.core s.here).baton = some s.cur.warp ∧ ((s.core s.here).window.isEmpty = false ∨ s.cw.skip ≠ 0) then
    let s' := s.flushWindow s.here
    if s'.cw.stat ≠ s.cw.stat then s'
    else if (s'.core s.here).window.isEmpty then f s'
    else s'.waitFor (.room .window)
  else f s

/-- RWCTL_OFF (R249). -/
def execRwctlOff (h : Hdr) (s : State) : Out :=
  if s.taken h then .next (s.afterFlush fun s => s.setCw { s.cw with suspended := true }) else .next s

/-- RWCTL_ON (R249). -/
def execRwctlOn (h : Hdr) (s : State) : Out :=
  if s.taken h then .next (s.afterFlush fun s => s.setCw { s.cw with suspended := false }) else .next s

/-- RWCTL_FLUSH (R249). -/
def execRwctlFlush (h : Hdr) (s : State) : Out := if s.taken h then .next (s.afterFlush id) else .next s

/-- RWCTL_MASK (R249). -/
def execRwctlMask (h : Hdr) (a : BitVec 6) (s : State) : Out :=
  if s.taken h then
    let x := s.rdS a.toNat
    .next (s.afterFlush fun s =>
      if x.toNat % 2 = 0 ∨ 8 ≤ x.toNat then s.trapHere .bounds else s.setCw { s.cw with cmask := x.truncate 3 })
  else .next s

/-- RWCTL_CNT (R249, R253). -/
def execRwctlCnt (h : Hdr) (d a : BitVec 6) (s : State) : Out :=
  if s.taken h then
    let x := (s.rdS a.toNat).toNat
    .next (s.afterFlush fun s =>
      if 128 ≤ x then s.trapHere .bounds
      else
        let c := s.core s.here
        let i := x % 64
        let v := Tab.get 0#64 (if x.testBit 6 then c.restarted else c.applied) i
        let used := c.table == s.tableKey s.myCtx && decide (i < (s.rulesOf s.myCtx).length)
        s.putS d.toNat (if used then v else 0#64))
  else .next s

/-- RWCTL_CLR (R249): from a warp that does not hold the baton it has no effect, since such a warp's `rwctl` changes only
its own state. -/
def execRwctlClr (h : Hdr) (s : State) : Out :=
  if s.taken h then
    .next (s.afterFlush fun s =>
      let c := s.core s.here
      if c.table = s.tableKey s.myCtx ∧ c.baton = some s.cur.warp then
        s.setCore s.here { c with applied := [], restarted := [] }
      else s)
  else .next s

end Sys2Proof.Machine
end

