-- ==== Sys2Proof/Machine/Copies.lean ====
section
/-! DEFINITION. The copy engine (spec/14 R303 to R309). -/

namespace Sys2Proof.Machine

/-- CP (R305). -/
def execCp (h : Hdr) (e f g : BitVec 6) (s : State) : Out := s.tileWord h 0xF0 e f g
/-- CPM (R306). -/
def execCpm (h : Hdr) (e f g : BitVec 6) (s : State) : Out := s.tileWord h 0xF1 e f g

def Core.copySlot (c : Core) (slot : Nat) : Option Copy := if slot = 0 then c.copy0 else c.copy1
def Core.setCopy (c : Core) (slot : Nat) (x : Option Copy) : Core :=
  if slot = 0 then { c with copy0 := x } else { c with copy1 := x }

/-- The source bytes of a copy as they stand before it, by 2^32 × row + byte, where its source and its destination may
overlap (R305). -/
def State.copyBefore (s : State) (t : TileOp) : Tab Byte :=
  let rs := s.rangesOf t
  let meets := rs.any fun a => a.dest && rs.any fun b => !b.dest && a.key == b.key && decide (a.first ≤ b.last) &&
    decide (b.first ≤ a.last)
  if !meets then []
  else
    (List.range t.two.rows).flatMap fun i =>
      (s.tileRow t t.two (t.two.row i % 2 ^ 64) (copyLen t.aux)).2.1.zipIdx.map fun (b : Byte × Nat) => (2 ^ 32 * i + b.2, b.1)

/-- The next piece of a copy waits for a DRAM channel that repeats a transfer (R406). -/
def State.pieceWaits (s : State) (x : Copy) : Bool :=
  let t := x.tile
  decide (spaceOf t.two.space = .g) &&
    (s.busyChannel (t.phys ((t.two.row x.row + x.offset) % 2 ^ 64)) (min 64 (copyLen t.aux - x.offset))).isSome

/-- A piece as it is written: each byte of an overlapping copy is the source's byte before the copy or the byte that
stands there now, as a free choice has it (R305; log 11). -/
def Copy.piece (x : Copy) (draw : Nat) (bs : List Byte) : List Byte :=
  if x.before.isEmpty then bs
  else bs.zipIdx.map fun (b : Byte × Nat) =>
    if Config.choice draw b.2 then Tab.get b.1 x.before (2 ^ 32 * x.row + x.offset + b.2) else b.1

/-- COPY_START (R303): a free descriptor slot takes the copy at the head of the load unit. -/
def execCopyStart (core : Nat) (s : State) : Out :=
  let c := s.core core
  let free := if c.copy0.isNone then some 0 else if c.copy1.isNone then some 1 else none
  match free, s.startable core false with
  | some slot, some t =>
    if isCopy t.op ∧ c.loadBusy.isNone then
      let c := { c with queue := dropFirst false c.queue }.setCopy slot (some { tile := t, before := s.copyBefore t })
      .next (((s.setCore core c).later (.copyPiece core slot)).stirUnits core)
    else .next s
  | _, _ => .next s

/-- A piece written to every destination of its copy, each credited (R305, R306). -/
def State.copyWrite (s : State) (t : TileOp) (a : Nat) (bs : List Byte) : State :=
  if t.op = 0xF1 then
    ((s.receivers t).filterMap (·.2)).foldl
      (fun s y => s.writeRow { t with block := y } { t.one with space := 0 } a bs) s
  else s.writeRow t t.one a bs

/-- A copy leaves its descriptor slot. -/
def State.retireCopy (s : State) (core slot : Nat) (t : TileOp) : State :=
  ((s.setCore core ((s.core core).setCopy slot none)).dropRanges t).stirUnits core

/-- COPY_PIECE (R303, R305, R307): the next 64-byte piece of a descriptor slot; a poisoned piece ends the copy. -/
def execCopyPiece (core slot : Nat) (s : State) : Out :=
  match (s.core core).copySlot slot with
  | none => .next s
  | some x =>
    let t := x.tile
    if s.copyPaused t then .next (s.later (.copyBudgetPeriod core))
    else if !s.tileOpens t ∨ s.pieceWaits x then .next (s.later (.copyPiece core slot))
    else
      let s := s.chargeTile t
      let len := copyLen t.aux
      let n := min 64 (len - x.offset)
      match s.tileRow t t.two ((t.two.row x.row + x.offset) % 2 ^ 64) n with
      | (_, _, some w) => .next ((s.retireCopy core slot t).tilePoison t w)
      | (s, bs, none) =>
        let (i, s) := if x.before.isEmpty then (0, s) else s.draw
        let s := s.copyWrite t ((t.one.row x.row + x.offset) % 2 ^ 64) (x.piece i bs)
        let c := s.core core
        let times := if t.op = 0xF1 then (s.receivers t).length else 1
        let ctx := s.copyCtx t
        let c := { c with copied := Tab.put c.copied ctx (Tab.get 0 c.copied ctx + n * times) }
        let s := s.setCore core c
        let next : Copy := if x.offset + n < len then { x with offset := x.offset + n }
          else { x with row := x.row + 1, offset := 0 }
        if next.row < t.one.rows then
          .next ((s.setCore core ((s.core core).setCopy slot (some next))).later (.copyPiece core slot))
        else .next (s.retireCopy core slot t)

/-- COPY_BUDGET_PERIOD (R309): the budgets of the core are renewed. -/
def execCopyBudgetPeriod (core : Nat) (s : State) : Out :=
  let c := s.core core
  let s := s.setCore core { c with copied := [] }
  let s := if c.copy0.isSome then s.later (.copyPiece core 0) else s
  .next (if c.copy1.isSome then s.later (.copyPiece core 1) else s)

end Sys2Proof.Machine
end

