-- ==== Sys2Proof/Machine/Engines.lean ====
section
/-! DEFINITION. Events of the two engines and of waiting warps (spec/05 R102, R104, R110, R119 to R121), and of the
memory system (spec/12, spec/13, spec/17 R353, R354, spec/18 R374, R375). -/

namespace Sys2Proof.Machine

/-! ## Promotion (R119 to R121) -/

/-- A warp that is neither blocked nor asleep (R119). -/
def Warp.runnable (w : Warp) : Bool := decide (w.stat = .running) && !w.blocked && w.sleep == 0

/-- A block of a core has a card in its queue. -/
def State.cardsOn (s : State) (core : Nat) : Bool :=
  (blockSlotsOf core).any fun b =>
    (s.block b).used && !(s.cardQueue (s.block b).launch (s.block b).lin).cards.isEmpty

/-- The class 3 trigger of a warp as the state of its core has it (R119): it rises when the warp is the only runnable one
there and no card is queued, and ends when another warp becomes runnable or a card is queued. -/
def State.soleNow (s : State) (core k : Nat) : Bool :=
  let w := s.warp k
  let others := (warpSlotsOf core).any fun j => j != k && (s.warp j).runnable
  s.liveWarp k && (w.sole || w.runnable) && !others && !s.cardsOn core

/-- Some warp of a core has a class 3 trigger that is to be set anew. -/
def State.soleStale (s : State) (core : Nat) : Bool := (warpSlotsOf core).any fun k => (s.warp k).sole != s.soleNow core k

/-- The class 3 triggers of a core's warps are set anew (R119); a promoted warp left without a trigger demotes. -/
def State.setSole (s : State) (core : Nat) : State :=
  let old := s
  (warpSlotsOf core).foldl (fun s k =>
    let w := s.warp k
    let sole := old.soleNow core k
    if w.sole == sole then s
    else
      let s := s.setWarp k { w with sole := sole }
      if !sole then s.untrigger k else if s.promotable k then s.raise k 3 else s) s

/-- The warps of a core that leave their contexts: they demote, or will once they are on the RE. -/
def State.leaving (s : State) (core : Nat) : List Nat :=
  (s.core core).reWarps.filter fun k => decide ((s.warp k).engine = .demoting) || (s.warp k).displaced

/-- The warp with a context that a new one displaces: of those that do not leave already, the highest class number, the
most recently promoted among those (R120). -/
def State.displaced (s : State) (core cls : Nat) : Option Nat :=
  ((s.core core).reWarps.filter fun k => !(s.leaving core).contains k).foldl (fun (best : Option Nat) k =>
    let c := (s.warp k).cls.getD 5
    if cls < c ∧ (best.all fun b => (s.warp b).cls.getD 5 ≤ c) then some k else best) none

/-- A warp that may be given a context: it runs on the IE, a trigger of it stands, and its context allows promotion. -/
def State.eligible (s : State) (k : Nat) : Bool :=
  let w := s.warp k
  decide (w.engine = .ie) && !w.granted && decide (w.stat = .running) && w.cls.isSome && s.promotable k

/-- The first of the warps that wait for a context (R120). -/
def State.firstWaiter (s : State) (core : Nat) : Option Nat :=
  leastBy (fun k => (s.warp k).turnOf) ((s.core core).reWaiting.filter s.eligible)

/-- A warp is given a free context (R120, R121): its fetch on the IE stops at the next packet boundary. -/
def State.takeContext (s : State) (core warp : Nat) : State :=
  let c := s.core core
  let s := s.setCore core { c with reWarps := c.reWarps ++ [warp], reWaiting := without c.reWaiting warp }
  (s.setWarp warp { s.warp warp with granted := true }).later (.promotionComplete warp)

/-- Free contexts go to the warps that wait, by class, then by the time their trigger rose (R120). -/
def State.serveContexts : Nat → State → Nat → State
  | 0, s, _ => s
  | n + 1, s, core =>
    if 4 ≤ (s.core core).reWarps.length then s
    else
      match s.firstWaiter core with
      | none => s
      | some k => State.serveContexts n (s.takeContext core k) core

/-- A waiting warp displaces a promoted one of a higher class number, unless a context that is being left goes to it
(R120). -/
def State.displaceFor (s : State) (core warp : Nat) : State :=
  let w := s.warp warp
  let ahead := ((s.core core).reWaiting.filter s.eligible).filter fun k => decide ((s.warp k).turnOf ≤ w.turnOf)
  if !(s.core core).reWaiting.contains warp ∨ ahead.length ≤ (s.leaving core).length then s
  else (s.displaced core (w.cls.getD 5)).elim s s.displace

/-- RE_CONTEXT_GRANT (R120): a warp with a risen trigger takes a free context in its turn, displaces one of a higher class
number, or waits. -/
def execReContextGrant (warp : Nat) (s : State) : Out :=
  let core := coreOfWarp warp
  if !s.eligible warp then .next s
  else
    let s := s.setCore core { s.core core with reWaiting := addOnce (s.core core).reWaiting warp }
    .next ((s.serveContexts 4 core).displaceFor core warp)

/-- PROMOTING begins at a packet boundary (R121); for the baton's holder after a flush of its window (R232, R251). -/
def State.beginPromotion (s : State) (warp : Nat) : State :=
  let core := coreOfWarp warp
  let s := if (s.core core).baton = some warp then s.flushWindow core else s
  let w := s.warp warp
  if w.stat ≠ .running then s
  else if (s.core core).window.any (fun h => h.tile.warp == warp) ∨ !w.atBoundary then s.later (.promotionComplete warp)
  else
    (s.setWarp warp { w with engine := .promoting, granted := false, latch := .invalid }).later (.promotionComplete warp)

/-- PROMOTION_COMPLETE (R121): a warp that a context is granted has come to a packet boundary and is PROMOTING; then the
front end of the RE is ready. A warp whose last trigger has ended meanwhile, or that has been displaced, demotes. -/
def execPromotionComplete (warp : Nat) (s : State) : Out :=
  let w := s.warp warp
  if w.granted then .next (if w.atBoundary then s.beginPromotion warp else s.later (.promotionComplete warp))
  else if w.engine ≠ .promoting then .next s
  else
    let s := s.setWarp warp { w with engine := .re }
    .next (if w.displaced ∨ !w.triggered then s.demote warp else s)

/-- A warp has nothing left on the RE: it stands at a packet boundary, is blocked, waits for another device, or no longer
runs (R121, R390). -/
def Warp.drained (w : Warp) : Bool := w.atBoundary || w.blocked || w.remoteOnRe || decide (w.stat ≠ .running)

/-- A word that waits for another device is issued again. -/
def Micro.asksAgain (m : Micro) : Micro := if m.wait.isRemote then m.retry else m

/-- DEMOTION_COMPLETE (R121): the warp is on the IE again, where it asks another device again that it waits for, and
its context goes to a waiter, by class, then by the time its trigger rose; where a trigger of the warp stands it waits
for a context itself (R120). -/
def execDemotionComplete (warp : Nat) (s : State) : Out :=
  let w := s.warp warp
  if w.engine ≠ .demoting then .next s
  else if !w.drained then .next (s.later (.demotionComplete warp))
  else
    let core := coreOfWarp warp
    let s := s.setWarp warp
      { w with engine := .ie, cooling := 4, latch := .invalid, ma := w.ma.asksAgain, mb := w.mb.asksAgain }
    let s := (s.later (.issueBudgetPeriod core)).freeContext core warp
    .next (if (s.warp warp).cls.isSome then s.askContext warp else s)

/-- ISSUE_BUDGET_PERIOD (R110): the budgets are renewed, less what holds of the period before reach into this one. Four
periods of 64 cycles after a demotion the warp's triggers of classes 2 and 3 count again (R119). -/
def execIssueBudgetPeriod (core : Nat) (s : State) : Out :=
  let s := (warpSlotsOf core).foldl (fun s k =>
    let w := s.warp k
    if w.cooling = 0 then s
    else
      let s := s.setWarp k { w with cooling := w.cooling - 1 }
      if w.cooling = 1 ∧ (s.warp k).cls.isSome then s.askContext k else s) s
  let s := s.setCore core { s.core core with reUsed := (s.core core).reCarry, reCarry := [] }
  .next (if (warpSlotsOf core).any fun k => (s.warp k).cooling != 0 then s.later (.issueBudgetPeriod core) else s)

/-! ## sleep, yield, npr (R102, R104) -/

/-- SLEEP_EXPIRE (R102). -/
def execSleepExpire (warp : Nat) (s : State) : Out := .next (s.setWarp warp { s.warp warp with sleep := 0 })

/-- YIELD_END (R102). -/
def execYieldEnd (warp : Nat) (s : State) : Out := .next (s.setWarp warp { s.warp warp with yielding := false })

/-- A warp stops with a trap, and its held words are discarded (R251). -/
def State.stopWarp (s : State) (warp : Nat) (i : Word → TrapInfo) : State :=
  (s.discardWindow (coreOfWarp warp) (s.warp warp).block).stopAt warp i

/-- NPR_OVERRUN (R104): at the limit the warp stops. -/
def execNprOverrun (warp : Nat) (s : State) : Out :=
  let w := s.warp warp
  if !w.npr ∨ w.stat ≠ .running ∨ w.nprCount < Config.nprLimit then .next s
  else .next (s.stopWarp warp fun a => { cause := .nprOverrun, taddr := a, waddr := a })

/-! ## Budgets (R361, R362) -/

/-- INJECTION_BUDGET_PERIOD (R361). -/
def execInjectionBudgetPeriod (cluster : Nat) (s : State) : Out :=
  .next (s.setCluster cluster { s.cluster cluster with injected := 0 })

/-- MEMORY_BUDGET_PERIOD (R362). -/
def execMemoryBudgetPeriod (part : Nat) (s : State) : Out := .next (s.setPart part { s.part part with memUsed := 0 })

/-! ## Reads at their homes (R286, R290) -/

/-- The first line of a flight that a core waits for. -/
def State.flightOf (s : State) (core line : Nat) (sent : Bool) : Option Flight :=
  s.flights.find? fun f => f.line == line && f.core == core && f.data.isSome == sent

/-- A read that is served alone gets its reply; a recall that it makes closes the line's window (R286, R290, R298). -/
def State.serveAlone (s : State) (core line : Nat) : State :=
  let s := if (Tab.get [] s.holders line).isEmpty then s else s.closeWindow line
  let s := s.readPrep line
  let fs := s.flights.map fun f =>
    if f.line = line ∧ f.core = core ∧ f.data = none then { f with data := some (s.homeLine line, s.homePoison line) } else f
  let s : State := { s with flights := fs }
  s.later (.memoryReply core line)

/-- Windows that are open in the slice of a line (R290). -/
def State.windowsAt (s : State) (line : Nat) : Nat :=
  (s.windows.filter fun (e : Nat × List Nat) => sliceOfLine e.1 == sliceOfLine line).length

/-- HOME_READ (R286, R290): a read joins an open window of another cluster's read, opens one, or is served alone. -/
def execHomeRead (core line : Nat) (s : State) : Out :=
  match s.flightOf core line false with
  | none => .next s
  | some _ =>
    match Tab.get [] s.windows line with
    | [] =>
      if s.windowsAt line < 64 then
        let s : State := { s with windows := Tab.put s.windows line [core] }
        .next (s.later (.combineWindowClose line))
      else .next (s.serveAlone core line)
    | first :: rest =>
      if clusterOf first = clusterOf core then .next (s.serveAlone core line)
      else
        let s : State := { s with windows := Tab.put s.windows line (first :: rest ++ [core]) }
        if 16 ≤ rest.length + 1 then .next (s.closeWindow line) else .next s

/-- COMBINE_WINDOW_CLOSE (R290). -/
def execCombineWindowClose (line : Nat) (s : State) : Out := .next (s.closeWindow line)

/-- MEMORY_REPLY (R264, R271, R272): a prefetched line is merged into the core's L1. No write or read of the core is newer
than the reply: each has had the line read again or has ended the read. Where the core has no L1 way the reply is dropped,
which counts an unused prefetch (R134). -/
def execMemoryReply (core line : Nat) (s : State) : Out :=
  match s.flightOf core line true with
  | none => .next s
  | some f =>
    let s : State := { s with flights := s.flights.erase f }
    match f.data, f.fill && !(s.core core).noWays with
    | some (bs, ps), true =>
      let (way, s) := s.allocWay core line
      let c := s.core core
      let l := (c.l1Find line).getD { line := line, epoch := c.epoch }
      .next (s.l1Put core { l.merge bs ps with way := way, prefetched := l.prefetched || !f.demanded, guard := f.guard.or l.guard })
    | _, _ => .next (if f.fill ∧ !f.demanded then s.setCore core ((s.core core).addCount 0x74 1) else s)

/-- PULL_REQUEST (R286). -/
def execPullRequest (core epoch : Nat) (s : State) : Out :=
  .next (s.writeBack core fun l => decide (l.epoch ≤ epoch))

/-- WRITE_BACK (R264, R281). -/
def execWriteBack (core line : Nat) (s : State) : Out := .next (s.writeBack core fun l => l.line == line)

/-- A physical address lies in a window of a partition of a domain group (R374). -/
def State.groupWindow (s : State) (group addr n : Nat) : Bool :=
  s.parts.any fun (p : Nat × Partition) =>
    p.2.group == group && (p.2.win0 ++ p.2.win1).any fun w => decide (w.1 ≤ addr) && decide (addr + n ≤ w.1 + w.2)

/-- The key in a line's record of a core of another device: the pulls of its entries cross the links (R374), and what its
core then writes back comes as accesses of that device. -/
def foreignCore (core : Nat) : Nat := 2 ^ 32 + core

/-- The key of a sender's core in a line's record. -/
def senderKey : Sender → Nat
  | .own core => core
  | .inbound _ core => foreignCore core

/-- RELEASE_RECORD (R284, R285): the home enters the record and then applies the write. One of another device's core is
refused where no partition of its domain group holds the line (R374). -/
def execReleaseRecord (sender : Sender) (line epoch : Nat) (bytes : List (Nat × Byte)) (s : State) : Out :=
  let refused : Bool := match sender with
    | .own _ => false
    | .inbound g _ => !s.groupWindow g (128 * line) 128
  if refused then .next s
  else
  let s := s.enterRecord line (senderKey sender) epoch
  let cells := (bytes.filter fun c => decide (c.1 < 128)).map fun c => (128 * line + c.1, c.2)
  .next ((s.writePrep line).applyCells cells)

/-- ATOMIC_BATCH (R295): a batch at one address is applied indivisibly in lane order; a poisoned word refuses it
(R296), and one from another device is refused where no partition of its domain group holds the frame (R374). -/
def execAtomicBatch (unit : AtomUnit) (addr : Nat) (op : BitVec 4) (wide : Bool) (operands : List (Word × Word))
    (s : State) : Out :=
  let n := if wide then 8 else 4
  let q : Place := match unit with
    | .home | .inbound _ => .global addr
    | .bank b => .scratch b addr
  let refused : Bool := match unit with
    | .inbound g => !s.groupWindow g addr n
    | _ => false
  let os := operands.map fun o => { v := o.1.toNat % 2 ^ (8 * n), e := o.1.toNat % 2 ^ (8 * n), n := o.2.toNat : Operand }
  if refused then .next s
  else
  match s.atomRead n q with
  | (_, _, some _) => .next s
  | (s, bs, none) =>
    let r := (batch op.toNat (8 * n) (leNat bs) os).2
    match q with
    | .scratch b o => .next (s.scratchWrite b o (leBytes r n))
    | _ => .next (s.homeWrite addr (leBytes r n))

/-- RECALL (R290, R298): an open read window of the line closes first. -/
def execRecall (line : Nat) (s : State) : Out := .next ((s.closeWindow line).recallLine line)

/-- REDC_RECALL (R299): the target core of the segment recalls its holders. -/
def execRedcRecall (core segment : Nat) (s : State) : Out :=
  if coreOfBlock (segment / 2 ^ 21) = core then .next (s.recallSegment segment) else .next s

/-! ## Walks and other devices (R353, R354, R374, R375) -/

/-- TRANSLATION_WALK_COMPLETE (R353, R354): a walk makes an entry in the three TLBs; a faulting one makes none. -/
def execTranslationWalkComplete (core ctx va : Nat) (write : Bool) (s : State) : Out :=
  match s.walkFor (stackOf core) ctx va (if write then .write else .read) with
  | .ok s e => .next (s.tlbMake core e)
  | .bad _ _ => .next s

/-- REMOTE_ACCESS (R374): another device's access is served at its home where a partition of its domain group holds the
frame. -/
def execRemoteAccess (group : Nat) (write : Bool) (addr : Nat) (bytes : List Byte) (s : State) : Out :=
  if !s.groupWindow group addr bytes.length ∨ 2 ^ 64 ≤ addr + bytes.length then .next s
  else if write then .next (s.homeWrite addr bytes)
  else .next (s.homeRead addr bytes.length).1

/-- A slot's access that waits for an answer finds poison (R375). -/
def State.answerPoison (s : State) (t : Turn) : State :=
  let w := s.warp t.warp
  let m := w.micro t.slotB
  match m.wait with
  | .remote a => s.setWarp t.warp (w.setMicro t.slotB (m.woken (.poisoned a)))
  | _ => s

/-- The reply of a remote load carries poison (R375, R382): the warp stops at its next group. One that has stopped already
keeps its trap, and its launch is rolled back (R398, R408). -/
def State.poisonedReply (s : State) (warp : Nat) (l : PendLoad) (addr : Nat) : State :=
  let b := (s.warp warp).block
  if (s.warp warp).stat = .running then
    s.stopWarp warp fun _ => { cause := .poison, taddr := BitVec.ofNat 64 addr, waddr := l.waddr }
  else if (s.block b).replay then s
  else s.undo (s.block b).launch

/-- REMOTE_TIMEOUT (R375): the accesses of a warp that have no answer, since no route reaches their device, are
answered as poisoned. On the IE the warp stops at its next group (R382), on the RE at the load's (R116). -/
def execRemoteTimeout (warp : Nat) (s : State) : Out :=
  let s := (s.answerPoison ⟨warp, false⟩).answerPoison ⟨warp, true⟩
  match (s.warp warp).reply with
  | none => .next s
  | some l => .next ((s.setWarp warp { s.warp warp with reply := none }).poisonedReply warp l l.addr)

end Sys2Proof.Machine
end

