-- ==== Sys2Proof/Machine/Pages.lean ====
section
/-! DEFINITION. What a host sees and writes through a port: partition pages and their rings, completion and event
entries, the error logs, the device information page and the aperture (spec/18 R363 to R369, spec/20 R405, spec/06
R129). -/

namespace Sys2Proof.Machine

/-! ## Rings (R368) -/

/-- A ring takes its base and size: inside a window of the partition it is configured with its counts at 0, else it is
left unconfigured and bit 3 of status is set (R368). -/
def State.configureRing (s : State) (p : Nat) (k : RingKind) (base size : Nat) : State :=
  let x := s.part p
  if x.inside base (size * entryBytes k) then
    let s := s.setPart p (x.setRing k { base := base, size := size, configured := true })
    if k = .completion then State.drainBacklog (x.backlog.length + 1) s p else s
  else
    let x := { x with outsideWindow := true }
    s.setPart p (x.setRing k { base := base, size := size })

/-- RING_SIZE_WRITE (R368). -/
def execRingSizeWrite (port part : Nat) (ring : RingKind) (size : Nat) (s : State) : Out :=
  if !s.owns port part then .next s
  else
    let x := s.part part
    if !pow2In size 64 65536 ∨ ((x.ring ring).configured ∧ x.outstanding ring) then
      .next (s.setPart part { x with refusedRing := true })
    else .next (s.configureRing part ring (x.ring ring).base size)

/-- A write to a ring's base (R368): one of a configured ring with entries outstanding is refused; one of a configured
ring without any reconfigures it. All 64 bits are kept, bits 59 to 41 too, of which R368 says nothing: a base with one of
them set lies in no window. That is the model's choice (log 57). -/
def State.writeBase (s : State) (p : Nat) (k : RingKind) (base : Nat) : State :=
  let x := s.part p
  let r := x.ring k
  if r.configured ∧ x.outstanding k then s.setPart p { x with refusedRing := true }
  else if r.configured then s.configureRing p k base r.size
  else s.setPart p (x.setRing k { r with base := base })

/-- STATUS_READ (R368): bits 1 to 4 of status clear. -/
def execStatusRead (port part : Nat) (s : State) : Out :=
  if s.owns port part then
    .next (s.setPart part { s.part part with
      doorbellError := false, eventsLostBit := false, outsideWindow := false, refusedRing := false })
  else .next s

/-- COMPLETION_HEAD_WRITE (R369): waiting completions are written as the host frees entries. -/
def execCompletionHeadWrite (port part head : Nat) (s : State) : Out :=
  let x := s.part part
  if s.owns port part ∧ head < x.completion.size then
    .next (State.drainBacklog x.backlog.length
      (s.setPart part { x with completion := { x.completion with head := head } }) part)
  else .next s

/-! ## The mailbox's registers (R365) -/

/-- Whether a mailbox request waits. -/
def Mailbox.going (m : Mailbox) : Bool := m.command.testBit 31

/-- A write of 8 bytes to a mailbox register (R365). -/
def Mailbox.write (m : Mailbox) (off value : Nat) : Mailbox :=
  if off = 0 then
    if m.going then m
    else { m with command := value % 256 + (if value.testBit 31 then 2 ^ 31 else 0), result := m.result % 256 }
  else if off = 0x10 then { m with argument := value % 2 ^ 64 }
  else if 0x100 ≤ off ∧ off + 8 ≤ 0x1000 then { m with data := m.data.write (off - 0x100) (leBytes value 8) }
  else m

/-- REGISTER_WRITE (R365, R367, R368): ring bases, the event head and the mailbox store; everything else without an
event of its own ignores the write. -/
def execRegisterWrite (port offset value : Nat) (s : State) : Out :=
  if 0xF0000 ≤ offset ∧ offset < 0xF1000 then
    .next (if port = 0 then { s with mailbox := s.mailbox.write (offset - 0xF0000) value } else s)
  else
    let p := offset / 0x10000 - 1
    if offset < 0x10000 ∨ !s.owns port p then .next s
    else
      match offset % 0x10000 with
      | 0x0000 => .next (s.writeBase p .completion (value % 2 ^ 64))
      | 0x0010 => .next (s.writeBase p .event (value % 2 ^ 64))
      | 0x0020 => .next (s.writeBase p .control (value % 2 ^ 64))
      | 0x0030 => .next (s.writeBase p .admin (value % 2 ^ 64))
      | 0x0058 =>
        let x := s.part p
        .next (if value < x.event.size then s.setPart p { x with event := { x.event with head := value } } else s)
      | _ => .next s

/-- APERTURE_BAR_ACCESS (R363): an access of device physical memory inside a frame window of a partition of the port;
anywhere else it reaches nothing. -/
def execApertureBarAccess (port : Nat) (write : Bool) (addr : Nat) (bytes : List Byte) (s : State) : Out :=
  let ok := (List.range s.layout).any fun p => s.owns port p && (s.part p).inside addr bytes.length
  if !ok then .next s
  else if write then .next (s.homeWrite addr bytes)
  else .next (s.homeRead addr bytes.length).1

/-! ## Rows and capacity (R125, R126, R128, R129) -/

/-- The lowest-safe-phase code of a physical row of a core. -/
def Core.code (c : Core) (row : Nat) : Nat := Tab.get (Config.rowCode row) c.codes row

/-- Physical rows of a core that are safe at a phase. -/
def Core.safe (c : Core) (phase : Nat) : List Nat :=
  (List.range Config.physRows).filter fun r => decide (c.code r ≤ phase)

/-- How many physical rows are safe at a phase (R125): Config's figure, less the rows whose code has risen past the
phase, and with those whose code lies below Config's. -/
def Core.safeRows (c : Core) (phase : Nat) : Nat :=
  let base := (if phase = 0 then 5376 else if phase = 1 then 5888 else if phase = 2 then 6144 else 6464 : Nat)
  let gone := (c.codes.filter fun e => decide (Config.rowCode e.1 ≤ phase) && decide (phase < e.2)).length
  let gained := (c.codes.filter fun e => decide (phase < Config.rowCode e.1) && decide (e.2 ≤ phase)).length
  base + gained - gone

/-- N(φ) of a core (R126). -/
def Core.rowsAt (c : Core) (phase : Nat) : Nat := min Config.poolRows (c.safeRows phase)

/-- The physical row of a logical row. -/
def Core.physRow (c : Core) (row : Nat) : Nat := Tab.get row c.remap row

/-- A row map entry; a row at its own number is not listed. -/
def putRow (t : Tab Nat) (e : Nat × Nat) : Tab Nat := if e.1 = e.2 then Tab.drop t e.1 else Tab.put t e.1 e.2

/-- Physical rows safe at a phase that hold none of the logical rows below a count, but for rows that are to move; by
code, then by number (R138). -/
def Core.spares (c : Core) (phase below : Nat) (moving : List Nat) : List Nat :=
  let held := ((List.range below).filter fun r => !moving.contains r).map c.physRow
  (List.range (phase + 1)).flatMap fun k =>
    (List.range Config.physRows).filter fun r => c.code r == k && !held.contains r

/-- A core as a module reset leaves it with its row codes: logical rows take the safe rows at FULL, by code and then by
number (R125, R126). -/
def Core.rebooted (c : Core) : Core :=
  let n := c.rowsAt 3
  let x : Core := { codes := c.codes, rows := n }
  { x with remap := ((List.range n).zip (x.spares 3 0 [])).filter fun e => e.1 != e.2 }

/-- The guaranteed N(φ) (R128). -/
def guaranteed (phase : Nat) : Nat := if phase = 0 then 5376 else if phase = 1 then 5888 else 6144

/-- A core is offline at a phase: it has failed, or is below the guaranteed count at that phase or a higher one (R128,
R412). -/
def Core.offline (c : Core) (phase : Nat) : Bool :=
  c.failed || (List.range 4).any fun q => decide (phase ≤ q) && decide (c.rowsAt q < guaranteed q)

/-- What the capacity table says of a core (R129): flags, N at phases 3 to 0, retired rows. -/
def Core.published (c : Core) : List Nat :=
  [bitSum (fun i => c.offline (3 - i)) 4, c.rowsAt 3, c.rowsAt 2, c.rowsAt 1, c.rowsAt 0,
   Config.physRows - c.safeRows 3]

/-- CAPACITY_TABLE_UPDATE (R129): the table is rewritten, its generation rises and every partition has the event. -/
def execCapacityTableUpdate (s : State) : Out :=
  let s : State :=
    { s with
      capTable := s.cores.map fun (e : Nat × Core) => (e.1, e.2.published)
      generation := s.generation + 1 }
  .next (s.postAll (4#8 :: List.replicate 15 0#8))

/-- The published table differs from the cores (R129): it is to be rewritten. -/
def State.tableStale (s : State) : Bool :=
  (s.cores.map (·.1) ++ s.capTable.map (·.1)).any fun c =>
    Tab.get [0, 6144, 6144, 5888, 5376, 64] s.capTable c != (s.core c).published

/-- The capacity table (R129). -/
def State.capBytes (s : State) : List Byte :=
  [0x43#8, 0x41#8, 0x50#8, 0#8] ++ leBytes 1 2 ++ leBytes 256 2 ++ leBytes s.generation 4 ++ leBytes 0 4 ++
    (List.range Config.cores).flatMap fun c =>
      leBytes c 2 ++ ((Tab.get [0, 6144, 6144, 5888, 5376, 64] s.capTable c).flatMap fun v => leBytes v 2) ++ leBytes 0 2

/-! ## What a port reads (R365, R367, R368, R372) -/

/-- The digest of image i as the boot measured it (R372). -/
def State.bootDigest (s : State) (i : Nat) : BitVec 256 := Tab.get (Config.imageDigest i) s.images i

/-- The firmware version word of image i (R372; log 14). -/
def State.bootVersion (s : State) (i : Nat) : BitVec 16 :=
  match s.images.find? fun e => e.1 == i with
  | none => Config.imageVersion i
  | some e => Config.stagedVersion e.2

/-- The bytes of a digest, most significant first. -/
def beBytes (v n : Nat) : List Byte := (leBytes v n).reverse

/-- The boot record (R372). -/
def State.bootRecord (s : State) : List Byte :=
  leBytes s.bootResult 1 ++ List.replicate 7 0#8 ++
    ((List.range 4).flatMap fun i => beBytes (s.bootDigest i).toNat 32) ++
    (List.range 4).flatMap fun i => leBytes (s.bootVersion i).toNat 2

/-- The device information page (R367): 16 KiB. -/
def State.infoPage (s : State) : List Byte :=
  let put (bs : List Byte) (n : Nat) : List Byte := bs ++ List.replicate (n - bs.length) 0#8
  let a := put (List.replicate 0x100 0#8 ++ s.bootRecord) 0x1000
  let b := put (a ++ s.capBytes) 0x2100
  let ecc := s.ecc.zipIdx.map fun (e : EccEntry × Nat) => e.1.bytes e.2
  let xfer := s.xfer.zipIdx.map fun (e : XferEntry × Nat) => e.1.bytes e.2
  let c := b ++ logBytes [0x45#8, 0x43#8, 0x43#8, 0#8] ecc ++ logBytes [0x58#8, 0x46#8, 0x52#8, 0#8] xfer
  put c 0x3000 ++ (List.range 0x1000).map Config.certificate

/-- The status register of a partition page (R368); bit 0 is clear where the images did not start (R372). -/
def Partition.status (x : Partition) (ready : Bool) : Nat :=
  (if ready then 1 else 0) + (if x.doorbellError then 2 else 0) + (if x.eventsLostBit then 4 else 0) + (if x.outsideWindow then 8 else 0) +
    if x.refusedRing then 16 else 0

/-- A register of a partition page as its host reads it (R368). -/
def Partition.read (x : Partition) (ready : Bool) (off : Nat) : Nat :=
  match off with
  | 0x00 => x.completion.base | 0x08 => x.completion.size
  | 0x10 => x.event.base | 0x18 => x.event.size
  | 0x20 => x.control.base | 0x28 => x.control.size
  | 0x30 => x.admin.base | 0x38 => x.admin.size
  | 0x50 => x.completion.head | 0x58 => x.event.head
  | 0x60 => x.status ready | 0x68 => x.eventsLost
  | 0x70 => x.event.tail | 0x78 => x.completion.tail
  | _ => 0

/-- Eight bytes of the register BAR as a port reads them (R365, R367). -/
def State.barRead (s : State) (port off : Nat) : List Byte :=
  if off < 0x4000 then (s.infoPage.drop off).take 8
  else if 0xF0000 ≤ off ∧ off < 0xF1000 ∧ port = 0 then
    let m := s.mailbox
    match off - 0xF0000 with
    | 0 => leBytes m.command 8
    | 8 => leBytes m.result 8
    | 0x10 => leBytes m.argument 8
    | o => if 0x100 ≤ o then m.data.read (o - 0x100) 8 else leBytes 0 8
  else if 0x10000 ≤ off ∧ s.owns port (off / 0x10000 - 1) then
    leBytes ((s.part (off / 0x10000 - 1)).read s.booted (off % 0x10000)) 8
  else leBytes 0 8

end Sys2Proof.Machine
end

