-- ==== Sys2Proof/Machine/Launches.lean ====
section
/-! DEFINITION. From a launch in the distributor's order to its completion entry: the capacity test, the carve of a
core, placement, gangs, task regions, the exit of a block and the end of a launch (spec/04 R74 to R92, spec/12 R262,
spec/17 R344, spec/19 R392). -/

namespace Sys2Proof.Machine

/-! ## Sizes of a launch (R80, R81, R86, R392) -/

/-- The private region of a warp (R81). -/
def LaunchRec.sz (r : LaunchRec) : Nat := roundUp (4096 + 32 * r.priv) 256
/-- The slot length L (R81). -/
def LaunchRec.slotLen (r : LaunchRec) : Nat :=
  roundUp (256 + r.warps * (768 + 256 * r.regs + r.sz) + r.scratchL + 327680) 65536
/-- A0 for a partition of n cores (R81). -/
def LaunchRec.areaStart (r : LaunchRec) (n : Nat) : Nat := roundUp (n * 48 * r.sz) 65536
/-- Register and scratchpad rows of a block (R86). -/
def LaunchRec.regRows (r : LaunchRec) : Nat := r.warps * r.regs
def LaunchRec.scratchRows (r : LaunchRec) : Nat := r.scratchL / 256
/-- Rows that one block needs (R86 with B = 1). -/
def LaunchRec.need (r : LaunchRec) : Nat := r.regRows + r.scratchRows + 128 * r.l1min
/-- Blocks that are placed together: a gang, or a whole region (R89, R90). -/
def LaunchRec.unit (r : LaunchRec) : Nat := if r.region then r.total else r.gang

/-! ## Residents -/

/-- The blocks on a core, and those of a launch. -/
def State.blocksOn (s : State) (c : Nat) : List Nat := (blockSlotsOf c).filter fun b => (s.block b).used
def State.residents (s : State) (l : Nat) : List Nat :=
  (s.blocks.filter fun (e : Nat × Block) => e.2.used && e.2.launch == l).map (·.1)
/-- Warp slots of a core that hold no warp. -/
def State.freeWarps (s : State) (c : Nat) : List Nat :=
  (warpSlotsOf c).filter fun k => decide ((s.warp k).stat = .absent)
/-- The current capacity register of a core (R28). -/
def Core.capacity (c : Core) : Nat := c.rows - Config.renameRows

/-- The core's split and free slots take a block of the record (R86, first case). -/
def State.coreMatches (s : State) (r : LaunchRec) (c : Nat) : Bool :=
  let k := s.core c
  let n := (s.blocksOn c).length
  k.carve.regRows == r.regRows && k.carve.scratchRows == r.scratchRows && decide (r.l1min ≤ k.carve.ways) &&
    decide (n < k.carve.slots) && decide (r.warps ≤ (s.freeWarps c).length) && (r.bpc == 0 || decide (n < r.bpc))

/-- The carve of an empty core for a record (R86, second case), if one block fits. -/
def LaunchRec.carve (r : LaunchRec) (capacity : Nat) : Option Carve :=
  let br := r.regRows + r.scratchRows
  let fits (b : Nat) : Bool :=
    decide (b * br + 128 * r.l1min ≤ capacity) && decide (b * r.warps ≤ 48) && (r.bpc == 0 || decide (b ≤ r.bpc))
  match ((List.range 17).reverse.find? fits).getD 0 with
  | 0 => none
  | b => some { regRows := r.regRows, scratchRows := r.scratchRows, slots := b, ways := (capacity - b * br) / 128 }

/-- A block of another context makes the core one without room for a solo context, and a solo context's block for
every other (R344). -/
def State.soloOk (s : State) (ctx c : Nat) : Bool :=
  let solo (x : Nat) : Bool := ((s.context x).map (·.solo)).getD false
  (s.blocksOn c).all fun b =>
    let other := (s.launch (s.block b).launch).ctx
    other == ctx || (!solo other && !solo ctx)

/-- Nothing keeps the distributor from the core (R85, R87, R128, R130, R412, R413). That a hot core, or one that droop
events exclude, takes no restores either is the model's choice: R85 speaks of placements; and so is that nothing is
placed, restored or carved on a die in an upward step: R130 speaks of a downward one (log 57). -/
def State.coreOpen (s : State) (c : Nat) : Bool :=
  let k := s.core c
  let d := s.die (stackOf c)
  let u := s.cluster (clusterOf c)
  k.draining.isNone && !k.hot && !k.droopOut && !k.offline d.phase && d.step.isNone && !u.testDue && !u.testing &&
    !u.resetting

/-- A core takes a block of a launch, as it is or after a carve (R86). -/
def State.coreTakes (s : State) (l c : Nat) : Bool :=
  let x := s.launch l
  s.coreOpen c && s.soloOk x.ctx c &&
    (s.coreMatches x.record c || ((s.blocksOn c).isEmpty && (x.record.carve (s.core c).capacity).isSome))

/-! ## Stack scratchpad (R262) -/

/-- The start of a launch's allocation on a stack with room for it: the lowest multiple of 8 KiB. -/
def Stack.gap (k : Stack) (size : Nat) : Option Nat :=
  (0 :: k.allocs.map fun a => roundUp (a.2.1 + a.2.2) 8192).foldl (fun (best : Option Nat) a =>
    let free := decide (a + size ≤ 2 ^ 25) &&
      k.allocs.all fun x => decide (a + size ≤ x.2.1) || decide (x.2.1 + x.2.2 ≤ a)
    if free && (best.all fun b => decide (a < b)) then some a else best) none

/-- The launch has, or can get, its allocation on a stack. -/
def State.stackRoom (s : State) (l k : Nat) : Bool :=
  let size := (s.launch l).record.scratchK
  size == 0 || ((s.stack k).allocOf l).isSome || ((s.stack k).gap size).isSome

/-- The launch's allocation on a stack is made, zero-filled. -/
def State.stackAlloc (s : State) (l k : Nat) : State :=
  let size := (s.launch l).record.scratchK
  let x := s.stack k
  if size = 0 ∨ (x.allocOf l).isSome then s
  else
    match x.gap size with
    | none => s
    | some a =>
      s.setStack k { x with
        allocs := x.allocs ++ [(l, a, size)]
        bytes := x.bytes.clear a size
        poison := x.poison.filter fun w => !(decide (a ≤ 8 * w) && decide (8 * w < a + size)) }

/-- The launch's allocations are freed. -/
def State.stackFree (s : State) (l : Nat) : State :=
  { s with stackMem := s.stackMem.map fun (e : Nat × Stack) =>
      (e.1, { e.2 with allocs := e.2.allocs.filter fun a => !(a.1 == l) }) }

/-! ## Save slots (R392) -/

/-- Slots of a launch that its resident and saved blocks keep. -/
def State.usedSlots (s : State) (l : Nat) : List Nat :=
  ((s.residents l).filter fun b => !(s.block b).replay).map (fun b => (s.block b).slot) ++
    (s.launch l).saved.map (·.slot)

/-- How many slots the launch's save area holds. -/
def State.slotCount (s : State) (l : Nat) : Nat :=
  let x := s.launch l
  (x.record.arenasize - x.record.areaStart (s.coresOf x.part).length) / x.record.slotLen

/-- The free slot of lowest index. -/
def State.freeSlot (s : State) (l : Nat) : Nat :=
  ((List.range (s.slotCount l)).find? fun j => !(s.usedSlots l).contains j).getD 0

/-- Slots are free for n more blocks. -/
def State.slotsFor (s : State) (l n : Nat) : Bool := decide ((s.usedSlots l).length + n ≤ s.slotCount l)

/-- The address of a save slot. -/
def State.slotBase (s : State) (l j : Nat) : Nat :=
  let x := s.launch l
  x.record.arena + x.record.areaStart (s.coresOf x.part).length + j * x.record.slotLen

/-- The private region of a warp slot for a launch (R81). -/
def State.regionBase (s : State) (l k : Nat) : Nat :=
  let x := s.launch l
  x.record.arena + (48 * ((s.coresOf x.part).idxOf (coreOfWarp k)) + k % 48) * x.record.sz

/-! ## The order of launches (R75, R76, R84) -/

/-- The launches of a queue whose records were fetched before this one. -/
def State.earlier (s : State) (l : Nat) : List Nat :=
  let x := s.launch l
  (s.launches.filter fun (e : Nat × Launch) =>
    e.2.part == x.part && e.2.queue == x.queue && decide (e.2.order < x.order)).map (·.1)

/-- A launch has its completion entry. -/
def State.done (s : State) (l : Nat) : Bool := decide ((s.launch l).phase = .done)

/-- The launch may begin placement: it waits for every earlier launch of its queue where it is ordered, and for the
earlier ordered ones to begin (R75, R76). -/
def State.mayBegin (s : State) (l : Nat) : Bool :=
  (!(s.launch l).record.ordered || (s.earlier l).all s.done) &&
    (s.earlier l).all fun m => (s.launch m).started || s.done m || !(s.launch m).record.ordered || (s.earlier m).all s.done

/-- The priority at which a launch is treated (R84). -/
def Launch.rank (x : Launch) : Nat := if x.aged then 7 else x.record.prio

/-- A launch that is neither unused nor done. -/
def Launch.open (x : Launch) : Bool := decide (x.phase ≠ .unused) && decide (x.phase ≠ .done)

/-- Insertion into a list sorted by a measure, behind equals. -/
def insertBy {α : Type} (f : α → Nat) (a : α) : List α → List α
  | [] => [a]
  | b :: t => if f a < f b then a :: b :: t else b :: insertBy f a t

def sortBy {α : Type} (f : α → Nat) (l : List α) : List α := l.foldl (fun t a => insertBy f a t) []

/-- The launches in the distributor's order (R84). -/
def State.launchOrder (s : State) : List Nat :=
  let ls := (s.launches.filter fun (e : Nat × Launch) => e.2.open).map (·.1)
  sortBy (fun l => 7 - (s.launch l).rank) (sortBy (fun l => (s.launch l).order) ls)

/-! ## Completion (R76, R83, R369) -/

/-- Every core of a partition writes back its dirty and accumulate-state lines: a release at device scope (R288). -/
def State.flushPart (s : State) (p : Nat) : State :=
  (s.coresOf p).foldl (fun s c => ((s.flushCore c).raiseEpoch c).2) s

/-- A launch completes with a status: what its blocks wrote is released at device scope, its completion entry is written
and what it held is freed (R76). -/
def State.endLaunch (s : State) (l status : Nat) : State :=
  let x := s.launch l
  if !x.open then s
  else
    let s := if x.started then s.flushPart x.part else s
    let s := (s.setLaunch l { x with phase := .done, saved := [], replaying := [] }).stackFree l
    s.complete x.part x.record.tag status 0 x.queue x.rollbacks x.nextAt
      (irqVector x.record.irq x.queue)

/-! ## The capacity test (R88) -/

/-- What the capacity test of a launch's first placement gives. -/
inductive Verdict where
  | fits
  | waits
  | refuse (status : Nat)
  deriving DecidableEq, Repr

/-- The core can hold one block, at its capacity register, and at FULL where it is not offline there. -/
def State.holdsNow (s : State) (r : LaunchRec) (c : Nat) : Bool :=
  !(s.core c).offline (s.die (stackOf c)).phase && decide (r.need ≤ (s.core c).capacity)
def State.holdsEver (s : State) (r : LaunchRec) (c : Nat) : Bool :=
  !(s.core c).offline 3 && decide (r.need ≤ (s.core c).rowsAt 3 - Config.renameRows)

/-- Some set of cores for one placement unit of the record meets a test (R88 to R90). -/
def State.someSet (s : State) (p : Nat) (r : LaunchRec) (ok : Nat → Bool) : Bool :=
  if r.region then
    (s.stacksOf p).any fun k => decide (r.total ≤ (((List.range 64).map (64 * k + ·)).filter ok).length)
  else (s.coresOf p).any fun c => c % r.gang == 0 && (List.range r.gang).all fun j => ok (c + j)

/-- The capacity test (R88, R90). -/
def State.verdict (s : State) (l : Nat) : Verdict :=
  let x := s.launch l
  let r := x.record
  if 5888 < r.need then .refuse 6
  else if 1 < r.unit ∧ !s.someSet x.part r (s.holdsEver r) then .refuse 8
  else if (s.coresOf x.part).all (fun c => !s.holdsNow r c) ∨
      (!r.region ∧ !s.someSet x.part r (s.holdsNow r)) then
    if r.phwait then .waits else .refuse 1
  else .fits

/-! ## Carving a core (R86, R87) -/

/-- The lines of a core that stand in rows which a test of a way and a row of it finds leave the L1, written back where
dirty (R87, R131, R263). -/
def State.emptyRows (s : State) (core : Nat) (gone : Nat → Nat → Bool) : State :=
  let c := s.core core
  ((c.l1.map (·.line) ++ c.acc.map (·.place)).filter fun x => (c.wayOf x).any fun w => gone w (setOf x / 2)).foldl
    (fun s x => s.evictLine core x) s

/-- The lines of a core that stand in vanishing ways leave the L1. -/
def State.keepWays (s : State) (core : Nat) (stays : Nat → Bool) : State := s.emptyRows core fun w _ => !stays w

/-- The first logical row of the L1 region of a carve (R127). -/
def Carve.l1Base (v : Carve) : Nat := Config.renameRows + v.slots * (v.regRows + v.scratchRows)

/-- The way of a new carve that has the rows of a way of the old one (R87, R127). -/
def Carve.wayIn (a b : Carve) (w : Nat) : Option Nat :=
  let row := a.l1Base + 128 * w
  if b.l1Base ≤ row ∧ (row - b.l1Base) % 128 = 0 ∧ (row - b.l1Base) / 128 < b.ways then some ((row - b.l1Base) / 128)
  else none

/-- A core with its lines numbered by the ways of a new carve. -/
def Core.recarved (c : Core) (v : Carve) : Core :=
  let way (w : Nat) : Nat := (c.carve.wayIn v w).getD w
  { c with
    carve := v, draining := none
    l1 := c.l1.map fun l => { l with way := way l.way }
    acc := c.acc.map fun x => { x with way := way x.way } }

/-- An empty core is carved for a launch's record: lines in ways whose rows change their use leave the L1 (R86, R87,
R127). -/
def State.carveFor (s : State) (l c : Nat) : State :=
  let k := s.core c
  match (s.launch l).record.carve k.capacity with
  | none => s
  | some v =>
    let s := s.keepWays c fun w => (k.carve.wayIn v w).isSome
    s.setCore c ((s.core c).recarved v)

/-! ## The distributor's order (R84, R139) -/

/-- The launch is neither undone nor ended. -/
def Launch.runs (x : Launch) : Bool := x.open && !x.undoing && x.ending.isNone

/-- The launch has blocks that may be placed: it may begin, and no wait for a phase holds it (R76, R139). -/
def State.toPlace (s : State) (l : Nat) : Bool :=
  let x := s.launch l
  decide (x.next < x.record.total) && decide (x.phase ≠ .held) && s.mayBegin l

/-- The launches that have something to place or restore, in the distributor's order (R84). -/
def State.waitingLaunches (s : State) : List Nat :=
  s.launchOrder.filter fun l =>
    let x := s.launch l
    x.runs && (s.toPlace l || (x.saved.any fun e => !e.stopped) || !x.replaying.isEmpty)

/-- The waiting launches of a partition; its distributor's order is that of its own launches. -/
def State.waitingIn (s : State) (p : Nat) : List Nat := s.waitingLaunches.filter fun l => (s.launch l).part == p

/-! ## Placement (R27, R84, R86, R89, R90) -/

/-- A warp as it starts (R27). -/
def startWarp (b idx : Nat) (r : LaunchRec) (pbase : Nat) : Warp :=
  { stat := .running
    block := b
    idx := idx
    regs := { s := [(62, BitVec.ofNat 64 (pbase + 4096))] }
    ctl := { a := { live := true, pc := r.entry, mask := 0xFFFFFFFF#32 } }
    pbase := BitVec.ofNat 64 pbase }

/-- The first free block slot of a core's split. -/
def State.freeBlockSlot (s : State) (c : Nat) : Nat :=
  (((List.range (s.core c).carve.slots).map (16 * c + ·)).find? fun b => !(s.block b).used).getD (16 * c)

/-- A block of a launch becomes resident on a core whose split takes it: the core acquires at device scope (R70, R76),
and every warp starts (R27) in a free warp slot with the private region of that slot (R81). That it takes the lowest free
block slot and the lowest free warp slots is the model's choice (log 57). -/
def State.putBlock (s : State) (l lin c : Nat) (replay : Bool) : State :=
  let x := s.launch l
  let r := x.record
  let b := s.freeBlockSlot c
  let slot := if replay then 0 else s.freeSlot l
  let ws := (s.freeWarps c).take r.warps
  let s := (s.stackAlloc l (stackOf c)).invalidateClean c
  let s := s.setBlock b
    { used := true, launch := l, lin := lin, warps := r.warps, regs := r.regs, scratchSize := r.scratchL,
      slot := slot, replay := replay }
  ws.zipIdx.foldl (fun (s : State) (w : Nat × Nat) => s.setWarp w.1 (startWarp b w.2 r (s.regionBase l w.1))) s

/-- The core is made ready for a block: carved first where its split does not take it. -/
def State.ready (s : State) (l c : Nat) : State :=
  if s.coreMatches (s.launch l).record c then s else s.carveFor l c

/-- The cores for members of a unit, which begins at a core: the core itself, cores of its gang by the members' places, or
fitting cores of its stack for a region; none where they do not all take a block now. That a region takes the fitting
cores of lowest number, in the order of its positions, is the model's choice (log 57). -/
def State.coresFor (s : State) (l core : Nat) (members : List Nat) : Option (List Nat) :=
  let x := s.launch l
  let r := x.record
  let cs : List Nat :=
    if r.region then (((List.range 64).map (64 * stackOf core + ·)).filter (s.coreTakes l)).take members.length
    else members.map (core + ·)
  if (s.coresOf x.part).contains core ∧ (r.region ∨ core % r.gang = 0) ∧ cs.length = members.length ∧
      cs.all (s.coreTakes l) ∧ s.stackRoom l (stackOf core) then some cs
  else none

/-- The cores for the next placement unit that begins at a core (R89, R90). -/
def State.unitCores (s : State) (l core : Nat) : Option (List Nat) :=
  s.coresFor l core (List.range (s.launch l).record.unit)

/-- The first core on which the unit of a launch fits. -/
def State.coreFor (s : State) (l : Nat) : Option Nat := (s.coresOf (s.launch l).part).find? fun c => (s.unitCores l c).isSome

/-- The next unit of a launch can be placed now. -/
def State.placeable (s : State) (l : Nat) : Bool :=
  let x := s.launch l
  x.runs && s.toPlace l && (x.started || decide (s.verdict l = .fits)) && s.slotsFor l x.record.unit && (s.coreFor l).isSome

/-! ### Restores before placements (R135, R391) -/

/-- The saved blocks restored together with one (R89, R90). -/
def State.savedUnit (s : State) (l lin : Nat) : List Saved :=
  let x := s.launch l
  let n := x.record.unit
  sortBy (fun (e : Saved) => e.lin) (x.saved.filter fun e => e.lin / n == lin / n)

/-- The members of a saved unit stand together, but for those that have exited, none is stopped, and every reply that its
warps were saved without has landed (R89, R90, R390, R391). -/
def State.unitReady (s : State) (l lin : Nat) : Bool :=
  let x := s.launch l
  let n := x.record.unit
  let es := s.savedUnit l lin
  !es.isEmpty && es.length + (x.exited.filter fun e => e / n == lin / n).length == n &&
    !es.any fun e => e.stopped || e.kept.any fun k => k.reply.isSome

/-- The cores on which a saved unit is restored, beginning at one: each member takes its place in the unit (R89, R90). -/
def State.restoreCores (s : State) (l lin core : Nat) : Option (List Nat) :=
  s.coresFor l core ((s.savedUnit l lin).map fun e => e.lin % (s.launch l).record.unit)

/-- The first core on which the unit of a saved block can be restored. -/
def State.coreToRestore (s : State) (l lin : Nat) : Option Nat :=
  (s.coresOf (s.launch l).part).find? fun c => (s.restoreCores l lin c).isSome

/-- The saved blocks of a partition whose units may be restored, with their launches: evicted ones first, those that
hold a lock before the others and then in order of eviction; the rest by the order of launches, lock holders first
(R135, R391). -/
def State.toRestore (s : State) (p : Nat) : List (Nat × Saved) :=
  let ls := s.launchOrder.filter fun l => (s.launch l).runs && (s.launch l).part == p
  let all := (ls.flatMap fun l => (s.launch l).saved.map fun e => (l, e)).filter fun e => s.unitReady e.1 e.2.lin
  let holders (es : List (Nat × Saved)) : List (Nat × Saved) :=
    sortBy (fun (e : Nat × Saved) => if e.2.holder then 0 else 1) es
  holders (sortBy (fun (e : Nat × Saved) => e.2.order) (all.filter fun e => e.2.evicted)) ++
    ls.flatMap fun l => holders (all.filter fun e => !e.2.evicted && e.1 == l)

/-- A saved unit can be restored now. -/
def State.restorable (s : State) (e : Nat × Saved) : Bool := (s.coreToRestore e.1 e.2.lin).isSome

/-- No saved unit ahead of a block's placement or restore can be restored now: an evicted one is ahead of every other
block, any other ahead of its own launch's unstarted ones and of later launches (R135, R391). -/
def State.restoresFirst (s : State) (p : Nat) (mine : Nat × Saved → Bool) (later : Nat → Bool) : Bool :=
  ((s.toRestore p).takeWhile fun e => !mine e).all fun e => (!e.2.evicted && later e.1) || !s.restorable e

/-- A launch's own saved units, and those of launches behind it in the order. -/
def State.behind (s : State) (l : Nat) : List Nat := (s.waitingIn (s.launch l).part).dropWhile fun m => m != l

/-- No saved unit that comes first can be restored, and no launch ahead in the distributor's order can place its next unit
now (R84, R135, R391). -/
def State.turnOf (s : State) (l : Nat) : Bool :=
  let p := (s.launch l).part
  s.restoresFirst p (fun _ => false) (fun m => ((s.behind l).drop 1).contains m) &&
    ((s.waitingIn p).takeWhile fun m => m != l).all fun m => !s.placeable m

/-- No saved unit ahead of this one can be restored, and, where it is no evicted one, no launch ahead can place its next
unit (R135, R391). -/
def State.turnToRestore (s : State) (l lin : Nat) : Bool :=
  let x := s.launch l
  let n := x.record.unit
  let mine (e : Nat × Saved) : Bool := e.1 == l && e.2.lin / n == lin / n
  s.restoresFirst x.part mine (fun _ => false) &&
    ((x.saved.any fun e => e.evicted && e.lin / n == lin / n) ||
      ((s.waitingIn x.part).takeWhile fun m => m != l).all fun m => !s.placeable m)

/-- A launch's claim where it waits (R84, R135): one that waits for an evicted block stands as at priority 7. -/
def State.claim (s : State) (l : Nat) : Nat :=
  let x := s.launch l
  if x.saved.any fun e => e.evicted && s.unitReady l e.lin then 7 else x.rank

/-- The launch at the head of a partition's order: that of an evicted block which waits, ahead of every other (R84,
R135). -/
def State.headOf (s : State) (p : Nat) : Option Nat :=
  (((s.toRestore p).find? fun e => e.2.evicted).map (·.1)).or (s.waitingIn p).head?

/-- The first card of a region: 64 bytes at the address that pool word 0 holds (R90). -/
def State.firstCard (s : State) (l : Nat) : State × BitVec 512 :=
  let x := s.launch l
  match s.cpRead x.ctx 2 x.record.pool 8 with
  | none => (s, 0)
  | some (s, bs) =>
    match s.cpRead x.ctx 2 (leNat bs) 64 with
    | none => (s, 0)
    | some (s, card) => (s, BitVec.ofNat 512 (leNat card))

/-- The next unit of a launch is placed on its cores (R84, R89, R90). -/
def State.placeUnit (s : State) (l : Nat) (cs : List Nat) : State :=
  let x := s.launch l
  let r := x.record
  let s := cs.zipIdx.foldl (fun (s : State) (c : Nat × Nat) => (s.ready l c.1).putBlock l (x.next + c.2) c.1 false) s
  let s := s.setLaunch l { s.launch l with
    next := x.next + r.unit, phase := .running, started := true, aged := false }
  if r.region then
    let (s, card) := s.firstCard l
    (s.putCard l 0 card).later (.cometForward l)
  else s

/-- BLOCK_PLACE (R76, R84, R86, R88): the capacity test of a first placement, then the next block, gang or region of
the launch on cores that begin at the one named, in the launch's turn. -/
def execBlockPlace (launch core : Nat) (s : State) : Out :=
  let x := s.launch launch
  if !x.open ∨ x.undoing ∨ x.ending.isSome ∨ x.record.total ≤ x.next ∨ !s.mayBegin launch then .next s
  else
    match (if x.started then Verdict.fits else s.verdict launch) with
    | .refuse st => .next (s.endLaunch launch st)
    | .waits =>
      if x.phase = .held then .next s
      else
        let s := s.setLaunch launch { x with phase := .held }
        .next (if x.record.phasewait = 0 then s else s.later (.phaseTimeout launch))
    | .fits =>
      match s.unitCores launch core with
      | none => .next s
      | some cs => if s.slotsFor launch x.record.unit ∧ s.turnOf launch then .next (s.placeUnit launch cs) else .next s

/-- A launch that a wait for a phase holds is tested again; a fit ends the hold (R88, R139). -/
def State.retest (s : State) (l : Nat) : State :=
  let x := s.launch l
  if x.phase = .held ∧ s.verdict l = .fits then s.setLaunch l { x with phase := .waiting } else s

/-- PHASE_TIMEOUT (R88): the wait passes its limit without a fit. -/
def execPhaseTimeout (launch : Nat) (s : State) : Out :=
  let s := s.retest launch
  let x := s.launch launch
  if x.phase = .held ∧ x.record.phasewait ≠ 0 then .next (s.endLaunch launch 7) else .next s

/-- LAUNCH_AGE (R84): a launch that waits for its next block is treated as priority 7 until that block is placed. -/
def execLaunchAge (launch : Nat) (s : State) : Out :=
  let x := s.launch launch
  if x.open ∧ x.next < x.record.total then .next (s.setLaunch launch { x with aged := true }) else .next s

/-! ## Draining a core (R87) -/

/-- The launch for which a drained core is carved: the one that caused the draining, or, where that waits no more, the
head of the order (R87). -/
def State.carveTarget (s : State) (core : Nat) : Option Nat :=
  let p := s.partOfStack (stackOf core)
  let ls := s.waitingIn p
  ((s.core core).draining.filter ls.contains).or (s.headOf p)

/-- CORE_CARVE (R87): a drained core is carved for its target, an empty open one for a waiting launch. -/
def execCoreCarve (launch core : Nat) (s : State) : Out :=
  let target := if (s.core core).draining.isSome then s.carveTarget core = some launch
    else s.coreOpen core ∧ s.waitingLaunches.contains launch
  if target ∧ (s.blocksOn core).isEmpty ∧ (s.coresOf (s.launch launch).part).contains core ∧
      (s.die (stackOf core)).step.isNone then
    .next (s.carveFor launch core)
  else .next s

/-- The cores among which a draining one is chosen: eligible cores with residents (R87). -/
def State.drainable (s : State) (l : Nat) : List Nat :=
  (s.coresOf (s.launch l).part).filter fun c =>
    s.coreOpen c && !(s.blocksOn c).isEmpty && ((s.launch l).record.carve (s.core c).capacity).isSome &&
      decide ((((List.range 64).map (64 * stackOf c + ·)).filter fun d => (s.core d).draining.isSome).length < 4)

/-- The core to mark draining for a launch that no core has room for (R87): the one with the fewest resident blocks,
the lowest number among equals. That a launch may have further cores marked while one drains for it, up to four of a
stack, is the model's choice, and so is that a core which takes nothing now, since it is hot or out for its droops or its
die steps, counts neither as a matching one with room nor as an empty one (log 57). -/
def State.drainChoice (s : State) (l : Nat) : Option Nat :=
  let cs := s.coresOf (s.launch l).part
  if cs.any (fun c => s.coreTakes l c || ((s.blocksOn c).isEmpty && s.coreOpen c)) then none
  else leastBy (fun c => (s.blocksOn c).length) (s.drainable l)

/-- CORE_DRAIN (R87): for the head of the order. -/
def execCoreDrain (launch core : Nat) (s : State) : Out :=
  if s.headOf (s.launch launch).part = some launch ∧ s.drainChoice launch = some core then
    .next (s.setCore core { s.core core with draining := some launch })
  else .next s

/-! ## Excluded cores (R85) -/

/-- DROOP_EVENT (R85). -/
def execDroopEvent (core : Nat) (s : State) : Out :=
  let (t, s) := s.now
  .next (s.setCore core { s.core core with droops := (s.core core).droops ++ [t] })

/-- CORE_SAMPLE (R85): heat above 95 °C excludes the core until below 88 °C; more than four droop events in the last
millisecond exclude it until DROOP_EXCLUSION_END. -/
def execCoreSample (core celsius : Nat) (s : State) : Out :=
  let (t, s) := s.now
  let c := s.core core
  let out := decide (4 < (c.droops.filter fun d => decide (t < d + 1000)).length)
  let s := s.setCore core { c with
    hot := if 95 < celsius then true else if celsius < 88 then false else c.hot
    droops := c.droops.filter fun d => decide (t < d + 2000)
    droopOut := c.droopOut || out }
  .next (if out then s.later (.droopExclusionEnd core) else s)

/-- DROOP_EXCLUSION_END (R85): two milliseconds have passed since the latest droop event. -/
def execDroopExclusionEnd (core : Nat) (s : State) : Out :=
  let (t, s) := s.now
  let c := s.core core
  if c.droops.any fun d => decide (t < d + 2000) then .next (if c.droopOut then s.later (.droopExclusionEnd core) else s)
  else .next (s.setCore core { c with droopOut := false, droops := [] })

/-! ## Leaving a core -/

/-- An event that concerns one of these warps (R102, R104, R120, R121, R316, R375). -/
def eventOfWarp (ks : List Nat) : Instr → Bool
  | .sleepExpire k | .yieldEnd k | .nprOverrun k | .reContextGrant k | .promotionComplete k | .demotionComplete k
  | .bowaitExpire k _ | .remoteTimeout k => ks.contains k
  | _ => false

/-- The tile and copy instructions of a block leave its core, and its held words, ranges and recorded engine states. -/
def Core.withoutBlock (c : Core) (b : Nat) (ks : List Nat) : Core :=
  let keep (t : TileOp) : Bool := t.block != b
  { c with
    window := c.window.filter fun h => keep h.tile
    flushing := c.flushing && c.window.any fun h => keep h.tile
    queue := c.queue.filter keep
    streamBusy := c.streamBusy.filter keep
    loadBusy := c.loadBusy.filter keep
    copy0 := c.copy0.filter fun x => keep x.tile
    copy1 := c.copy1.filter fun x => keep x.tile
    ranges := c.ranges.filter fun r => keep r.tile
    l1 := c.l1.map fun l => { l with guard := l.guard.filter fun g => g.1 != b }
    savedEngines := c.savedEngines.filter fun e => e.block != b
    baton := c.baton.filter fun k => !ks.contains k
    batonQueue := c.batonQueue.filter fun n => !ks.contains (Turn.ofNum n).warp
    reWarps := c.reWarps.filter fun k => !ks.contains k
    reWaiting := c.reWaiting.filter fun k => !ks.contains k }

/-- A block leaves its core: partial reductions into its scratchpad are recalled (R299), its rows and warp slots are
freed, and what waited for its units may start. -/
def State.freeBlock (s : State) (b : Nat) : State :=
  let ks := s.warpsOf b
  let c := coreOfBlock b
  let segs := (s.cores.flatMap fun (e : Nat × Core) => e.2.redHolders.map (·.1)).filter fun g => g / 2 ^ 21 == b
  let s := segs.eraseDups.foldl State.recallSegment s
  let held := (s.core c).reWarps.length
  let s := s.setCore c ((s.core c).withoutBlock b ks)
  let s : State :=
    { s with
      agenda := s.agenda.filter fun i => !eventOfWarp ks i
      turns := s.turns.filter fun t => !ks.contains t.warp
      warps := s.warps.filter fun (e : Nat × Warp) => !ks.contains e.1
      blocks := Tab.drop s.blocks b }
  let s := if (s.core c).baton.isNone ∧ !(s.core c).batonQueue.isEmpty then s.later (.batonGrant c) else s
  let s := if held = (s.core c).reWarps.length then s
    else (leastBy (fun k => (s.warp k).turnOf) (s.contextWaiters c)).elim s s.askContext
  s.stirUnits c

/-- Nothing of a block stands in the units of its core, nor in a copy that writes to it (R101, R320). -/
def State.unitsClear (s : State) (b : Nat) : Bool :=
  let c := s.core (coreOfBlock b)
  let mine (t : TileOp) : Bool := t.block == b
  !(c.queue.any mine || c.streamBusy.any mine || c.loadBusy.any mine || (c.copy0.map (·.tile)).any mine ||
    (c.copy1.map (·.tile)).any mine)

/-- The store signatures of a block's warps, by warp index (R410). -/
def State.blockSigs (s : State) (b : Nat) : List Word :=
  (List.range (s.block b).warps).map fun i => ((s.warpAt b i).map fun k => (s.warp k).sig).getD 0#64

/-- All blocks of a launch have exited and its replays have ended (R76, R411). -/
def State.finished (s : State) (l : Nat) : Bool :=
  let x := s.launch l
  x.open && x.started && x.exited.length == x.record.total && x.replaying.isEmpty && (s.residents l).isEmpty

/-- The launch's completion follows once nothing of it is left. -/
def State.checkFinished (s : State) (l : Nat) : State := if s.finished l then s.later (.launchComplete l) else s

/-- An audit replay that met poison or is pre-empted is abandoned, and counts as no audit (R411). -/
def State.abandonReplay (s : State) (b : Nat) : State :=
  let l := (s.block b).launch
  let lin := (s.block b).lin
  let s := (s.logStopped b).freeBlock b
  (s.setLaunch l { s.launch l with replaying := without (s.launch l).replaying lin }).checkFinished l

/-- BLOCK_EXIT (R101, R411): the block's rows are freed; a block of an audited launch may be chosen for a replay, and a
replay hands over its signatures, unless a tile instruction of it has met poison since its last warp ended. -/
def execBlockExit (block : Nat) (s : State) : Out :=
  let b := s.block block
  if !b.used ∨ (s.warpsOf block).any s.liveWarp ∨ !s.unitsClear block then .next s
  else
    let l := b.launch
    let x := s.launch l
    let sigs := s.blockSigs block
    if b.replay then
      if b.saving = some .trap then .next (s.abandonReplay block)
      else .next ((s.freeBlock block).later (.auditReplayComplete l b.lin (coreOfBlock block) sigs))
    else
      let (i, s) := if x.record.audit then s.draw else (0, s)
      let chosen := x.record.audit && (x.record.auditk == 0 || Config.auditDraw i x.record.auditk)
      let x := { x with
        exited := addOnce x.exited b.lin
        replaying := if chosen then x.replaying ++ [b.lin] else x.replaying
        signatures := if chosen then Tab.put x.signatures b.lin (coreOfBlock block, sigs) else x.signatures }
      .next (((s.setLaunch l x).freeBlock block).checkFinished l)

/-- LAUNCH_COMPLETE (R76, R83, R411): a device-scope release, then the completion entry; a launch whose abort or cancel
has been accepted completes so (R371, R387). -/
def execLaunchComplete (launch : Nat) (s : State) : Out :=
  if s.finished launch then
    let x := s.launch launch
    .next (s.endLaunch launch (x.ending.getD (if x.mismatch then 4 else 0)))
  else .next s

/-- Every block of a launch, resident or saved, is discarded without a save; what it has written stands (R371, R387,
R408). -/
def State.discardLaunch (s : State) (l : Nat) : State :=
  let s := (s.residents l).foldl State.freeBlock s
  s.setLaunch l { s.launch l with saved := [], replaying := [] }

/-! ## The comet (R92) -/

/-- The block at a ring position is idle: its queue is empty, and every one of its warps waits in take or has exited
(R92). -/
def State.idleAt (s : State) (l pos : Nat) : Bool :=
  (s.cardQueue l pos).cards.isEmpty &&
    match s.ringBlock l pos with
    | none => (s.launch l).exited.contains pos
    | some b =>
      (s.warpsOf b).all fun k =>
        let w := s.warp k
        let taking (p : Path) (m : Micro) : Bool :=
          !p.live || match m.wait with
            | .take _ _ => true
            | _ => false
        !s.liveWarp k || (taking w.ctl.a w.ma && taking w.ctl.b w.mb)

/-- The position is black. -/
def State.blackAt (s : State) (l pos : Nat) : Bool := (s.cardQueue l pos).black

/-- The position turns white. -/
def State.whiten (s : State) (l pos : Nat) : State := s.setCardQueue l pos { s.cardQueue l pos with black := false }

/-- COMET_FORWARD (R92): an idle holder sends the comet on; back at position 0 the round is judged. -/
def execCometForward (launch : Nat) (s : State) : Out :=
  let x := s.launch launch
  if !x.open ∨ !x.record.region ∨ !x.started ∨ x.ended ∨ !s.idleAt launch x.comet then .next s
  else
    let n := x.record.total
    let black := s.blackAt launch x.comet
    let next := (x.comet + 1) % n
    if x.comet = 0 ∧ x.cometBack then
      if !x.cometBlack ∧ !black then
        let s := s.setLaunch launch { x with ended := true }
        .next ((s.residents launch).foldl (fun s b => State.serveTakes 128 s b) s)
      else
        let s := s.whiten launch 0
        let s := s.setLaunch launch { s.launch launch with comet := next, cometBlack := false, cometBack := false }
        .next (s.later (.cometForward launch))
    else
      let s := s.whiten launch x.comet
      let s := s.setLaunch launch
        { s.launch launch with comet := next, cometBlack := x.cometBlack || black, cometBack := decide (next = 0) }
      .next (s.later (.cometForward launch))

end Sys2Proof.Machine
end

