-- ==== Sys2Proof/Machine/Saves.lean ====
section
/-! DEFINITION. Saving and restoring blocks (spec/19 R385 to R401, spec/10 R214, spec/14 R320, spec/06 R135):
pre-emption, the save image and its checks, restore, and the host's disposition of a stopped block. -/

namespace Sys2Proof.Machine

/-! ## Blocking points (R388) -/

/-- A wait that is a blocking point of pre-emption (R388). -/
def Wait.blocking : Wait → Bool
  | .none | .room _ => false
  | _ => true

/-- The wake code of a wait (R395). -/
def Wait.code : Wait → Nat
  | .none | .room _ => 0
  | .bar _ => 1
  | .bowait _ _ _ _ _ _ => 2
  | .baton | .chain _ => 3
  | .take _ _ => 4
  | .xswap _ _ _ _ _ _ => 5
  | .remote _ => 6

/-- Every live slot of the warp waits at a blocking point. -/
def Warp.allBlocked (w : Warp) : Bool :=
  (!w.ctl.a.live || w.ma.wait.blocking) && (!w.ctl.b.live || w.mb.wait.blocking)

/-- The block can be pre-empted (R388): each of its live warps is blocked (R111), waits in every slot, or has a load of
another device outstanding. That none of those waits has to have lasted 2,048 cycles is timing (log 4). -/
def State.preemptible (s : State) (b : Nat) : Bool :=
  (s.block b).used && (s.warpsOf b).all fun k =>
    let w := s.warp k
    !s.liveWarp k || (decide (w.stat = .running) && (w.blocked || w.allBlocked || w.reply.isSome) && !w.npr)

/-- The warp holds still: it has ended, stopped or halted, is blocked, has a load of another device outstanding, or every
slot waits at a blocking point or stands at a packet boundary with one waiting at least (R385, R390). One that waits for
another device on the RE demotes first, and a stopped one has no load outstanding (R390, R398). -/
def Warp.still (w : Warp) : Bool :=
  match w.stat with
  | .running =>
    !w.remoteOnRe && (w.blocked || w.reply.isSome ||
      (w.ma.wait.blocking || w.mb.wait.blocking) && (!w.ctl.a.live || w.ma.wait.blocking || w.ma.atBoundary) &&
        (!w.ctl.b.live || w.mb.wait.blocking || w.mb.atBoundary))
  | _ => w.reply.isNone

/-- Accepted instructions of the block in its core's units have started and not finished, or must finish before a save:
copies under way, and tile instructions of a block that does not hold the baton (R214, R320). -/
def State.unitsBusy (s : State) (b : Nat) : Bool :=
  let c := s.core (coreOfBlock b)
  let mine (t : TileOp) : Bool := t.block == b
  let holds := c.baton.any fun k => (s.warp k).block == b
  c.streamBusy.any mine || c.loadBusy.any mine || (c.copy0.map (·.tile)).any mine || (c.copy1.map (·.tile)).any mine ||
    (!holds && c.queue.any fun t => mine t && !isCopy t.op && !t.chained)

/-- The block and every member saved with it can be saved now (R89, R320, R389, R391). A block whose last warp has ended
exits instead (R101), and a warp that its npr span spares is not stopped (R389). The warps of a block whose engine is
still to be rebuilt have issued nothing since their restore. -/
def State.savable (s : State) (b : Nat) : Bool :=
  let x := s.block b
  x.used && x.saving.isSome && !(s.launch x.launch).undoing && (s.launch x.launch).ending.isNone &&
    (s.members b).all fun y =>
      (s.block y).saving.isSome && !s.unitsBusy y && (s.warpsOf y).any s.liveWarp &&
        (s.warpsOf y).all (fun k => (s.warp k).still || s.engineDue y) &&
        if (s.block y).saving = some .forced ∧ !(s.block y).deadline then s.preemptible y
        else (s.warpsOf y).all fun k => !(decide ((s.warp k).stat = .running) && s.spared k)

/-- PREEMPT_DEADLINE (R389): every warp outside npr stops at its next packet boundary. -/
def execPreemptDeadline (block : Nat) (s : State) : Out :=
  if (s.block block).saving = some .forced then
    .next ((s.members block).foldl (fun (s : State) y =>
      let s := s.setBlock y { s.block y with deadline := true }
      (s.warpsOf y).foldl State.haltAtBoundary s) s)
  else .next s

/-! ## The image (R394 to R396) -/

/-- Reason codes (R394). -/
def SaveReason.code : SaveReason → Nat
  | .preempt => 0 | .forced => 1 | .trap => 2 | .evict => 3 | .test => 4 | .step => 5

/-- A slot as 8 bytes (R395). -/
def Path.num (p : Path) : Nat := p.pc % 2 ^ 31 + (if p.live then 2 ^ 31 else 0) + p.mask.toNat * 2 ^ 32

/-- A slot from 8 bytes. -/
def Path.ofNat (n : Nat) : Path := { live := bits n 31 31 == 1, pc := bits n 30 0, mask := BitVec.ofNat 32 (n / 2 ^ 32) }

/-- The 16 bytes of the region fields (R395). -/
def Ctl.regionBytes (c : Ctl) : List Byte :=
  leBytes c.rpc.toNat 4 ++ leBytes c.rmask.toNat 4 ++ leBytes c.rarr.toNat 4 ++ leBytes c.exited.toNat 4

/-- The slot at which a saved warp resumes (R395): the trapped one, a waiting one, or the one that issued last. -/
def Warp.resumeSlot (w : Warp) : Bool :=
  if w.stat = .stopped then w.lastB
  else if w.ctl.a.live && w.ma.wait.blocking then false
  else if w.ctl.b.live && w.mb.wait.blocking then true
  else w.stopSlot

/-- A slot waits, or will find what has come of a wait (R44; log 53). -/
def Micro.waiting (m : Micro) : Bool := m.wait.blocking || !m.wakes.isEmpty

/-- The state code of a warp record (R395): one that neither waits nor has a load outstanding is held where it is. -/
def Warp.stateCode (w : Warp) : Nat :=
  match w.stat with
  | .absent | .ended => 0
  | .stopped => 1
  | .halted => 2
  | .running =>
    if w.reply.isSome || (w.ctl.a.live && w.ma.waiting) || (w.ctl.b.live && w.mb.waiting) then 3 else 2

/-- A watchpoint as 16 bytes (R400). -/
def Watch.bytes (w : Watch) : List Byte :=
  leBytes w.base 8 ++ leBytes (w.size % 32 + w.kind % 4 * 32 + (if w.v then 128 else 0)) 8

/-- The address of a barrier object as its space names it (R30, R31). -/
def objAddress (z : BitVec 2) (block off : Nat) : Nat :=
  if objSpace z = .c then coreOfBlock block % 4 * 2 ^ 21 + off else off

/-- The object field of a warp record: the address with the token in bit 0. -/
def Wake.object : Wake → Nat
  | .bowait a t _ => a + if t then 1 else 0
  | _ => 0

/-- The remote loads of a warp that have no reply yet (R390). -/
def Warp.pendingReplies (w : Warp) : Nat := if w.reply.isSome then 1 else 0

/-- What a slot's word finds of the wait that it is at, when it issues again after a restore (R316, R320, R395). -/
def Micro.wakeOf (m : Micro) : Wake :=
  match m.wait with
  | .bar n => .bar n false
  | .bowait y off t n _ z => .bowait (objAddress z y off) t n
  | _ => m.wake

/-- What the words of a slot's packet find of their waits when they issue again after a restore (R44; log 53). -/
def Micro.keptWakes (m : Micro) : Tab Wake :=
  if m.wakeOf = .none then m.wakes else Tab.put m.wakes m.word m.wakeOf

/-- The fixed 768 bytes of a warp record (R395). A group that waits resumes at its first word, while the byte address
is its blocking word's (log 53). -/
def State.recordHead (s : State) (k : Nat) : List Byte :=
  let w := s.warp k
  let x := w.resumeSlot
  let m := w.micro x
  let wait := m.wait
  let wake := m.wakeOf
  let stopped := decide (w.stat = .stopped)
  let p := w.pend
  let pc := (p.map (·.ctl)).getD { rpc := 0#32, rmask := 0#32 }
  let kind := match p.map (·.kind) with
    | none => 0
    | some .control => 1
    | some (.svc _) => 2
    | some .stop => 3
  let svc := match p.map (·.kind) with
    | some (.svc n) => n.toNat
    | _ => 0
  let at_ := if wait.blocking then m.word else m.resumeWord
  let resume := (wordAddr (s.codeBase k) (w.ctl.path x).pc at_).toNat
  let waddr := if stopped then w.waddr.toNat else if w.stateCode = 0 then 0 else resume
  let bit (b : Bool) (n : Nat) : Nat := if b then 2 ^ n else 0
  leBytes w.stateCode 1 ++ leBytes (if stopped && !w.byStop then w.cause.toNat else 0) 1 ++ leBytes m.resumeWord 1 ++
    leBytes (bit w.pass 0 + bit w.stepping 1 + bit w.npr 2 + bit x 3 + bit w.suspended 4 + w.cmask.toNat * 32) 1 ++
    leBytes w.nprCount 4 ++ leBytes w.taddr.toNat 8 ++ leBytes waddr 8 ++ leBytes (if stopped then w.synd.toNat else 0) 2 ++
    leBytes w.skip 1 ++ leBytes w.holds.length 1 ++ leBytes w.sleep 4 ++
    leBytes (if w.reply.isSome then 6 else wait.code) 1 ++
    leBytes (match wait with | .bar n => n | _ => 0) 1 ++ leBytes w.pendingReplies 1 ++ leBytes w.dsp 1 ++
    leBytes (match wake with | .bowait _ _ n => n | _ => 0) 4 ++ leBytes wake.object 8 ++
    leBytes w.ctl.a.num 8 ++ leBytes w.ctl.b.num 8 ++ w.ctl.regionBytes ++
    ((List.range 4).flatMap fun i => leBytes (w.holds.getD i 0#64).toNat 8) ++ leBytes w.pbase.toNat 8 ++ leBytes 0 8 ++
    ((List.range 4).flatMap fun i => leBytes (Tab.get 0#64 w.regs.nf i).toNat 8) ++
    ((List.range 8).flatMap fun i => leBytes (if i = 0 then 2 ^ 32 - 1 else (Tab.get 0#32 w.regs.p i).toNat) 4) ++
    ((List.range 64).flatMap fun i => leBytes (Tab.get 0#64 w.regs.s i).toNat 8) ++
    leBytes kind 1 ++ leBytes 0 7 ++ leBytes svc 8 ++ leBytes (if p.isSome then pc.a.num else 0) 8 ++
    leBytes (if p.isSome then pc.b.num else 0) 8 ++ (if p.isSome then pc.regionBytes else leBytes 0 16) ++ leBytes 0 16

/-- The v-registers of a warp record (R395). -/
def Warp.vBytes (w : Warp) (regs : Nat) : List Byte :=
  (List.range (32 * regs)).flatMap fun i => leBytes (Tab.get 0#64 w.regs.v i).toNat 8

/-- A warp's private region as its home holds it (R393). -/
def State.regionBytes (s : State) (k : Nat) : State × List Byte :=
  let l := (s.block (s.warp k).block).launch
  let n := (s.launch l).record.sz
  match s.cpRead (s.launch l).ctx (pagesOf n) (s.warp k).pbase.toNat n with
  | some r => r
  | none => (s, List.replicate n 0#8)

/-- The bytes and scale exponents of a bank (R396). -/
def Bank.byteList (b : Bank) : List Byte := (List.range 24576).map fun i => Tab.get 0#8 b.bytes i
def Bank.scaleList (b : Bank) : List Byte := (List.range 1536).map fun i => Tab.get 127#8 b.scales i

/-- An entry of the recorded instructions (R396). -/
def State.opBytes (s : State) (t : TileOp) : List Byte :=
  leBytes t.word.toNat 4 ++ leBytes (s.warp t.warp).idx 1 ++ leBytes (if t.slotB then 1 else 0) 1 ++ leBytes 0 2 ++
    ((List.range 5).flatMap fun i => leBytes (t.val i).toNat 8) ++ leBytes (if noFormat t.op then 0 else t.f1.toNat) 8 ++ leBytes (if noFormat t.op then 0 else t.f2.toNat) 8

/-- The instructions in a core's tile queue that a save of a block records: all that have not started of a holder's block,
the copies of any other (R214, R320, R396). A chained word withdraws its arrival and issues again (R221), but for a
replacement. -/
def State.recorded (s : State) (b : Nat) : List TileOp :=
  let c := s.core (coreOfBlock b)
  let holds := c.baton.any fun k => (s.warp k).block == b
  c.queue.filter fun t => t.block == b && (!t.chained || t.rewritten.isSome) && (holds || isCopy t.op)

/-- The warp of the block that holds its core's baton. -/
def State.holderOf (s : State) (b : Nat) : Option Nat := (s.core (coreOfBlock b)).baton.filter fun k => (s.warp k).block == b

/-- The engine that a save of a block records, where it records one (R214, R320, R396): one that a restore has still to
rebuild, with what of it stands in the queue already, or else the core's. -/
def State.engineOf (s : State) (b : Nat) : Option EngineImage :=
  let c := s.core (coreOfBlock b)
  let ops := s.recorded b
  match c.savedEngines.find? fun e => e.block == b, s.holderOf b with
  | some e, _ => some { e with ops := ops ++ e.ops }
  | none, some k =>
    some { block := b, holder := some k, ops := ops, bank0 := c.bank0, bank1 := c.bank1, accum := c.accum
           badAccum := c.badAccum, overflow := c.overflow }
  | none, none => if ops.isEmpty then none else some { block := b, holder := none, ops := ops }

/-- The engine section (R396). -/
def State.engineBytes (s : State) (e : EngineImage) : List Byte :=
  let tail (flags : Nat) (fmt0 fmt1 : Nat) (holder : Nat) : List Byte :=
    leBytes fmt0 8 ++ leBytes fmt1 8 ++ leBytes flags 1 ++ leBytes holder 1 ++ leBytes 0 6 ++ leBytes e.ops.length 8 ++
      (let l := e.ops.flatMap s.opBytes
       l ++ List.replicate (327680 - 314400 - l.length) 0#8)
  match e.holder with
  | none => List.replicate 314368 0#8 ++ tail 0 0 0 0xFF
  | some k =>
    let bit (x : Bool) (n : Nat) : Nat := if x then 2 ^ n else 0
    ((List.range 65536).flatMap fun i => leBytes (Tab.get 0#32 e.accum i).toNat 4) ++ e.bank0.byteList ++
      e.bank1.byteList ++ e.bank0.scaleList ++ e.bank1.scaleList ++
      tail (bit e.bank0.loaded 0 + bit e.bank1.loaded 1 + bit e.bank0.scaled 2 + bit e.bank1.scaled 3 + bit e.overflow 4)
        e.bank0.fmt.toNat e.bank1.fmt.toNat (s.warp k).idx

/-- The 256-byte header of a block's image (R394). -/
def State.headerBytes (s : State) (b len : Nat) (engine : Bool) : List Byte :=
  let x := s.block b
  let l := s.launch x.launch
  let bit (y : Bool) (n : Nat) : Nat := if y then 2 ^ n else 0
  let bar (i : Nat) : Bar := Tab.get {} x.bars i
  [0x53#8, 0x56#8, 0x49#8, 0#8] ++ leBytes 1 2 ++ leBytes ((x.saving.map SaveReason.code).getD 0) 1 ++ leBytes x.warps 1 ++
    leBytes x.lin 4 ++ leBytes l.ctx 2 ++ leBytes x.regs 1 ++
    leBytes (bit x.debug 0 + bit (decide (1 < l.record.gang)) 1 + bit engine 2 + bit l.record.region 3 +
      bit ((s.warpsOf b).any fun k => (s.warp k).pendingReplies != 0) 4) 1 ++
    leBytes x.scratchSize 4 ++ leBytes l.record.tag 2 ++ leBytes l.queue 1 ++ leBytes 0 1 ++ leBytes 0 8 ++
    ((List.range 4).flatMap fun i => (x.watch.getD i ⟨false, 0, 0, 0⟩).bytes) ++ leBytes len 8 ++ leBytes 0 24 ++
    (List.range 16).flatMap fun i => leBytes (bar i).arrived.toNat 4 ++ leBytes (bar i).mask.toNat 4

/-- The image of a block: header, warp records in warp-index order, scratchpad, engine section (R394). -/
def State.imageOf (s : State) (b : Nat) : State × List Byte :=
  let x := s.block b
  let (s, recs) := (List.range x.warps).foldl (fun (acc : State × List Byte) i =>
    match acc.1.warpAt b i with
    | none => (acc.1, acc.2 ++ List.replicate (768 + 256 * x.regs + (acc.1.launch x.launch).record.sz) 0#8)
    | some k =>
      let (s, priv) := acc.1.regionBytes k
      (s, acc.2 ++ s.recordHead k ++ (s.warp k).vBytes x.regs ++ priv)) (s, [])
  let engine := ((s.engineOf b).map s.engineBytes).getD []
  let len := 256 + recs.length + x.scratchSize + engine.length
  (s, s.headerBytes b len (!engine.isEmpty) ++ recs ++ x.scratch.read 0 x.scratchSize ++ engine)

/-! ## The save (R391) -/

/-- What the model keeps of a warp beside its image (log 13). -/
def Warp.kept (w : Warp) : Kept :=
  let x := w.resumeSlot
  { idx := w.idx
    word := (w.micro (!x)).resumeWord
    pendOther := w.pend.any fun p => p.slotB != x
    cause := w.cause
    poisoned := decide (w.stat = .stopped) && !w.byStop && w.cause.toNat % 128 == 0x10
    sig := w.sig
    rel := w.rel
    requested := w.requested
    wakesA := w.ma.keptWakes
    wakesB := w.mb.keptWakes
    restart := w.restart
    reply := w.reply
    ended := decide (w.stat = .ended) }

/-- The place of a word of a bank in the engine section of an image, behind the accumulators: the weights of the two
banks, then their scales (R396, R403). -/
def bankWord (bank w : Nat) : Nat := 32768 + if w < 3072 then 3072 * bank + w else 6144 + 192 * bank + (w - 3072)

/-- The poisoned words of a block's image, by word of the image: those of its registers, its private regions, its
scratchpad and its engine (R393, R394, R396, R403). -/
def State.imagePoison (s : State) (b : Nat) : List Nat :=
  let x := s.block b
  let l := s.launch x.launch
  let len := 768 + 256 * x.regs + l.record.sz
  let region (k : Nat) : List Nat :=
    let w := s.warp k
    (s.cpPoisoned l.ctx (pagesOf l.record.sz) w.pbase.toNat l.record.sz).map fun n =>
      (256 + len * w.idx + 768 + 256 * x.regs) / 8 + (n - w.pbase.toNat / 8)
  let file (k : Nat) : List Nat :=
    let w := s.warp k
    w.regs.bad.map ((256 + len * w.idx + 768) / 8 + ·)
  let engine : List Nat := ((s.engineOf b).map fun e =>
    (e.badAccum ++ e.bank0.poison.map (bankWord 0) ++ e.bank1.poison.map (bankWord 1)).map
      ((256 + len * x.warps + x.scratchSize) / 8 + ·)).getD []
  (s.warpsOf b).flatMap (fun k => region k ++ file k) ++ x.poison.map ((256 + len * x.warps) / 8 + ·) ++ engine

/-- A lock holder's block is restored before others (R391). -/
def State.holding (s : State) (b : Nat) : Bool := (s.warpsOf b).any fun k => !(s.warp k).holds.isEmpty

/-- What is left of a time limit when a save records it: free, and at least one cycle (R395; log 4). -/
def leftOf (n free : Nat) : Nat := if n = 0 then 0 else 1 + free % n

/-- Time has passed for a warp that sleeps or waits with a limit (R395). -/
def State.ageWarp (s : State) (k : Nat) : State :=
  let (i, s) := s.draw
  let w := s.warp k
  let age (m : Micro) (j : Nat) : Micro :=
    match m.wait with
    | .bowait b o t n d z => { m with wait := .bowait b o t (leftOf n (Config.elapsed (4 * i + j))) d z }
    | _ => m
  s.setWarp k { w with sleep := leftOf w.sleep (Config.elapsed (4 * i)), ma := age w.ma 1, mb := age w.mb 2 }

/-- Event kind 0x02 (R386). -/
def State.stopEvent (s : State) (b : Nat) (reason : SaveReason) : List Byte :=
  let x := s.block b
  let l := s.launch x.launch
  [2#8] ++ leBytes reason.code 1 ++ leBytes l.queue 1 ++ [0#8] ++ leBytes l.record.tag 2 ++ leBytes l.ctx 2 ++
    leBytes (s.slotBase x.launch x.slot) 8

/-- A block saved by capacity eviction counts for the step of its die (R141). -/
def State.countEvicted (s : State) (die : Nat) : State :=
  let d := s.die die
  s.setDie die { d with step := d.step.map fun x => { x with evicted := x.evicted + 1 } }

/-- A block is written to its slot and leaves its core (R391): the window is discarded, partial reductions are
recalled, waits are withdrawn, the L1 is written back as a release of device scope (R135, R283), the image is written,
and a stop is reported. An audit replay is abandoned instead (R411). -/
def State.saveOne (s : State) (b : Nat) : State :=
  let x := s.block b
  let l := x.launch
  let c := coreOfBlock b
  if x.replay then
    s.abandonReplay b
  else
    let reason := x.saving.getD .preempt
    let s := s.discardWindow c b
    let segs := (s.cores.flatMap fun (e : Nat × Core) => e.2.redHolders.map (·.1)).filter fun g => g / 2 ^ 21 == b
    let s := ((segs.eraseDups.foldl State.recallSegment s).flushCore c).raiseEpoch c |>.2
    let s := (s.warpsOf b).foldl State.ageWarp s
    let kept := (s.warpsOf b).map fun k => (s.warp k).kept
    let ops := ((s.engineOf b).map (·.ops)).getD []
    let (s, img) := s.imageOf b
    let bad := (s.imagePoison b).map (s.slotBase l x.slot / 8 + ·)
    let s := (s.cpWrite (s.launch l).ctx (pagesOf img.length) (s.slotBase l x.slot) img).cpPoison (s.launch l).ctx bad
    let e : Saved :=
      { lin := x.lin, slot := x.slot, stopped := decide (reason = .trap ∨ reason = .step)
        evicted := decide (reason = .evict), holder := s.holding b, kept := kept, ops := ops
        order := s.saveCount
        told := (reason = .step && x.steps) || (s.warpsOf b).any fun k => (s.warp k).stat = .stopped }
    let s := (s.setLaunch l { s.launch l with saved := (s.launch l).saved ++ [e] })
    let s : State := { s with saveCount := s.saveCount + 1 }
    let ev := s.stopEvent b reason
    let s := if e.evicted then s.countEvicted (stackOf c) else s
    let s := s.freeBlock b
    if e.stopped && e.told then s.postEvent (s.launch l).part ev else s

/-- BLOCK_SAVE (R391): the block and the members saved with it (R89, R90). -/
def execBlockSave (block : Nat) (s : State) : Out :=
  if s.savable block then .next ((s.members block).foldl State.saveOne s) else .next s

/-! ## Reading an image (R393, R395 to R397) -/

/-- Control state that keeps R93: live slots hold lanes, those lanes, the arrived and the exited ones are disjoint, and
the reconvergence packet is a packet index or none. -/
def Ctl.legal (c : Ctl) : Bool :=
  let am := if c.a.live then c.a.mask else 0#32
  let bm := if c.b.live then c.b.mask else 0#32
  (!c.a.live || c.a.mask != 0#32) && (!c.b.live || c.b.mask != 0#32) && am &&& bm == 0#32 &&
    (am ||| bm) &&& (c.rarr ||| c.exited) == 0#32 && c.rarr &&& c.exited == 0#32 &&
    (!c.rpc.getLsbD 31 || c.rpc == 0xFFFFFFFF#32)

/-- Control state from its bytes: slots at one offset, region at another. -/
def ctlAt (bs : List Byte) (slots region : Nat) : Ctl :=
  let w (i : Nat) : W32 := BitVec.ofNat 32 (fld bs (region + 4 * i) 4)
  { a := Path.ofNat (fld bs slots 8), b := Path.ofNat (fld bs (slots + 8) 8), rpc := w 0, rmask := w 1, rarr := w 2, exited := w 3 }

/-- A warp record breaks R397. -/
def recordBad (bs : List Byte) : Bool :=
  let st := fld bs 0 1
  let pend := fld bs 704 1
  decide (3 < st) || decide (0x10 < fld bs 1 1 % 128) || fld bs 1 1 == 0x80 || decide (2 < fld bs 2 1) || decide (6 < fld bs 32 1) ||
    decide (64 < fld bs 35 1) || decide (3 < pend) ||
    (st != 0 && !(ctlAt bs 48 64).legal) || (pend != 0 && !(ctlAt bs 720 736).legal) ||
    (List.range 4).any fun i => !nfValid (BitVec.ofNat 64 (fld bs (128 + 8 * i) 8))

/-- The stack pointer after a restore (R393). -/
def rebaseSp (old new sz sp : Nat) : Nat := if old ≤ sp ∧ sp ≤ old + sz then (sp + 2 ^ 64 + new - old) % 2 ^ 64 else sp

/-- What the blocking word of a record's resume slot finds, by its place in the packet (R395). -/
def recordWakes (bs : List Byte) (code : Nat) (c : Ctl) (slotB : Bool) (kept : Tab Wake) : Tab Wake :=
  let i := ((BitVec.ofNat 64 (fld bs 16 8) - wordAddr code (c.path slotB).pc 0).toNat / 4) % 4
  match fld bs 0 1, fld bs 32 1 with
  | 3, 1 => Tab.put kept i (.bar (fld bs 33 1) false)
  | 3, 2 => Tab.put kept i (.bowait (fld bs 40 8 / 2 * 2) (fld bs 40 1 % 2 == 1) (fld bs 36 4))
  | _, _ => kept

/-- The skip count with which a warp resumes: what its record says, or after a trap in a rewritten group the group's
length (R251). -/
def recordSkip (bs : List Byte) (k : Option Kept) : Nat :=
  if 0x80 ≤ fld bs 1 1 then (k.map (·.restart)).getD 0 else fld bs 26 1

/-- A warp from its record, in a warp slot with a private region (R391, R393, R395). A stopped, halted or blocked warp
runs again; its waits are taken up by issuing the instruction again. A step of a warp that resumes at a packet's first
word covers the packet (R401). -/
def warpOf (bs : List Byte) (b idx regs sz pbase code : Nat) (k : Option Kept) : Warp :=
  let flags := fld bs 3 1
  let bit (n : Nat) : Bool := flags.testBit n
  let st := fld bs 0 1
  let slotB := bit 3
  let tab (n off w : Nat) : Tab Word := (List.range n).map fun i => (i, BitVec.ofNat 64 (fld bs (off + w * i) w))
  let sregs := tab 64 192 8
  let sregs := Tab.put sregs 62 (BitVec.ofNat 64 (rebaseSp (fld bs 112 8) pbase sz (Tab.get 0#64 sregs 62).toNat))
  let cause := fld bs 1 1
  let pend : Option Pend :=
    let p : Pend := { ctl := ctlAt bs 720 736, slotB := if (k.map (·.pendOther)).getD false then !slotB else slotB }
    match fld bs 704 1 with
    | 0 => none
    | 1 => some p
    | 2 => some { p with kind := .svc (BitVec.ofNat 64 (fld bs 712 8)) }
    | _ => some { p with kind := .stop }
  let w : Warp :=
    { stat := if st = 0 then .ended else .running
      block := b
      idx := idx
      regs := { v := (List.range (32 * regs)).map fun i => (i, BitVec.ofNat 64 (fld bs (768 + 8 * i) 8))
                s := sregs
                p := ((List.range 8).filter (· != 0)).map fun i => (i, BitVec.ofNat 32 (fld bs (160 + 4 * i) 4))
                nf := tab 4 128 8 }
      ctl := ctlAt bs 48 64
      pend := pend
      dsp := fld bs 35 1
      cause := if cause = 0 then (k.map (·.cause)).getD 0#8 else BitVec.ofNat 8 cause
      taddr := BitVec.ofNat 64 (fld bs 8 8)
      waddr := BitVec.ofNat 64 (fld bs 16 8)
      synd := BitVec.ofNat 16 (fld bs 24 2)
      pass := bit 0
      stepping := bit 1 && st != 0
      stepPacket := (decide (st = 2) && fld bs 2 1 == 0) || (decide (st = 1) && (cause == 0 || cause == 0x0E ||
        (cause == 0x0D && fld bs 8 8 == 0 && !bit 0)))
      npr := bit 2
      nprCount := fld bs 4 4
      sleep := fld bs 28 4
      suspended := bit 4
      cmask := BitVec.ofNat 3 (flags / 32)
      skip := recordSkip bs k
      holds := (List.range (min 4 (fld bs 27 1))).map fun i => BitVec.ofNat 64 (fld bs (80 + 8 * i) 8)
      sig := (k.map (·.sig)).getD 0#64
      rel := (k.map (·.rel)).getD []
      requested := (k.map (·.requested)).getD false
      lastB := slotB
      pbase := BitVec.ofNat 64 pbase }
  let kept (x : Bool) : Tab Wake := (k.map fun k => if x then k.wakesB else k.wakesA).getD []
  let at_ (n : Nat) (t : Tab Wake) : Micro := { word := n, group := n, wakes := t }
  (w.setMicro slotB (at_ (fld bs 2 1) (recordWakes bs code w.ctl slotB (kept slotB)))).setMicro (!slotB)
    (at_ ((k.map (·.word)).getD 0) (kept (!slotB)))

/-- The header or the length of an image breaks R397. -/
def imageBad (bs : List Byte) (r : LaunchRec) : Bool :=
  let n := fld bs 7 1
  let regs := fld bs 14 1
  let rec_ := 768 + 256 * regs + r.sz
  let len := 256 + n * rec_ + fld bs 16 4 + if (fld bs 15 1).testBit 2 then 327680 else 0
  bs.take 4 != [0x53#8, 0x56#8, 0x49#8, 0#8] || fld bs 4 2 != 1 || n != r.warps || regs != r.regs ||
    fld bs 16 4 != r.scratchL || fld bs 96 8 != len ||
    (List.range n).any fun i => recordBad ((bs.drop (256 + i * rec_)).take rec_)

/-- A watchpoint from its bytes (R400). -/
def watchAt (bs : List Byte) (off : Nat) : Watch :=
  let n := fld bs (off + 8) 8
  { v := bits n 7 7 == 1, kind := bits n 6 5, size := bits n 4 0, base := fld bs off 8 }

/-- Bytes as a table, zero bytes left out. -/
def byteTab (bs : List Byte) : Tab Byte := (bs.zipIdx.map fun (e : Byte × Nat) => (e.2, e.1)).filter fun e => e.2 != 0#8

/-- A bank of the engine section. -/
def bankAt (eng : List Byte) (i : Nat) : Bank :=
  let flags := fld eng 314384 1
  { loaded := flags.testBit i, scaled := flags.testBit (2 + i)
    fmt := BitVec.ofNat 64 (fld eng (314368 + 8 * i) 8)
    bytes := byteTab ((eng.drop (262144 + 24576 * i)).take 24576)
    scales := (((eng.drop (311296 + 1536 * i)).take 1536).zipIdx.map fun (e : Byte × Nat) => (e.2, e.1)).filter
      fun e => e.2 != 127#8 }

/-- A recorded instruction of the engine section, issued by a warp of block b (R396). -/
def State.opAt (s : State) (b : Nat) (bs : List Byte) : TileOp :=
  let w := fld bs 0 4
  { op := bits w 25 18, word := BitVec.ofNat 32 w, warp := (s.warpAt b (fld bs 4 1)).getD 0, block := b
    slotB := fld bs 5 1 == 1
    vals := (List.range 5).map fun i => BitVec.ofNat 64 (fld bs (8 + 8 * i) 8)
    f1 := BitVec.ofNat 64 (fld bs 48 8), f2 := BitVec.ofNat 64 (fld bs 56 8) }

/-- A recorded instruction with what its entry has no place for: the pages it was checked against (R307), the rule that
made it, its address, and where its warp goes back to (log 13). -/
def TileOp.keeping (t old : TileOp) : TileOp :=
  { t with pages := old.pages, rewritten := old.rewritten, addr := old.addr, back := old.back }

/-- The engine section is taken up (R214, R320, R391, R396): before any warp of the block issues, a recorded holder waits
for the baton, with whose grant the engine's state and the instructions come back, and copies without a holder are
requeued as there is room. -/
def State.restoreEngine (s : State) (b : Nat) (kept : List TileOp) (eng : List Byte) : State :=
  let n := min 8 (fld eng 314392 8)
  let ops := (List.range n).map fun i =>
    let t := s.opAt b ((eng.drop (314400 + 64 * i)).take 64)
    (kept[i]?).elim t t.keeping
  let c := s.core (coreOfBlock b)
  match s.warpAt b (fld eng 314385 1) with
  | none => s.setCore (coreOfBlock b) { c with savedEngines := c.savedEngines ++ [{ block := b, holder := none, ops := ops }] }
  | some k =>
    let e : EngineImage :=
      { block := b, holder := some k, ops := ops, bank0 := bankAt eng 0, bank1 := bankAt eng 1
        accum := ((List.range 65536).map fun i => (i, BitVec.ofNat 32 (fld eng (4 * i) 4))).filter fun x => x.2 != 0#32
        overflow := (fld eng 314384 1).testBit 4 }
    let c := { c with savedEngines := c.savedEngines ++ [e], batonQueue := c.batonQueue ++ [(⟨k, false⟩ : Turn).num] }
    (s.setCore (coreOfBlock b) c).later (.batonGrant (coreOfBlock b))

/-- The image has a warp that steps (R401): its step flag is set, and it has not ended. -/
def imageSteps (bs : List Byte) (r : LaunchRec) : Bool :=
  (List.range r.warps).any fun i =>
    let at_ := 256 + i * (768 + 256 * r.regs + r.sz)
    fld bs at_ 1 != 0 && (fld bs (at_ + 3) 1).testBit 1

/-- A resume with step set (R401): every warp of the unit that does not step is held at its resume point, and the save
that follows the step stands on the agenda. It is the blocks with a stepping warp whose images settle the unit. -/
def State.holdForStep (s : State) (b : Nat) (steps : Bool) : State :=
  let s := s.setBlock b { s.block b with saving := some .step, steps := steps }
  let s := (s.warpsOf b).foldl (fun (s : State) k =>
    let w := s.warp k
    if w.stat = .running ∧ !w.stepping then s.setWarp k { w with stat := .halted } else s) s
  s.later (.blockSave b)

/-- The poisoned words of a saved block's image, by word of the image (R403). -/
def State.savedPoison (s : State) (l : Nat) (e : Saved) (n : Nat) : List Nat :=
  let at_ := s.slotBase l e.slot
  (s.cpPoisoned (s.launch l).ctx (pagesOf n) at_ n).map fun w => w - at_ / 8

/-- A poisoned word of an image stands in its scratchpad or in a private region, whose words keep their poison; any other
would be consumed by a restore (R403). -/
def poisonKept (r : LaunchRec) (w : Nat) : Bool :=
  let len := 768 + 256 * r.regs + r.sz
  let o := 8 * w - 256
  decide (256 ≤ 8 * w) && if o < r.warps * len then decide (768 + 256 * r.regs ≤ o % len) else decide (o < r.warps * len + r.scratchL)

/-- A saved block becomes resident on a core that takes it, from a valid image (R391, R393), with the poison of its
scratchpad and of its private regions (R403). The core writes back first what it holds dirty, since an exited block's
lines of the same private regions may be among it. -/
def State.restoreOne (s : State) (l c : Nat) (e : Saved) (bs : List Byte) (bad : List Nat) (step : Bool) : State :=
  let x := s.launch l
  let r := x.record
  let s := s.ready l c
  let b := s.freeBlockSlot c
  let ws := (s.freeWarps c).take r.warps
  let len := 768 + 256 * r.regs + r.sz
  let s := ((s.stackAlloc l (stackOf c)).flushCore c).invalidateClean c
  let flags := fld bs 15 1
  let bars := (List.range 16).filterMap fun i =>
    let arrived := BitVec.ofNat 32 (fld bs (128 + 8 * i) 4)
    if arrived = 0#32 then none
    else some (i, { fixed := true, mask := BitVec.ofNat 32 (fld bs (132 + 8 * i) 4), arrived := arrived : Bar })
  let scratch := (bs.drop (256 + r.warps * len)).take r.scratchL
  let s := s.setBlock b
    { used := true, launch := l, lin := e.lin, warps := r.warps, regs := r.regs, scratchSize := r.scratchL
      scratch := byteTab scratch
      poison := bad.filterMap fun w => let at_ := (256 + r.warps * len) / 8; if at_ ≤ w then some (w - at_) else none
      bars := bars, slot := e.slot, debug := flags.testBit 0
      watch := (List.range 4).map fun i => watchAt bs (32 + 16 * i) }
  let s := ws.zipIdx.foldl (fun (s : State) (w : Nat × Nat) =>
    let rec_ := (bs.drop (256 + w.2 * len)).take len
    let pbase := s.regionBase l w.1
    let s := s.setWarp w.1 (warpOf rec_ b w.2 r.regs r.sz pbase r.code (e.kept.find? fun k => k.idx == w.2))
    let s := if (s.warp w.1).sleep = 0 then s else s.later (.sleepExpire w.1)
    let s := if (s.warp w.1).cls.isSome then s.askContext w.1 else s
    let at_ := (256 + w.2 * len + 768 + 256 * r.regs) / 8
    let mine := (bad.filter fun n => decide (at_ ≤ n) && decide (8 * n < 256 + (w.2 + 1) * len)).map fun n => n - at_ + pbase / 8
    (s.cpWrite x.ctx (pagesOf r.sz) pbase (rec_.drop (768 + 256 * r.regs))).cpPoison x.ctx mine) s
  let s := if step then s.holdForStep b (imageSteps bs r) else s
  let s := if ws.any s.liveWarp then s else s.later (.blockExit b)
  let s := s.setLaunch l { s.launch l with saved := (s.launch l).saved.filter fun y => !(y.lin == e.lin) }
  let s := bars.foldl (fun (s : State) e => s.barCheck b e.1) s
  if flags.testBit 2 then s.restoreEngine b e.ops (bs.drop (256 + r.warps * len + r.scratchL)) else s

/-- The image of a saved block as the command processor reads it. -/
def State.readImage (s : State) (l : Nat) (e : Saved) : State × List Byte :=
  let x := s.launch l
  let at_ := s.slotBase l e.slot
  match s.cpRead x.ctx 2 (at_ + 96) 8 with
  | none => (s, [])
  | some (s, bs) =>
    let n := min (leNat bs) x.record.slotLen
    match s.cpRead x.ctx (pagesOf n) at_ n with
    | none => (s, [])
    | some r => r

/-- A launch is to end with a status once its warps have stopped; one with nothing resident ends at once, but for one
whose rollback is to come first (R371, R387, R408). One whose rollback ends it FAULTED keeps that status, the first
detected (R83). -/
def State.ending (s : State) (l status : Nat) : State :=
  let x := s.launch l
  if !x.open ∨ x.ending.isSome ∨ (x.undoing ∧ (!x.record.snap ∨ x.unprotected)) then s
  else if (s.residents l).isEmpty ∧ !x.undoing then (s.discardLaunch l).endLaunch l status
  else (s.setLaunch l { x with ending := some status }).stopLaunch l

/-- Every warp of a launch's residents has stopped at a boundary or is blocked. -/
def State.launchStill (s : State) (l : Nat) : Bool :=
  (s.residents l).all fun b => (s.warpsOf b).all fun k => (s.warp k).still

/-- A launch that an abort or a cancel ends is discarded once its warps have stopped. -/
def State.finishEnding (s : State) (l : Nat) : State :=
  match (s.launch l).ending with
  | none => s
  | some st => if s.launchStill l ∧ !(s.launch l).undoing then (s.discardLaunch l).endLaunch l st else s

/-! ## Pre-emption (R388, R389) -/

/-- The state without some blocks and their warps, as the distributor tries it. -/
def State.lacking (s : State) (bs : List Nat) : State :=
  { s with
    warps := s.warps.filter fun (e : Nat × Warp) => !bs.contains e.2.block
    blocks := s.blocks.filter fun (e : Nat × Block) => !bs.contains e.1 }

/-- The cores whose blocks a pre-emption may take to make room at a core: of a block the core, of a gang its cores, of a
region those of one cluster (R388). -/
def State.roomCores (s : State) (l core : Nat) : List Nat :=
  let r := (s.launch l).record
  if r.region then coresOfCluster (clusterOf core) else (List.range r.gang).map (core + ·)

/-- The block with which a launch waits fits at a core: a saved unit before the next one (R391). -/
def State.fitsAt (s : State) (l core : Nat) : Bool :=
  match (s.toRestore (s.launch l).part).find? fun e => e.1 == l with
  | some e => (s.restoreCores l e.2.lin core).isSome
  | none => (s.unitCores l core).isSome

/-- The ways to take things of these weights that weigh a number together, those taken first standing first. -/
def takings {α : Type} (weight : α → Nat) : Nat → List α → List (List α)
  | 0, _ => [[]]
  | _ + 1, [] => []
  | n + 1, a :: t =>
    (if weight a ≤ n + 1 then (takings weight (n + 1 - weight a) t).map (a :: ·) else []) ++ takings weight (n + 1) t

/-- The priority at which a resident block's launch is treated. -/
def State.blockRank (s : State) (b : Nat) : Nat := (s.launch (s.block b).launch).rank

/-- The fewest blocks at a core, lowest priority first, whose pre-emption for a launch makes room: members of a gang or a
region go together (R388). -/
def State.victims (s : State) (l core : Nat) : Option (List Nat) :=
  let bs := ((s.roomCores l core).flatMap s.blocksOn).filter fun b =>
    decide (s.blockRank b < s.claim l) && (s.block b).saving.isNone && (s.members b).all s.preemptible
  let units := (sortBy s.blockRank (bs.filter fun b => (bs.find? fun y => (s.members y).contains b) == some b)).map s.members
  ((List.range (units.flatten.length + 1)).tail).findSome? fun n =>
    ((takings List.length n units).map List.flatten).find? fun vs => (s.lacking vs).fitsAt l core

/-- A launch has a unit to restore or to place that fits on no core (R388). -/
def State.wantsRoom (s : State) (l : Nat) : Bool :=
  let x := s.launch l
  ((x.saved.any fun e => s.unitReady l e.lin) ||
    (s.toPlace l && (x.started || decide (s.verdict l = .fits)) && s.slotsFor l x.record.unit)) &&
    !(s.coresOf x.part).any (s.fitsAt l)

/-- A block of a partition is being saved. -/
def State.savingIn (s : State) (p : Nat) : Bool := (s.coresOf p).any fun c => (s.blocksOn c).any fun b => (s.block b).saving.isSome

/-- The sets of blocks whose pre-emption makes room for a launch, by core. -/
def State.victimSets (s : State) (l : Nat) : List (List Nat) := (s.coresOf (s.launch l).part).filterMap (s.victims l)

/-- What a pre-emption of some blocks costs: as few as can be, then those of lowest priority (R388). -/
def State.cost (s : State) (vs : List Nat) : Nat :=
  (sortBy id (vs.map s.blockRank)).foldl (fun n r => 8 * n + r) vs.length

/-- The blocks that are pre-empted for the head of an order: the fewest that make room, of lowest priority (R388). While a
block of the partition is being saved, the room that it leaves is awaited. -/
def State.preemptChoice (s : State) (l : Nat) : Option (List Nat) :=
  if !s.wantsRoom l ∨ s.savingIn (s.launch l).part then none else leastBy s.cost (s.victimSets l)

/-- A block may be pre-empted now: it is one of as few, and of as low a priority, as make room for the head of its
partition's order (R388), or its cluster's in-field test is due (R413). -/
def State.mayPreempt (s : State) (b : Nat) : Bool :=
  let p := s.partOfStack (stackOf (coreOfBlock b))
  ((s.headOf p).any fun l => (s.preemptChoice l).any fun vs =>
    (s.victimSets l).any fun us => s.cost us == s.cost vs && us.any fun v => (s.members v).contains b) ||
  (s.members b).any fun y =>
    let u := s.cluster (clusterOf (coreOfBlock y))
    u.testDue && !u.testing

/-- PREEMPT (R388). -/
def execPreempt (block : Nat) (s : State) : Out :=
  if (s.members block).all s.preemptible ∧ (s.block block).saving.isNone ∧ s.mayPreempt block then
    .next (s.startSave block .preempt)
  else .next s

/-- The blocks of which one is taken by force for a launch that is treated as priority 7 and that no pre-emption of R388
makes room for: on each core where it would fit without the blocks there, the one of lowest priority and, among equals,
of fewest warps (R389). The launch's own blocks are left, which is the model's choice (log 57). -/
def State.forcedFor (s : State) (l : Nat) : List Nat :=
  if !(s.launch l).aged ∨ !s.wantsRoom l ∨ !(s.victimSets l).isEmpty then []
  else
    (s.coresOf (s.launch l).part).filterMap fun c =>
      let bs := ((s.roomCores l c).flatMap s.blocksOn).filter fun b => (s.block b).launch != l
      if ((s.lacking bs).unitCores l c).isSome then
        leastBy (fun b => 64 * (s.launch (s.block b).launch).rank + (s.block b).warps) bs
      else none

/-- FORCED_PREEMPT (R389). -/
def execForcedPreempt (block : Nat) (s : State) : Out :=
  let p := s.partOfStack (stackOf (coreOfBlock block))
  if (s.block block).used ∧ (s.block block).saving.isNone ∧
      (s.waitingIn p).any fun l => (s.forcedFor l).any fun v => (s.members v).contains block then
    .next ((s.startSave block .forced).later (.preemptDeadline block))
  else .next s

/-- BLOCK_RESTORE (R391, R397): the unit of a saved block that no stop holds is restored on cores that begin at the one
named, in its turn; an invalid image ends the launch FAULTED, and a poisoned word that the restore would consume has
the launch rolled back (R403, R408). -/
def execBlockRestore (launch block core : Nat) (s : State) : Out :=
  let x := s.launch launch
  let es := s.savedUnit launch block
  if !x.runs ∨ !s.unitReady launch block ∨ !s.turnToRestore launch block then .next s
  else
    match s.restoreCores launch block core with
    | none => .next s
    | some cs =>
      let (s, imgs) := es.foldl (fun (acc : State × List (List Byte)) e =>
        let (s, bs) := acc.1.readImage launch e
        (s, acc.2 ++ [bs])) (s, [])
      let all := es.zip imgs
      let bad (p : Saved × List Byte) : List Nat := s.savedPoison launch p.1 p.2.length
      let hit := all.findSome? fun p =>
        ((bad p).find? fun w => !poisonKept x.record w).map (s.slotBase launch p.1.slot + 8 * ·)
      if imgs.any fun bs => imageBad bs x.record then .next (s.ending launch 2)
      else
        match hit with
        | some a =>
          .next ((s.logEcc { kind := 3, unit := 3, place := core, part := x.part, repeats := 0, syndrome := 0, addr := a,
                             time := 0 }).undo launch)
        | none =>
          let step := imgs.any fun bs => imageSteps bs x.record
          .next ((cs.zip all).foldl (fun (s : State) (p : Nat × Saved × List Byte) =>
            s.restoreOne launch p.1 p.2.1 p.2.2 (bad p.2) step) s)

/-! ## The host's disposition (R387) -/

/-- The disposition word of one stopped block is read and acted on; a POISON trap's image ignores its own. -/
def State.settleBlock (s : State) (l : Nat) (e : Saved) : State :=
  if e.kept.any (·.poisoned) then s
  else
    match s.cpRead (s.launch l).ctx 2 (s.slotBase l e.slot + 24) 8 with
    | none => s
    | some (s, bs) =>
      match leNat bs with
      | 1 =>
        let n := (s.launch l).record.unit
        s.setLaunch l { s.launch l with
          saved := (s.launch l).saved.map fun x => if x.lin / n = e.lin / n then { x with stopped := false } else x }
      | 2 => s.ending l 2
      | _ => s

/-- A doorbell write has the disposition word of every stopped block of the partition read (R387). -/
def State.readDispositions (s : State) (p : Nat) : State :=
  let ls := (s.launches.filter fun (e : Nat × Launch) => e.2.part == p && e.2.open).map (·.1)
  ls.foldl (fun (s : State) l => ((s.launch l).saved.filter fun e => e.stopped && e.told).foldl (fun s e => s.settleBlock l e) s) s

end Sys2Proof.Machine
end

