-- ==== Sys2Proof/Machine/Commands.lean ====
section
/-! DEFINITION. The command processor (spec/04 R74 to R83, spec/17 R345, R346, R357, R358, spec/18 R369 to R371, R377,
R378, spec/11 R241 to R247): command records, doorbells, translation control, contexts with their rule tables, and the
admin requests. -/

namespace Sys2Proof.Machine

/-! ## Command queues and records (R75, R77 to R79) -/

def qkey (part queue : Nat) : Nat := 64 * part + queue

/-- The launches of a queue that have no completion entry, oldest first. -/
def State.openOf (s : State) (part queue : Nat) : List Nat :=
  sortBy (fun l => (s.launch l).order)
    ((s.launches.filter fun (e : Nat × Launch) => e.2.part == part && e.2.queue == queue && e.2.open).map (·.1))

/-- Units of 64 bytes of a queue's ring from its head on, as the command processor reads them. -/
def State.queueUnits (s : State) (part queue : Nat) (n : Nat) : State × List Byte :=
  let q := s.queue (qkey part queue)
  (List.range n).foldl (fun (acc : State × List Byte) i =>
    let (s, bs) := acc.1.homeRead (q.base + 64 * ((q.head + i) % q.size)) 64
    (s, acc.2 ++ bs)) (s, [])

/-- A record header (R77). -/
structure Header where
  tag : Nat
  units : Nat
  irq : Bool
  kind : Nat
  rev : Nat
  bad : Bool
  deriving DecidableEq, Repr

def headerOf (n : Nat) : Header :=
  let kind := bits n 23 16
  let rev := bits n 7 0
  let units := bits n 39 32
  { tag := bits n 55 40, units := units, irq := n.testBit 24, kind := kind, rev := rev
    bad := bits n 63 56 != 0 || bits n 31 25 != 0 || bits n 15 8 != 0 || decide (3 < kind) ||
      decide (rev = 0) || decide (3 < rev) || units != (if kind = 1 ∧ rev = 3 then 2 else 1) }

/-- The 64-byte units at which the next record stands (R78). -/
def Header.length (h : Header) : Nat := max h.units 1

/-- The head of a queue moves past a record. -/
def State.advance (s : State) (part queue n : Nat) : State :=
  let q := s.queue (qkey part queue)
  s.setQueue (qkey part queue) { q with head := (q.head + n) % q.size }

/-- A completion of a record of a queue, with the head behind the record and with its interrupt where the record asks for
one (R77, R369). -/
def State.completeAt (s : State) (part queue tag status head : Nat) (irq : Bool) : State :=
  s.complete part tag status 0 queue 0 head (irqVector irq queue)

/-- A completion of the record that a queue's head has just passed. -/
def State.completeRecord (s : State) (part queue tag status : Nat) (irq : Bool) : State :=
  s.completeAt part queue tag status (s.queue (qkey part queue)).head irq

/-- A queue passes a failed record's stated units: those behind the tail when they are written (R78; log 39). -/
def Queue.pass (q : Queue) (n : Nat) : Queue :=
  let here := min n ((q.tail + q.size - q.head) % q.size)
  { q with head := (q.head + here) % q.size, skip := n - here }

/-- The command processor fetches the next record of a queue up to its tail: a record that breaks R77 completes with
BAD_RECORD and fetch goes on (R78); any other is acted on by the event of its type. -/
def State.fetch : Nat → State → Nat → Nat → State
  | 0, s, _, _ => s
  | n + 1, s, part, queue =>
    let q := s.queue (qkey part queue)
    if !q.bound ∨ q.hold ≠ .free ∨ q.head = q.tail then s
    else if q.skip ≠ 0 then State.fetch n (s.setQueue (qkey part queue) (q.pass q.skip)) part queue
    else
      let (s, bs) := s.queueUnits part queue 1
      let h := headerOf (fld bs 0 8)
      if h.bad then
        let s := s.setQueue (qkey part queue) (q.pass h.length)
        State.fetch n (s.completeRecord part queue h.tag 5 h.irq) part queue
      else if (q.tail + q.size - q.head) % q.size < h.length then s
      else
        s.later (match h.kind with
          | 0 => .nopRecord part queue
          | 1 => .launchRecord part queue
          | 2 => .waitRecord part queue
          | _ => .signalRecord part queue)

/-- A record of a type stands at the head of a queue that fetches: the state, its header and its bytes. -/
def State.headRecord (s : State) (part queue kind : Nat) : Option (State × Header × List Byte) :=
  let q := s.queue (qkey part queue)
  if !q.bound ∨ q.hold ≠ .free ∨ q.head = q.tail ∨ q.skip ≠ 0 then none
  else
    let h := headerOf (fld (s.queueUnits part queue 1).2 0 8)
    if h.bad ∨ h.kind ≠ kind ∨ (q.tail + q.size - q.head) % q.size < h.length then none
    else
      let (s, bs) := s.queueUnits part queue h.length
      some (s, h, bs)

/-- A record is done with: the head passes it, it completes with a status, and fetch goes on. -/
def State.recordDone (s : State) (part queue : Nat) (h : Header) (status : Nat) : State :=
  let s := (s.advance part queue h.length).completeRecord part queue h.tag status h.irq
  State.fetch (s.queue (qkey part queue)).size s part queue

/-- NOP_RECORD (R77): every byte behind the header is zero (R79). -/
def execNopRecord (part queue : Nat) (s : State) : Out :=
  match s.headRecord part queue 0 with
  | none => .next s
  | some (s, h, bs) => .next (s.recordDone part queue h (if zeros bs 8 56 then 0 else 5))

/-- A WAIT or SIGNAL body keeps R79. -/
def semaphoreOk (bs : List Byte) : Bool := fld bs 8 8 % 8 == 0 && decide (fld bs 24 1 ≤ 1) && zeros bs 25 39

/-- WAIT_RECORD (R79). -/
def execWaitRecord (part queue : Nat) (s : State) : Out :=
  match s.headRecord part queue 2 with
  | none => .next s
  | some (s, h, bs) =>
    if !semaphoreOk bs then .next (s.recordDone part queue h 5)
    else
      let s := s.advance part queue h.length
      let q := s.queue (qkey part queue)
      let s := s.setQueue (qkey part queue)
        { q with hold := .wait (fld bs 8 8) (fld bs 16 8) (fld bs 24 1 == 1) h.tag h.irq }
      .next (s.later (.waitProceed part queue))

/-- The semaphore of a queue that waits, and whether its condition holds (R79). -/
def State.waitHolds (s : State) (part queue : Nat) : Bool :=
  let q := s.queue (qkey part queue)
  match q.hold with
  | .free => false
  | .wait addr value equal _ _ =>
    match s.cpRead q.ctx 1 addr 8 with
    | none => false
    | some (_, bs) => if equal then leNat bs == value else decide (value ≤ leNat bs)

/-- WAIT_PROCEED (R79): the command processor acquires, which drops nothing of its own, and fetch goes on. -/
def execWaitProceed (part queue : Nat) (s : State) : Out :=
  if !s.waitHolds part queue then .next s
  else
    let q := s.queue (qkey part queue)
    match q.hold with
    | .free => .next s
    | .wait addr _ _ tag irq =>
      let s := ((s.cpRead q.ctx 1 addr 8).map (·.1)).getD s
      let s := s.setQueue (qkey part queue) { q with hold := .free }
      .next (State.fetch q.size (s.completeRecord part queue tag 0 irq) part queue)

/-- SIGNAL_RECORD (R79): the record waits for the earlier launches of its queue. -/
def execSignalRecord (part queue : Nat) (s : State) : Out :=
  match s.headRecord part queue 3 with
  | none => .next s
  | some (s, h, bs) =>
    if !semaphoreOk bs then .next (s.recordDone part queue h 5)
    else
      let s := s.advance part queue h.length
      let q := s.queue (qkey part queue)
      let s := s.setQueue (qkey part queue)
        { q with signals := q.signals ++
          [{ addr := fld bs 8 8, value := fld bs 16 8, add := fld bs 24 1 == 1, tag := h.tag, irq := h.irq
             head := q.head, launches := s.openOf part queue }] }
      .next ((State.fetch q.size s part queue).later (.signalUpdate part queue))

/-- The oldest SIGNAL of a queue may make its update. -/
def State.signalReady (s : State) (part queue : Nat) : Bool :=
  match (s.queue (qkey part queue)).signals with
  | [] => false
  | x :: _ => x.launches.all s.done

/-- SIGNAL_UPDATE (R79): the semaphore is stored or added to at its home, as a device-scope release atomic: what the
earlier launches wrote is home since they completed (R76). -/
def execSignalUpdate (part queue : Nat) (s : State) : Out :=
  let q := s.queue (qkey part queue)
  match q.signals with
  | [] => .next s
  | x :: rest =>
    if !s.signalReady part queue then .next s
    else
      let s := s.setQueue (qkey part queue) { q with signals := rest }
      let s := if rest.isEmpty then s else s.later (.signalUpdate part queue)
      match s.cpXlate q.ctx x.addr .atomic with
      | none => .next (s.completeAt part queue x.tag 5 x.head x.irq)
      | some (s, p) =>
        let (s, bs) := s.homeRead p 8
        let v := if x.add then (leNat bs + x.value) % 2 ^ 64 else x.value
        .next ((s.homeWrite p (leBytes v 8)).completeAt part queue x.tag 0 x.head x.irq)

/-! ## Launch records (R80 to R82) -/

/-- A launch record as its revision reads it, without the checks (R80, R82). -/
def launchOf (h : Header) (bs : List Byte) (x : Partition) : LaunchRec :=
  let f (off n : Nat) : Nat := fld bs off n
  let place := f 62 1
  let flags := if h.rev = 1 then 0 else f 63 1
  let gang := if h.rev = 1 then 0 else place % 4
  let bit (n : Nat) : Bool := flags.testBit n
  let new := h.rev == 3
  { tag := h.tag, irq := h.irq, code := f 8 8, pool := f 16 8, entry := f 24 4, poolwords := f 28 4
    gridX := f 32 4, gridY := f 36 4, gridZ := f 40 4, warps := f 44 1, regs := f 45 1, l1min := f 46 1
    rwmask := if h.rev = 1 then 1 else f 47 1 ||| 1
    scratchL := f 48 4, scratchK := f 52 4, priv := f 56 4
    mmrev := if h.rev = 1 then 1 else f 60 1
    prio := f 61 1, bpc := place / 4 % 32, gang := 2 ^ gang
    ordered := bit 4, region := new && bit 3, phwait := new && bit 2, audit := new && bit 1, snap := bit 0
    arena := if new then f 64 8 else x.arena
    arenasize := if new then f 72 8 else x.arenasize
    snappool := if new then f 80 8 else x.snappool
    snappages := if new then f 88 4 else x.snappages
    replays := if new then f 92 1 else 1
    auditk := if new then f 93 1 else 0
    cards := if new then f 94 2 else 0
    cardarea := if new then f 96 8 else 0
    phasewait := if new then f 104 4 else 0 }

/-- The record's bytes keep the map of R80, as far as translation does not replace them (R78, R82). -/
def mapOk (h : Header) (bs : List Byte) (r : LaunchRec) : Bool :=
  let place := fld bs 62 1
  let flags := fld bs 63 1
  r.code % 256 == 0 && r.pool % 8 == 0 && decide (r.poolwords ≤ 8192) && decide (1 ≤ r.gridX) && decide (1 ≤ r.gridY) &&
    decide (1 ≤ r.gridZ) && decide (1 ≤ r.warps) && decide (r.warps ≤ 32) && decide (8 ≤ r.regs) && decide (r.regs ≤ 64) &&
    r.regs % 8 == 0 && decide (4 ≤ r.l1min) && decide (r.l1min ≤ 43) && (h.rev == 1 || decide (fld bs 47 1 < 8)) &&
    r.scratchL % 16384 == 0 && decide (16384 ≤ r.scratchL) && decide (r.scratchK ≤ 33554432) && r.priv % 8 == 0 &&
    (r.mmrev == 1 || r.mmrev == 2) && decide (r.prio ≤ 7) && decide (place < 128) && decide (r.bpc ≤ 16) &&
    (h.rev == 1 || (place % 4 != 3 && decide (flags < 32))) &&
    (h.rev != 3 ||
      (r.arena % 65536 == 0 && r.snappool % 65536 == 0 && (r.snap || r.snappool == 0) && decide (r.replays ≤ 3) &&
        decide (r.auditk ≤ 16) && (if r.region then pow2In r.cards 8 256 else r.cards == 0) && r.cardarea % 64 == 0 &&
        (r.region || r.cardarea == 0) && zeros bs 108 20))

/-- The further rules of R81, for a partition of n cores. -/
def recordOk (r : LaunchRec) (n : Nat) : Bool :=
  let k := if r.region then r.total else r.gang
  r.total % r.gang == 0 && decide (r.warps * r.regs ≤ 48 * 64) &&
    (!r.region || (r.gang == 1 && r.bpc == 1 && decide (2 ≤ r.total) && decide (r.total ≤ 64) && r.cards != 0 &&
      r.cardarea != 0)) &&
    decide (r.areaStart n + k * r.slotLen ≤ r.arenasize)

/-- LAUNCH_RECORD (R80 to R82): a record that breaks a rule completes with BAD_RECORD; any other makes a launch that
waits for its placement. -/
def execLaunchRecord (part queue : Nat) (s : State) : Out :=
  match s.headRecord part queue 1 with
  | none => .next s
  | some (s, h, bs) =>
    let r := launchOf h bs (s.part part)
    if !mapOk h bs r ∨ !recordOk r (s.coresOf part).length then .next (s.recordDone part queue h 5)
    else
      let q := s.queue (qkey part queue)
      let n := s.launchCount
      let x : Launch :=
        { phase := .waiting, part := part, queue := queue, ctx := q.ctx, record := r, recordAt := q.head
          nextAt := (q.head + h.length) % q.size, order := n }
      let s : State := { (s.setLaunch n x) with launchCount := n + 1 }
      .next (State.fetch q.size (s.advance part queue h.length) part queue)

/-! ## Doorbells (R357, R368 to R370, R387) -/

/-- QUEUE_DOORBELL (R368, R369, R387). -/
def execQueueDoorbell (port part queue tail : Nat) (s : State) : Out :=
  if !s.owns port part ∨ !s.booted ∨ 64 ≤ queue then .next s
  else
    let s := s.readDispositions part
    let q := s.queue (qkey part queue)
    if !q.bound ∨ q.size ≤ tail then .next (s.setPart part { s.part part with doorbellError := true })
    else .next (State.fetch q.size (s.setQueue (qkey part queue) { q with tail := tail }) part queue)

/-- A request's completion entry (R369): source 1 for the control ring, 2 for the admin ring. Its head is the one behind
the request, where the ring remembers it. -/
def State.completeRequest (s : State) (part source tag status : Nat) : State :=
  let x := s.part part
  let k : RingKind := if source = 1 then .control else .admin
  let r := x.ring k
  let s := s.setPart part (x.setRing k { r with heads := r.heads.eraseP fun e => e.1 == tag })
  s.complete part tag status source 0 0 (((r.heads.find? fun e => e.1 == tag).map (·.2)).getD r.head) 0

/-- An event is added to the agenda, even where an equal one stands there. -/
def State.enqueue (s : State) (i : Instr) : State := { s with agenda := s.agenda ++ [i] }

/-- A translation-control request is fetched (R357). -/
def State.controlEntry (s : State) (part : Nat) (bs : List Byte) : State :=
  let op := fld bs 0 1
  let ctx := fld bs 2 2
  let va := fld bs 8 8
  let len := fld bs 16 8
  let tag := fld bs 24 8
  let known := (s.context ctx).any fun c => c.part == part
  if fld bs 1 1 ≠ 0 ∨ fld bs 4 4 ≠ 0 ∨ op = 0 ∨ 3 < op ∨ !known ∨ (op ≠ 3 ∧ (va % 65536 ≠ 0 ∨ len % 65536 ≠ 0)) then
    s.completeRequest part 1 tag 5
  else s.enqueue (if op = 1 then .inval part ctx va len tag else if op = 2 then .invalFlush part ctx va len tag
    else .invalCtx part ctx tag)

/-- An admin request is fetched (R370). -/
def State.adminEntry (s : State) (part : Nat) (bs : List Byte) : State :=
  let tag := fld bs 8 8
  let addr := fld bs 16 8
  let clean := zeros bs 1 7
  let rest (off : Nat) : Bool := zeros bs off (64 - off)
  let refuse := s.completeRequest part 2 tag 5
  if !clean then refuse
  else
    match fld bs 0 1 with
    | 1 => if rest 24 then s.enqueue (.installContext part addr tag) else refuse
    | 2 => if addr = 0 ∧ rest 26 then s.enqueue (.removeContext part (fld bs 24 2) tag) else refuse
    | 3 =>
      if addr = 0 ∧ zeros bs 28 4 ∧ rest 48 then
        s.enqueue (.bindQueue part (fld bs 24 2) (fld bs 26 2) (fld bs 32 8) (fld bs 40 8) tag)
      else refuse
    | 4 => if addr = 0 ∧ rest 28 then s.enqueue (.cancelLaunch part (fld bs 24 2) (fld bs 26 2) tag) else refuse
    | 5 => if addr = 0 ∧ rest 28 then s.enqueue (.powerLimit part (fld bs 24 4) tag) else refuse
    | 6 => if zeros bs 24 8 then s.enqueue (.attest part addr (fld bs 32 32) tag) else refuse
    | _ => refuse

/-- The tag of a request of a ring (R357, R370). -/
def requestTag (k : RingKind) (bs : List Byte) : Nat := if k = .control then fld bs 24 8 else fld bs 8 8

/-- Entries of a ring from its head up to a tail are fetched in order. -/
def State.fetchRing (k : RingKind) (act : State → List Byte → State) (part : Nat) : Nat → State → State
  | 0, s => s
  | n + 1, s =>
    let r := (s.part part).ring k
    if r.head = r.tail then s
    else
      let (s, bs) := s.homeRead (r.base + entryBytes k * r.head) (entryBytes k)
      let x := s.part part
      let next := (r.head + 1) % r.size
      let s := s.setPart part
        (x.setRing k { (x.ring k) with head := next, heads := (x.ring k).heads ++ [(requestTag k bs, next)] })
      State.fetchRing k act part n (act s bs)

/-- A doorbell of the control or admin ring (R368, R387). -/
def State.ringDoorbell (s : State) (port part tail : Nat) (k : RingKind) (act : State → List Byte → State) : State :=
  if !s.owns port part ∨ !s.booted then s
  else
    let s := s.readDispositions part
    let x := s.part part
    let r := x.ring k
    if !r.configured ∨ r.size ≤ tail then s.setPart part { x with doorbellError := true }
    else State.fetchRing k act part r.size (s.setPart part (x.setRing k { r with tail := tail }))

/-- CONTROL_DOORBELL (R357, R369). -/
def execControlDoorbell (port part tail : Nat) (s : State) : Out :=
  .next (s.ringDoorbell port part tail .control fun s bs => s.controlEntry part bs)

/-- ADMIN_DOORBELL (R369, R370). -/
def execAdminDoorbell (port part tail : Nat) (s : State) : Out :=
  .next (s.ringDoorbell port part tail .admin fun s bs => s.adminEntry part bs)

/-! ## Translation control (R358) -/

/-- A page overlaps a range. -/
def overlaps (a n b m : Nat) : Bool := decide (a < b + m) && decide (b < a + n)

/-- Every TLB entry of a context that meets a test leaves every TLB, and every entry of the context the walk caches. -/
def State.dropTlb (s : State) (ctx : Nat) (gone : TlbEntry → Bool) : State :=
  let keep (l : List TlbEntry) : List TlbEntry := l.filter fun e => !(e.ctx == ctx && gone e)
  { s with
    cores := s.cores.map fun (e : Nat × Core) => (e.1, { e.2 with tlb := keep e.2.tlb })
    clusters := s.clusters.map fun (e : Nat × Cluster) => (e.1, { e.2 with tlb := keep e.2.tlb })
    stackMem := s.stackMem.map fun (e : Nat × Stack) =>
      (e.1, { e.2 with tlb := e.2.tlb.map fun r => (r.1, keep r.2), walkCache := e.2.walkCache.filter fun w => w.ctx != ctx }) }

/-- A tile or copy instruction of the context that checked a page of the range has not retired: one under way or queued,
or one recorded by the save of its block; or an entry of a range scoreboard lies over the range (R307, R310, R358). -/
def State.pagesInUse (s : State) (ctx va len : Nat) : Bool :=
  let uses (t : TileOp) : Bool := t.pages.any fun p => overlaps p.1 65536 va len
  (s.cores.any fun (e : Nat × Core) =>
    let mine (t : TileOp) : Bool := (s.launch (s.block t.block).launch).ctx == ctx
    ((e.2.underWay ++ e.2.queue ++ e.2.savedEngines.flatMap (·.ops)).any fun t => mine t && uses t) ||
      e.2.ranges.any fun r => decide (r.key = .global) && mine r.tile && overlaps r.first (r.last + 1 - r.first) va len) ||
    s.launches.any fun (e : Nat × Launch) => e.2.ctx == ctx && e.2.saved.any fun x => x.ops.any uses

/-- Every core of a partition writes back its lines and empties its L1 (R358, R408). -/
def State.emptyL1 (s : State) (part : Nat) : State := (s.coresOf part).foldl State.dropL1 (s.flushPart part)

/-- INVAL (R358). -/
def execInval (part ctx va len tag : Nat) (s : State) : Out :=
  if s.pagesInUse ctx va len then .next s
  else .next ((s.dropTlb ctx fun e => overlaps e.va e.size va len).completeRequest part 1 tag 0)

/-- INVAL_FLUSH (R358). -/
def execInvalFlush (part ctx va len tag : Nat) (s : State) : Out :=
  if s.pagesInUse ctx va len then .next s
  else .next (((s.dropTlb ctx fun e => overlaps e.va e.size va len).emptyL1 part).completeRequest part 1 tag 0)

/-- INVAL_CTX (R358). -/
def execInvalCtx (part ctx tag : Nat) (s : State) : Out :=
  if s.pagesInUse ctx 0 (2 ^ 64) then .next s
  else .next (((s.dropTlb ctx fun _ => true).emptyL1 part).completeRequest part 1 tag 0)

/-! ## Contexts (R345, R346) -/

/-- The identifiers of the installed contexts. -/
def State.installed (s : State) : List Nat :=
  (s.contexts.filter fun (e : Nat × Option Context) => e.2.isSome).map (·.1)

/-- A context record keeps its map and names a context that can be installed in a partition of the port (R346). -/
def State.contextOk (s : State) (part : Nat) (bs : List Byte) : Bool :=
  let id := fld bs 0 2
  let root := fld bs 8 8
  let rtab := fld bs 16 8
  decide (1 ≤ id) && decide (id ≤ 4095) && decide (fld bs 2 1 < s.layout) &&
    (s.part (fld bs 2 1)).port == (s.part part).port && decide (fld bs 3 1 ≤ 1) && zeros bs 4 4 &&
    root % 4 == 1 && !pointerBad s.device root 0 && rtab % 64 == 0 && (rtab != 0 || fld bs 24 4 == 0) && zeros bs 28 4 &&
    ((bs.drop 32).take 6).all (fun b => decide (b.toNat ≤ 48) || b == 0xFF#8) && zeros bs 38 2 && zeros bs 44 20 &&
    (s.context id).isNone && decide (s.installed.length < 1024)

/-- INSTALL_CONTEXT (R346, R246, R247): the record and the table it names stand at device physical addresses inside the
partition. -/
def execInstallContext (part addr tag : Nat) (s : State) : Out :=
  if !(s.part part).inside addr 64 then .next (s.completeRequest part 2 tag 5)
  else
    let (s, bs) := s.homeRead addr 64
    if !s.contextOk part bs then .next (s.completeRequest part 2 tag 5)
    else
      let rtab := fld bs 16 8
      let len := fld bs 24 4
      let readable := rtab != 0 && (s.part part).inside rtab len && decide (len ≤ 128 + 256 * 64)
      let (s, tb) := if readable then s.homeRead rtab len else (s, [])
      let c : Context :=
        { part := fld bs 2 1, solo := fld bs 3 1 == 1, root := BitVec.ofNat 64 (fld bs 8 8)
          rtab := rtab
          table := if readable then tableAt tb else none
          digest := Config.sm3 tb
          ibud := ((bs.drop 32).take 6).map fun b => if b = 0xFF#8 then 32 else b.toNat
          cbud := fld bs 40 4 }
      .next ((s.setContext (fld bs 0 2) (some c)).completeRequest part 2 tag 0)

/-- A queue is idle (R370). -/
def State.queueIdle (s : State) (part queue : Nat) : Bool :=
  let q := s.queue (qkey part queue)
  q.head == q.tail && decide (q.hold = .free) && q.signals.isEmpty && (s.openOf part queue).isEmpty

/-- No launch of a context is queued or resident (R346). -/
def State.contextIdle (s : State) (ctx : Nat) : Bool :=
  (s.launches.all fun (e : Nat × Launch) => !(e.2.open && e.2.ctx == ctx)) &&
    s.queues.all fun (e : Nat × Queue) => !(e.2.bound && e.2.ctx == ctx) || s.queueIdle (e.1 / 64) (e.1 % 64)

/-- The context's id becomes free: what the cores hold under it goes. -/
def State.forget (s : State) (ctx : Nat) : State :=
  let s := s.dropTlb ctx fun _ => true
  { s with
    contexts := Tab.drop s.contexts ctx
    queues := s.queues.filter fun (e : Nat × Queue) => !(e.2.bound && e.2.ctx == ctx)
    cores := s.cores.map fun (e : Nat × Core) =>
      let c := { e.2 with icache := e.2.icache.filter fun p => p.ctx != ctx }
      (e.1, if c.batonCtx = ctx then { c.clearEngine with batonCtx := 0 } else c) }

/-- REMOVE_CONTEXT (R346): it waits until no launch of the context is queued or resident. -/
def execRemoveContext (part ctx tag : Nat) (s : State) : Out :=
  if !((s.context ctx).any fun c => c.part == part) then .next (s.completeRequest part 2 tag 5)
  else if !s.contextIdle ctx then .next s
  else .next (((s.emptyL1 part).forget ctx).completeRequest part 2 tag 0)

/-- BIND_QUEUE (R345, R370). -/
def execBindQueue (part queue ctx base size tag : Nat) (s : State) : Out :=
  if queue < 64 ∧ ((s.context ctx).any fun c => c.part == part) ∧ pow2In size 16 65536 ∧
      (s.part part).inside base (64 * size) ∧ s.queueIdle part queue then
    .next ((s.setQueue (qkey part queue) { bound := true, ctx := ctx, base := base, size := size }).completeRequest
      part 2 tag 0)
  else .next (s.completeRequest part 2 tag 5)

/-- A launch keeps a status of its own: an abort ends it, or a rollback that restores nothing (R371, R387, R408). -/
def Launch.settled (x : Launch) : Bool :=
  x.ending.any (fun st => st != 9) || (x.undoing && (!x.record.snap || x.unprotected))

/-- CANCEL_LAUNCH (R371): the oldest launch of the queue with the tag that has no completion entry ends CANCELLED; one
that keeps its own status, or none, has the cancel refused. -/
def execCancelLaunch (part queue ltag tag : Nat) (s : State) : Out :=
  match (s.openOf part queue).find? fun l => (s.launch l).record.tag == ltag with
  | none => .next (s.completeRequest part 2 tag 5)
  | some l =>
    if (s.launch l).settled then .next (s.completeRequest part 2 tag 5)
    else .next ((s.ending l 9).completeRequest part 2 tag 0)

/-- POWER_LIMIT (R370, R378): the limit is the port's. -/
def execPowerLimit (part watts tag : Nat) (s : State) : Out :=
  if 300 ≤ watts ∧ watts ≤ 2000 then
    let s : State := { s with powerLimits := Tab.put s.powerLimits (s.part part).port watts }
    .next (s.completeRequest part 2 tag 0)
  else .next (s.completeRequest part 2 tag 5)

/-- The power limit in force: the lower of the ports' (R378). -/
def State.powerLimit (s : State) : Nat := min (Tab.get 2000 s.powerLimits 0) (Tab.get 2000 s.powerLimits 1)

/-! ## The configuration and attestation (R364 to R366, R377) -/

/-- Frame windows as a record holds them. -/
def windowBytes (ws : List (Nat × Nat)) : List Byte :=
  (List.range 8).flatMap fun i => leBytes (ws.getD i (0, 0)).1 8 ++ leBytes (ws.getD i (0, 0)).2 8

/-- A partition's entry of a configuration record (R366). -/
def Partition.entry (x : Partition) : List Byte :=
  leBytes x.port 1 ++ leBytes x.group 1 ++ leBytes 0 2 ++ leBytes x.inj 4 ++ leBytes x.mem 4 ++ leBytes 0 4 ++
    leBytes x.arena 8 ++ leBytes x.arenasize 8 ++ leBytes x.snappool 8 ++ leBytes x.snappages 4 ++ leBytes 0 4 ++
    windowBytes x.win0 ++ windowBytes x.win1 ++ List.replicate 16 0#8

/-- The configuration record in force (R366). -/
def State.configBytes (s : State) : List Byte :=
  [0x50#8, 0x43#8, 0x46#8, 0#8] ++ leBytes 1 2 ++ leBytes s.layout 1 ++ List.replicate 9 0#8 ++
    (List.range 4).flatMap fun p => if p < s.layout then (s.part p).entry else List.replicate 320 0#8

/-- The digests of the distinct context tables of a partition, in ascending context id (R377). -/
def State.tableDigests (s : State) (part : Nat) : List (BitVec 256) :=
  (s.contexts.filterMap fun (e : Nat × Option Context) =>
    e.2.bind fun c => if c.part == part && c.table.isSome then some c.digest else none).eraseDups

/-- An attestation report (R377). -/
def State.report (s : State) (part nonce : Nat) : List Byte :=
  let ds := s.tableDigests part
  let inuse := ds.length + 1
  let slots := s.bootDigest 3 :: ds.take 32
  let body := [0x41#8, 0x54#8, 0x54#8, 0#8] ++ leBytes 1 2 ++ leBytes part 1 ++ leBytes (min 33 inuse) 1 ++
    leBytes nonce 32 ++ ((List.range 4).flatMap fun i => beBytes (s.bootDigest i).toNat 32) ++
    beBytes (Config.sm3 s.configBytes).toNat 32 ++ (slots.flatMap fun d => beBytes d.toNat 32) ++
    List.replicate (32 * (33 - slots.length)) 0#8 ++ leBytes inuse 2 ++ List.replicate 22 0#8
  body ++ beBytes (Config.identitySign (Config.sm3 body)).toNat 64

/-- ATTEST (R370, R377). -/
def execAttest (part addr nonce tag : Nat) (s : State) : Out :=
  if (s.part part).inside addr 1344 then
    .next ((s.homeWrite addr (s.report part nonce)).completeRequest part 2 tag 0)
  else .next (s.completeRequest part 2 tag 5)

/-! ## Mailbox requests (R364 to R366, R372) -/

/-- The mailbox request that waits has this op. -/
def State.mailboxOp (s : State) (op : Nat) : Bool := s.mailbox.going && s.mailbox.command % 256 == op

/-- A mailbox request completes with a result (R365). -/
def State.mailboxDone (s : State) (result : Nat) : State :=
  { s with mailbox := { s.mailbox with command := s.mailbox.command % 256, result := result + 256 } }

/-- A frame window of a configuration record: its base and length keep R366. -/
def windowOk (tier : Nat) (w : Nat × Nat) : Bool :=
  let addr := w.1 % 2 ^ 60
  w.2 == 0 ||
    (w.1 % 65536 == 0 && w.2 % 65536 == 0 && w.1 / 2 ^ 63 == tier && (tier == 0 || w.1 / 2 ^ 60 % 8 == 0) &&
      decide (addr + w.2 ≤ tierLimit tier))

/-- The eight windows of a list of a record; one of length 0 is unused. -/
def windowsAt (bs : List Byte) (off : Nat) : List (Nat × Nat) :=
  ((List.range 8).map fun i => (fld bs (off + 16 * i) 8, fld bs (off + 16 * i + 8) 8))

/-- A partition's configuration taken from its entry, its page left as it is. -/
def Partition.configured (x : Partition) (bs : List Byte) : Partition :=
  { x with
    port := fld bs 0 1, group := fld bs 1 1, inj := fld bs 4 4, mem := fld bs 8 4, arena := fld bs 16 8
    arenasize := fld bs 24 8, snappool := fld bs 32 8, snappages := fld bs 40 4
    win0 := windowsAt bs 48
    win1 := windowsAt bs 176 }

/-- An entry keeps its map (R366). -/
def entryOk (bs : List Byte) : Bool :=
  decide (fld bs 0 1 ≤ 1) && zeros bs 2 2 && zeros bs 12 4 && fld bs 16 8 % 65536 == 0 && fld bs 32 8 % 65536 == 0 &&
    zeros bs 44 4 && zeros bs 304 16 && (windowsAt bs 48).all (windowOk 0) && (windowsAt bs 176).all (windowOk 1)

/-- The entry of partition p in a configuration record. -/
def entryAt (bs : List Byte) (p : Nat) : List Byte := (bs.drop (16 + 320 * p)).take 320

/-- A configuration record keeps R366. -/
def configOk (bs : List Byte) : Bool :=
  let n := fld bs 6 1
  let wins (p : Nat) : List (Nat × Nat) :=
    ((windowsAt (entryAt bs p) 48) ++ windowsAt (entryAt bs p) 176).filter fun w => w.2 != 0
  bs.take 4 == [0x50#8, 0x43#8, 0x46#8, 0#8] && fld bs 4 2 == 1 && [1, 2, 4].contains n && zeros bs 7 9 &&
    ((List.range n).all fun p => entryOk (entryAt bs p)) && zeros bs (16 + 320 * n) (1280 - 320 * n) &&
    (List.range n).all fun p => (List.range p).all fun q =>
      (wins p).all fun v => (wins q).all fun w => !overlaps v.1 v.2 w.1 w.2

/-- The partitions that a record changes: all where the layout changes (R364). -/
def State.touched (s : State) (bs : List Byte) : List Nat :=
  if fld bs 6 1 ≠ s.layout then List.range 4
  else (List.range s.layout).filter fun p => entryAt bs p != (s.part p).entry

/-- SET_CONFIGURATION (R364 to R366). -/
def execSetConfiguration (s : State) : Out :=
  if !s.mailboxOp 1 then .next s
  else
    let bs := s.mailbox.data.read 0 1296
    if !configOk bs then .next (s.mailboxDone 1)
    else
      let ps := s.touched bs
      if s.installed.any fun c => ps.contains ((s.context c).map (·.part) |>.getD 0) then .next (s.mailboxDone 2)
      else
        let n := fld bs 6 1
        let parts : Tab Partition := (List.range n).map fun p =>
          (p, if ps.contains p then (s.part p).configured (entryAt bs p) else s.part p)
        let s : State :=
          { s with
            layout := n
            parts := parts
            cores := s.cores.map fun (e : Nat × Core) => (e.1, { e.2 with tlb := [] })
            clusters := s.clusters.map fun (e : Nat × Cluster) => (e.1, { e.2 with tlb := [] })
            stackMem := s.stackMem.map fun (e : Nat × Stack) => (e.1, { e.2 with tlb := [], walkCache := [] }) }
        .next (s.mailboxDone 0)

/-- READ_CONFIGURATION (R365). -/
def execReadConfiguration (s : State) : Out :=
  if !s.mailboxOp 2 then .next s
  else
    let m := { s.mailbox with data := s.mailbox.data.write 0 s.configBytes }
    let s : State := { s with mailbox := m }
    .next (s.mailboxDone 0)

/-- SET_DEVICE_NUMBER (R365, R373). -/
def execSetDeviceNumber (s : State) : Out :=
  if !s.mailboxOp 3 then .next s
  else if 64 ≤ s.mailbox.argument ∨ !s.installed.isEmpty then
    .next (s.mailboxDone (if 64 ≤ s.mailbox.argument then 1 else 2))
  else
    let s : State := { s with device := s.mailbox.argument }
    .next (s.mailboxDone 0)

/-- A device physical address in the form of R368, of memory that the device has (R350). -/
def physOk (a : Nat) : Bool :=
  let tier := bits a 63 63
  bits a 59 41 == 0 && (tier == 0 || bits a 62 60 == 0) && decide (a % 2 ^ 60 < tierLimit tier)

/-- STAGE_IMAGE (R365, R372): the image at the argument's address is measured; how long it is, whether its signature
verifies and which image it is are free, the layout of an image being left open (log 14). -/
def execStageImage (s : State) : Out :=
  if !s.mailboxOp 4 then .next s
  else if !physOk s.mailbox.argument then .next (s.mailboxDone 1)
  else
    let (i, s) := s.draw
    let (s, bs) := s.homeRead s.mailbox.argument (Config.imageBytes i)
    let d := Config.sm3 bs
    if Config.stagedVerifies d then
      let s : State := { s with staged := Tab.put s.staged (Config.stagedKind d % 4) d }
      .next (s.mailboxDone 0)
    else .next (s.mailboxDone 3)

/-- MAILBOX_UNKNOWN_OP (R365). -/
def execMailboxUnknownOp (s : State) : Out :=
  if s.mailbox.going ∧ (s.mailbox.command % 256 = 0 ∨ 4 < s.mailbox.command % 256) then .next (s.mailboxDone 4)
  else .next s

/-- MODULE_RESET (R126, R372): the images are verified in order, each measured; what does not verify is not started,
nor what comes behind it, but for the rule table. Row codes and stored images are non-volatile; memory keeps its bytes.
Logical rows are assigned anew, in order of code and then of number (R126), and the capacity table holds what the codes
give. -/
def execModuleReset (s : State) : Out :=
  let (i, s) := s.draw
  let ok (k : Nat) : Bool := Config.imageVerifies k i
  let started (k : Nat) : Bool := (List.range (k + 1)).all ok
  let cores := (s.cores.filter fun (e : Nat × Core) => !e.2.codes.isEmpty).map fun (e : Nat × Core) => (e.1, e.2.rebooted)
  .next
    { State.reset with
      fresh := s.fresh
      mem := s.mem
      poison := s.poison
      staged := s.staged
      cores := cores
      images := s.staged
      bootResult := bitSum (fun k => if k = 3 then ok 0 && ok 3 else started k) 4
      capTable := cores.map fun (e : Nat × Core) => (e.1, e.2.published) }

end Sys2Proof.Machine
end

