-- ==== Sys2Proof/Machine/Phases.lean ====
section
/-! DEFINITION. Phase steps of a compute die (spec/06 R125 to R141): the plan of a downward step, its evacuation, the
switch of the row map, the clock change, upward steps and the phase-step record. -/

namespace Sys2Proof.Machine

/-- The cores of a compute die (R12). -/
def coresOfDie (die : Nat) : List Nat := (List.range 64).map (64 * die + ·)

/-- A cluster of the die is under a containment reset (R137). -/
def State.dieResetting (s : State) (die : Nat) : Bool :=
  ((List.range 16).map (16 * die + ·)).any fun u => (s.cluster u).resetting

/-! ## The row map (R126, R131, R138) -/

/-- Logical rows below a count whose physical row is not safe at a phase (R131). -/
def Core.doomed (c : Core) (phase below : Nat) : List Nat :=
  (List.range below).filter fun r => decide (phase < c.code (c.physRow r))

/-- The doomed rows of a core at a phase with the rows they go to. That the n-th doomed row goes to the n-th safe
spare, by code and then by number, is the model's choice: R131 fixes no order of the spares (log 57). -/
def Core.moves (c : Core) (phase : Nat) : Tab Nat :=
  let n := c.rowsAt phase
  let doomed := c.doomed phase n
  doomed.zip (c.spares phase n doomed)

/-- The plan of a downward step for a core (R131); an offline core keeps nothing (R128). -/
def Core.plan' (c : Core) (phase : Nat) : EvacPlan :=
  let n := c.rowsAt phase
  let v := c.carve
  let br := v.regRows + v.scratchRows
  let fits (b : Nat) : Bool := decide (256 + b * br + 512 ≤ n)
  let (slots, ways) : Nat × Nat :=
    if c.offline phase then (0, 0)
    else if fits v.slots then (v.slots, min v.ways ((n - 256 - v.slots * br) / 128))
    else
      let b := ((List.range v.slots).reverse.find? fits).getD 0
      (b, if b = 0 then 0 else (n - 256 - b * br) / 128)
  { slots := slots, ways := ways
    moves := c.moves phase
    copied := ((c.doomed phase n).filter fun r => decide (r < 256 + slots * br)).length }

/-- The blocks of a core that a plan evicts. -/
def State.evicted (s : State) (c : Nat) (p : EvacPlan) : List Nat :=
  (s.blocksOn c).filter fun b => decide (p.slots ≤ b % 16)

/-- A core begins its evacuation (R130 to R132, R134): the capacity register falls, the lines of vanishing ways and of
doomed rows of the others are written back and leave the L1, and the blocks that no longer fit are to be saved. -/
def State.evacuate (s : State) (phase c : Nat) : State :=
  let x := s.core c
  let p := x.plan' phase
  let stays := if p.slots = x.carve.slots then p.ways else 0
  let doomed := x.doomed phase (x.rowsAt phase)
  let s := s.emptyRows c fun w k => decide (stays ≤ w) || doomed.contains (x.carve.l1Base + 128 * w + k)
  let s := s.setCore c { s.core c with
    rows := x.rowsAt phase, plan := some p, carve := { x.carve with ways := stays } }
  (s.evicted c p).foldl (fun s b => s.startSave b .evict) s

/-- A request for a step waits on its die (R137). -/
def State.stepWaits (s : State) (die : Nat) (up : Bool) (phase : Nat) : State :=
  let d := s.die die
  s.setDie die { d with waiting := d.waiting ++ [(up, phase)] }

/-- PHASE_STEP_DOWN (R130, R131, R137): the notice. A lower target restarts the plan before the row map has switched;
behind that, or beside an upward step, the request waits. That a step may begin while an in-field test runs on the die is
the model's choice: R137 has tests wait for a step, and names no wait of a step for a test (log 57). -/
def execPhaseStepDown (die phase : Nat) (s : State) : Out :=
  let d := s.die die
  if 4 ≤ die ∨ 4 ≤ phase then .next s
  else if s.dieResetting die then .next (s.stepWaits die false phase)
  else
    let begin_ (d : PhaseStep) : State :=
      let s := (coresOfDie die).foldl (fun s c => s.evacuate phase c) s
      (s.setDie die { s.die die with step := some { d with target := phase } }).later (.rowMapSwitch die)
    match d.step with
    | none =>
      if phase < d.phase then
        .next (begin_ { target := phase, source := d.phase, stage := 1, evicted := 0, copied := 0 })
      else .next s
    | some x =>
      if x.stage = 1 then (if phase < x.target then .next (begin_ x) else .next s)
      else .next (s.stepWaits die false phase)

/-- The core's split and row map as the plan leaves them; a core that has left the evacuation is empty, and its row map
switches to the phase with the others (R131, R137). -/
def Core.switched (c : Core) (phase : Nat) : Core :=
  match c.plan with
  | none => { c with carve := {}, rows := c.rowsAt phase, remap := (c.moves phase).foldl putRow c.remap }
  | some p =>
    { c with
      plan := none
      carve := if p.slots = 0 ∧ c.carve.slots ≠ 0 then {} else { c.carve with slots := p.slots, ways := p.ways }
      remap := p.moves.foldl putRow c.remap }

/-- The write-backs, copies and evictions of a die's step have finished (R132). -/
def State.evacuated (s : State) (die : Nat) : Bool :=
  (coresOfDie die).all fun c =>
    match (s.core c).plan with
    | none => true
    | some p => (s.evicted c p).isEmpty

/-- ROW_MAP_SWITCH (R132 step 5, R136): the map switches, and the clock stops. -/
def execRowMapSwitch (die : Nat) (s : State) : Out :=
  let d := s.die die
  match d.step with
  | none => .next s
  | some x =>
    if x.stage ≠ 1 ∨ !s.evacuated die then .next s
    else
      let copied := (coresOfDie die).foldl (fun n c => max n (((s.core c).plan.map (·.copied)).getD 0)) x.copied
      let s := (coresOfDie die).foldl (fun (s : State) c => s.setCore c ((s.core c).switched x.target)) s
      .next ((s.setDie die { d with step := some { x with stage := 5, copied := copied }, clockStopped := true }).later
        (.clockRestart die))

/-- A core gains the rows of a higher phase (R138): its capacity rises, new logical rows take spares, and every whole
group of 128 rows above the L1 region becomes a way. -/
def Core.raised (c : Core) (phase : Nat) : Core :=
  let n := c.rowsAt phase
  let v := c.carve
  let top := 256 + v.slots * (v.regRows + v.scratchRows) + 128 * v.ways
  let news := (List.range (n - c.rows)).map (c.rows + ·)
  { c with
    rows := n
    remap := (news.zip (c.spares phase c.rows [])).foldl putRow c.remap
    carve := if v.slots = 0 then v else { v with ways := v.ways + (n - top) / 128 } }

/-- CLOCK_RESTART (R136, R138): the core clock runs again at the new phase's frequency, and the phase register reads the
new phase. -/
def execClockRestart (die : Nat) (s : State) : Out :=
  let d := s.die die
  match d.step with
  | none => .next s
  | some x =>
    if !d.clockStopped then .next s
    else
      let s := if d.phase < x.target then
          (coresOfDie die).foldl (fun (s : State) c => s.setCore c ((s.core c).raised x.target)) s
        else s
      .next ((s.setDie die { d with phase := x.target, clockStopped := false, step := some { x with stage := 6 } }).later
        (.phaseStepComplete die))

/-- The phase-step record (R141); its duration is free. -/
def stepRecord (die : Nat) (x : PhaseStep) (us : Nat) : List Byte :=
  [1#8] ++ leBytes die 1 ++ leBytes x.source 1 ++ leBytes x.target 1 ++ leBytes x.evicted 2 ++ leBytes x.copied 2 ++
    leBytes us 4 ++ leBytes 0 4

/-- The steps that waited on a die are requested anew (R137). -/
def State.stepsWaited (s : State) (die : Nat) : State :=
  let d := s.die die
  d.waiting.foldl (fun (s : State) r => s.later (if r.1 then .phaseStepUp die r.2 else .phaseStepDown die r.2))
    (s.setDie die { d with waiting := [] })

/-- The launches of a partition that wait for a phase are tested again (R139). -/
def State.retestPart (s : State) (p : Nat) : State :=
  (s.launches.filter fun (e : Nat × Launch) => e.2.part == p).foldl (fun s e => s.retest e.1) s

/-- PHASE_STEP_COMPLETE (R132, R137, R139, R141): the step ends, its record is posted, launches held for a phase are
tested again after an upward step, and a step that waited follows. -/
def execPhaseStepComplete (die : Nat) (s : State) : Out :=
  let d := s.die die
  match d.step with
  | none => .next s
  | some x =>
    if x.stage ≠ 6 then .next s
    else
      let (i, s) := s.draw
      let s := s.setDie die { d with step := none }
      let s := s.postEvent (s.partOfStack die) (stepRecord die x (Config.microseconds i))
      let s := if x.source < x.target then s.retestPart (s.partOfStack die) else s
      .next (s.stepsWaited die)

/-- PHASE_STEP_UP (R137, R138): it waits for a step in progress; the clock stops for the change. -/
def execPhaseStepUp (die phase : Nat) (s : State) : Out :=
  let d := s.die die
  if 4 ≤ die ∨ 4 ≤ phase then .next s
  else if s.dieResetting die then .next (s.stepWaits die true phase)
  else
    match d.step with
    | some _ => .next (s.stepWaits die true phase)
    | none =>
      if d.phase < phase then
        let x : PhaseStep := { target := phase, source := d.phase, stage := 5, evicted := 0, copied := 0 }
        .next ((s.setDie die { d with step := some x, clockStopped := true }).later (.clockRestart die))
      else .next s

end Sys2Proof.Machine
end

