-- ==== Sys2Proof/Machine/Reliability.lean ====
section
/-! DEFINITION. Errors, rollback, audit, containment, in-field tests and links (spec/20 R403 to R415). -/

namespace Sys2Proof.Machine

/-! ## DRAM transfers (R266, R403, R405, R406) -/

/-- The partition whose frame windows hold an address, or 0xFF (R405). -/
def State.partAt (s : State) (p : Nat) : Nat :=
  ((List.range s.layout).find? fun k => (s.part k).inside p 1).getD 0xFF

/-- The spare lanes left on an address's channel, 2 at first (R406). -/
def State.sparesAt (s : State) (p : Nat) : Nat := Tab.get 2 s.spares (channelKey p)

/-- A transfer entry of a DRAM bus (R405). -/
def State.logBus (s : State) (p kind attempts lane : Nat) : State :=
  s.logXfer { kind := kind, path := dramTier p, place := dramPlace p, attempts := attempts, lane := lane,
              spares := s.sparesAt p, part := s.partAt p, addr := p, time := 0 }

/-- Words at home are poisoned (R403). -/
def State.poisonWords (s : State) (first n : Nat) : State :=
  { s with poison := ((List.range n).map (first + ·)).foldl addOnce s.poison }

/-- The transfer of a burst has ended: its line stands in the L2 (R266). -/
def State.transferred (s : State) (burst : Nat) : State :=
  ({ s with attempts := Tab.drop s.attempts burst } : State).l2Use (burst / 2) false false

/-- The burst of a transfer that fails for good is poisoned (R406 step 3). -/
def State.busPoison (s : State) (burst attempts lane : Nat) : State :=
  ((s.transferred burst).poisonWords (8 * burst) 8).logBus (64 * burst) 3 attempts lane

/-- The transfer of a burst is to be repeated: retries up to the fifth transfer, then the locating of a lane (R406). -/
def State.busAgain (s : State) (burst made : Nat) : State :=
  let s : State := { s with attempts := Tab.put s.attempts burst made }
  let (i, s) := s.draw
  if made < 5 then s.later (.busRetry burst (Config.choice i 0))
  else s.later (.laneSwap burst (if Config.choice i 1 then some (Config.lane i % 255) else none) (Config.choice i 0))

/-- BUS_RETRY (R406 step 1): the next transfer of a failing burst. -/
def execBusRetry (burst : Nat) (passes : Bool) (s : State) : Out :=
  let made := Tab.get 0 s.attempts burst
  if made = 0 ∨ 5 ≤ made then .next s
  else if passes then .next ((s.transferred burst).logBus (64 * burst) 1 (made + 1) 0xFF)
  else .next (s.busAgain burst (made + 1))

/-- LANE_SWAP (R406 steps 2 and 3): the failing lane is located and a spare swapped in; the sixth transfer follows. -/
def execLaneSwap (burst : Nat) (lane : Option Nat) (passes : Bool) (s : State) : Out :=
  if Tab.get 0 s.attempts burst ≠ 5 then .next s
  else
    let p := 64 * burst
    let left := s.sparesAt p
    match lane with
    | none =>
      if passes then .next ((s.transferred burst).logBus p 1 6 0xFF)
      else .next (s.busPoison burst 6 0xFF)
    | some k =>
      if left = 0 then .next (s.busPoison burst 5 0xFF)
      else
        let s : State := { s with spares := Tab.put s.spares (channelKey p) (left - 1) }
        if passes then .next ((s.transferred burst).logBus p 2 6 k)
        else .next (s.busPoison burst 6 k)

/-- An array-ECC entry of a 32-byte chunk of DRAM (R405). -/
def State.logArray (s : State) (p kind syndrome : Nat) : State :=
  s.logEcc { kind := kind, unit := 7 + dramTier p, place := dramPlace p, part := s.partAt p, repeats := 0,
             syndrome := syndrome, addr := p, time := 0 }

/-- Corrections of flawed cells that a read has met are logged (R403, R405). -/
def State.logCells (s : State) : State :=
  s.corrected.foldl (fun (s : State) c => s.logArray (32 * c) 1 (Tab.get 0 s.cells c)) { s with corrected := [] }

/-- No transfer is being repeated on the channel of a burst (R406). -/
def State.burstOpen (s : State) (burst : Nat) : Bool :=
  s.attempts.all fun e => channelKey (64 * e.1) != channelKey (64 * burst)

/-- DRAM_TRANSFER_COMPLETE (R266, R267, R403, R406): the burst is corrected or poisoned, or its transfer is repeated; on a
channel that repeats a transfer none completes meanwhile. A flawed cell is corrected at every read until the patrol scrub
rewrites it. -/
def execDramTransferComplete (burst : Nat) (outcome : DramOutcome) (s : State) : Out :=
  let chunk (k : Nat) : Nat := 64 * burst + 32 * (k % 2)
  let filled (s : State) : State := { s.l2Use (burst / 2) false false with corrected := s.corrected }
  if !s.burstOpen burst then .next s
  else
    match outcome with
    | .clean =>
      let flawed := ((s.cells.filter fun e => e.1 / 2 == burst).map (·.1)).foldl addOnce s.corrected
      .next ({ filled s with corrected := flawed } : State).logCells
    | .corrected k y =>
      .next (filled { s.logArray (chunk k) 1 y with cells := Tab.put s.cells (chunk k / 32) y })
    | .uncorrectable k y => .next (((filled s).poisonWords (chunk k / 8) 4).logArray (chunk k) 2 y)
    | .busFailed _ => .next (s.busAgain burst 1)

/-- PATROL_SCRUB (R403): the line's cells are rewritten. -/
def execPatrolScrub (line : Nat) (s : State) : Out :=
  .next { s with cells := s.cells.filter fun e => e.1 / 4 != line }

/-! ## Links and routes (R406, R414, R415) -/

/-- The key of a link: a neighbour link is one for the two stacks that it joins (R15). -/
def linkKey : LinkId → Nat
  | .dieToDie k l => 256 * (if l = 0 then k / 2 * 2 else if l = 1 then k % 2 else k) + l
  | .domain l => 2 ^ 16 + l

/-- How a log entry names a link (R405). -/
def linkPath : LinkId → Nat
  | .dieToDie _ _ => 3
  | .domain _ => 4
def linkPlace : LinkId → Nat
  | .dieToDie k l => 256 * k + l
  | .domain l => l

/-- A transfer entry of a link or of the mesh, whose address is 0 (R405). -/
def State.logLink (s : State) (path place kind attempts lane part : Nat) : State :=
  s.logXfer { kind := kind, path := path, place := place, attempts := attempts, lane := lane, spares := 0,
              part := part, addr := 0, time := 0 }

/-- The weights of up to four routes: 64 units in proportion to 1/cost, rounded to the nearest unit, the remainder given
to the cheapest (R415). -/
def routeWeights (rs : List (Nat × Nat)) : List (Nat × Nat) :=
  let all := (rs.map (·.2)).foldl (· * ·) 1
  let inv (r : Nat × Nat) : Nat := all / r.2
  let sum := (rs.map inv).sum
  let share (r : Nat × Nat) : Nat := (128 * inv r + sum) / (2 * sum)
  match leastBy (fun (r : Nat × Nat) => r.2) rs with
  | none => []
  | some best =>
    let k := rs.idxOf best
    let others := ((rs.zipIdx.filter fun (r : (Nat × Nat) × Nat) => r.2 != k).map fun r => share r.1).sum
    rs.zipIdx.map fun (r : (Nat × Nat) × Nat) => (r.1.1, if r.2 = k then 64 - others else share r.1)

/-- The cost of a link (R414). -/
def State.linkCost (s : State) (l : LinkId) : Nat := (s.link (linkKey l)).cost

/-- The routes of a stack towards the one it has no link to, each over a neighbour, take their weights (R15, R415). -/
def State.recross (s : State) : State :=
  let ways (k : Nat) : List (Nat × Nat) :=
    [(0, s.linkCost (.dieToDie k 0) + s.linkCost (.dieToDie (k ^^^ 1) 1)),
     (1, s.linkCost (.dieToDie k 1) + s.linkCost (.dieToDie (k ^^^ 2) 0))]
  { s with crossings := (List.range 4).map fun k => (k, routeWeights (ways k)) }

/-- LANE_LOSS (R15, R373, R414): the link falls to half width, with half its window and half its arbitration weight, and
retrains. -/
def execLaneLoss (link : LinkId) (lane : Nat) (s : State) : Out :=
  if !link.ok ∨ link.lanes ≤ lane then .next s
  else
    let x := s.link (linkKey link)
    let s := s.setLink (linkKey link) { x with half := true, retraining := true, window := 128, weight := 1 }
    .next ((s.logLink (linkPath link) (linkPlace link) 4 1 lane 0xFF).later (.linkRetrainComplete link))

/-- LINK_RETRAIN_COMPLETE (R414): the cost doubles, in every routing table. -/
def execLinkRetrainComplete (link : LinkId) (s : State) : Out :=
  let x := s.link (linkKey link)
  if x.retraining then .next ((s.setLink (linkKey link) { x with retraining := false, cost := 32 }).recross) else .next s

/-- FULL_WIDTH_RESTORED (R415): the cost is 16 again, in every routing table. -/
def execFullWidthRestored (link : LinkId) (s : State) : Out :=
  if (s.link (linkKey link)).half then
    .next (((s.setLink (linkKey link) {}).logLink (linkPath link) (linkPlace link) 5 1 0xFF 0xFF).recross)
  else .next s

/-- The weights of routes as they are advertised: a route costs its first link's cost and what lies beyond (R415). -/
def State.weigh (s : State) (rs : List (Nat × Nat)) : List (Nat × Nat) :=
  routeWeights (rs.map fun r => (r.1, s.linkCost (.domain r.1) + r.2))

/-- No request to a device is unacknowledged, or no route to it is left: its routes may change (R415). -/
def State.routeFree (s : State) (dest : Nat) : Bool :=
  (Tab.get [] s.routes dest).isEmpty || s.flights.all fun f => spaceNum (128 * f.line) != dest + 1

/-- ROUTE_ADVERTISEMENT (R373, R414, R415): the routes to one of the 64 devices, each with its first link of 12 and
what it costs beyond that link, take their weights; what waited for a route goes on (R375). -/
def execRouteAdvertisement (dest : Nat) (routes : List (Nat × Nat)) (s : State) : Out :=
  if 64 ≤ dest then .next s
  else
    let rs := (routes.filter fun r => (LinkId.domain r.1).ok).take 4
    let ws := s.weigh rs
    let put (t : Tab (List (Nat × Nat))) (x : List (Nat × Nat)) := if rs.isEmpty then Tab.drop t dest else Tab.put t dest x
    let s : State := { s with routes := put s.routes ws, adverts := put s.adverts rs }
    .next { s with warps := s.warps.map fun (e : Nat × Warp) =>
              (e.1, { e.2 with ma := e.2.ma.asksAgain, mb := e.2.mb.asksAgain }) }

/-! ## Containment (R412) -/

/-- A core cleared by a containment reset (R137, R412): its pool, engines and TLBs are empty; rows and their codes,
the cycle count and what the power manager knows of it stay. -/
def Core.contained (c : Core) : Core :=
  { cycle := c.cycle, counters := c.counters, codes := c.codes, corrections := c.corrections, rows := c.rows
    remap := c.remap, hot := c.hot, droops := c.droops, droopOut := c.droopOut, failed := c.failed, epoch := c.epoch }

/-- The containment reset of a cluster: its cores stop with every dirty line discarded, packets to them are dropped,
recalls of what they hold complete with no partial, their launches are to be rolled back, and the self-check follows
(R137, R298, R299, R412). -/
def State.contain (s : State) (u : Nat) : State :=
  let cs := coresOfCluster u
  let bs := cs.flatMap s.blocksOn
  let s := cs.foldl State.dropL1 s
  let ls := (bs.map fun b => (s.block b).launch).eraseDups
  let s := bs.foldl State.freeBlock s
  let s := cs.foldl (fun (s : State) c => s.setCore c (s.core c).contained) s
  let gone (t : Tab (List Nat)) : Tab (List Nat) :=
    (t.map fun e => (e.1, e.2.filter fun c => !cs.contains c)).filter fun e => !e.2.isEmpty
  let s : State :=
    { s with
      flights := s.flights.filter fun f => !cs.contains f.core
      holders := gone s.holders
      cores := s.cores.map fun (e : Nat × Core) => (e.1, { e.2 with redHolders := gone e.2.redHolders }) }
  let s := s.setCluster u { s.cluster u with testDue := false, testing := false, resetting := true, tlb := [] }
  let s := ls.foldl State.undo s
  let (i, s) := s.draw
  s.later (.selfCheckComplete u (cs.filter (Config.choice i)))

/-- CONTAINMENT_RESET (R412). -/
def execContainmentReset (cluster : Nat) (s : State) : Out :=
  if cluster < 64 ∧ !(s.cluster cluster).resetting then .next (s.contain cluster) else .next s

/-- A warp of a cluster is ready (R111, R412). -/
def State.clusterReady (s : State) (u : Nat) : Bool := (coresOfCluster u).any fun c => (warpSlotsOf c).any fun k => (s.warp k).ready

/-- CLUSTER_STALL_TIMEOUT (R412): a cluster that retires nothing while a warp of it is ready is reset. -/
def execClusterStallTimeout (cluster : Nat) (s : State) : Out :=
  if cluster < 64 ∧ s.clusterReady cluster then .next (s.later (.containmentReset cluster)) else .next s

/-- The cores of a cluster check themselves at the phase that a downward step of their die leads to, once its clock has
changed (R137, R412). -/
def State.checkWaits (s : State) (cluster : Nat) : Bool :=
  (s.die (cluster / 16)).step.any fun x => x.stage == 1 || (x.stage == 5 && decide (x.target < x.source))

/-- SELF_CHECK_COMPLETE (R137, R412): the cores return to service, but for those that failed; steps that waited on the
die proceed. -/
def execSelfCheckComplete (cluster : Nat) (failed : List Nat) (s : State) : Out :=
  if !(s.cluster cluster).resetting then .next s
  else if s.checkWaits cluster then .next (s.later (.selfCheckComplete cluster failed))
  else
    let s := s.setCluster cluster { s.cluster cluster with resetting := false }
    let bad := (coresOfCluster cluster).filter failed.contains
    let s := bad.foldl (fun (s : State) c => s.setCore c { s.core c with failed := true }) s
    let die := cluster / 16
    .next (if s.dieResetting die ∨ (s.die die).step.isSome then s else s.stepsWaited die)

/-- LINK_LEVEL_RETRY (R13, R15, R403, R405, R406): a repeated flit that passes is logged; a mesh flit whose fifth
transfer fails is logged and dropped, and the cluster of its traffic is reset; on a link the fifth failure is one the
next repeats. -/
def execLinkLevelRetry (path : FlitPath) (attempt : Nat) (passes : Bool) (s : State) : Out :=
  if !path.ok ∨ attempt = 0 ∨ path.transfers < attempt then .next s
  else
    match path with
    | .mesh k r layer port t =>
      let place := 4096 * port + 256 * k + 2 * r + layer
      if passes then .next (s.logLink 2 place 1 attempt 0xFF (s.partOfStack k))
      else if attempt < 5 then .next s
      else
        let s := s.logLink 2 place 3 5 0xFF (s.partOfStack k)
        .next (match t with
          | none => s
          | some u => s.later (.containmentReset u))
    | .dieToDie k l => .next (if passes then s.logLink 3 (256 * k + l) 1 attempt 0xFF 0xFF else s)
    | .domain l => .next (if passes then s.logLink 4 l 1 attempt 0xFF 0xFF else s)

/-! ## Errors in the device's own stores (R403, R407) -/

/-- A word of a v-register is poisoned (R403). -/
def Warp.taint (w : Warp) (n : Nat) : Warp := { w with regs := { w.regs with bad := addOnce w.regs.bad n } }

/-- A word of a register of a warp, by a number taken into its register file, is poisoned. -/
def State.taintReg (s : State) (k n : Nat) : State :=
  let w := s.warp k
  s.setWarp k (w.taint (n % (32 * max 1 (s.block w.block).regs)))

/-- An uncorrectable error in a byte of a pool row (R127, R263, R403): a word of a register, of a scratchpad or of an
L1 line is poisoned; in a rename row, one of a promoted warp's registers. Which warp and register a row holds is the
model's choice (log 59). -/
def State.strikeRow (s : State) (core row byte : Nat) : State :=
  let c := s.core core
  let v := c.carve
  let n := row - Config.renameRows
  let size := v.regRows + v.scratchRows
  let b := 16 * core + n / size
  let x := s.block b
  if row < Config.renameRows then
    (c.reWarps[row % max 1 c.reWarps.length]?).elim s fun k => s.taintReg k (32 * row + byte / 8)
  else if row < v.l1Base then
    if !x.used then s
    else if n % size < v.regRows then
      (s.warpAt b (n % size / x.regs)).elim s fun k => s.taintReg k (32 * (n % size % x.regs) + byte / 8)
    else s.setBlock b { x with poison := addOnce x.poison ((256 * (n % size - v.regRows) + byte) / 8) }
  else
    let at_ := row - v.l1Base
    let w := byte % 128 / 8
    s.setCore core { c with
      l1 := c.l1.map fun l =>
        if l.way = at_ / 128 ∧ setOf l.line = 2 * (at_ % 128) + byte / 128 ∧ l.bytes.any (fun e => e.1 / 8 == w) then
          { l with poison := addOnce l.poison w }
        else l }

/-- An uncorrectable error in the accumulators, or in a bank: its word is poisoned (R403). -/
def Core.strikeAccum (c : Core) (a : Nat) : Core := { c with badAccum := addOnce c.badAccum (a / 8 % 32768) }
def Core.strikeBank (c : Core) (a : Nat) : Core :=
  let w := a / 8 % 6528
  let b := c.bank (w / 3264)
  c.setBank (w / 3264) { b with poison := addOnce b.poison (w % 3264) }

/-- A correction in a pool row counts towards its retirement (R407). -/
def State.countCorrection (s : State) (core row : Nat) : State :=
  let c := s.core core
  let r := c.physRow row
  s.setCore core { c with corrections := Tab.put c.corrections r (Tab.get 0 c.corrections r + 1) }

/-- An error in a store (R403, R405): logged, and corrected, or its words poisoned, or the cluster reset. -/
def State.strike (s : State) (u : Upset) : State :=
  let core := u.place % Config.cores
  let stack := u.place / 32 % 4
  let c := s.core core
  let row := u.addr / 256 % max 1 c.rows
  let logged (s : State) (unit place part addr : Nat) : State :=
    s.logEcc { kind := if u.fixed then 1 else 2, unit := unit, place := place, part := part, repeats := 0,
               syndrome := u.syndrome, addr := addr, time := 0 }
  let here := s.partOfStack (stackOf core)
  match u.unit with
  | 0 | 3 =>
    let s := logged s (if c.carve.l1Base ≤ row then 3 else 0) core here (256 * row + u.addr % 256)
    if u.fixed then s.countCorrection core row else s.strikeRow core row (u.addr % 256)
  | 1 | 2 =>
    let s := logged s u.unit core here u.addr
    let c := s.core core
    if u.fixed then s else s.setCore core (if u.unit = 1 then c.strikeAccum u.addr else c.strikeBank u.addr)
  | 4 =>
    let p := 32 * (u.addr / 32)
    if (s.l2Find (p / 128)).isNone then s
    else
      let s := logged s 4 (sliceOf p) (s.partAt p) p
      if u.fixed then s else s.poisonWords (p / 8) 4
  | 5 =>
    let slice := 32 * stack + u.place % 32
    let s := logged s 5 slice (s.partOfStack stack) u.addr
    if u.fixed then s else { s with flights := s.flights.filter fun f => sliceOfLine f.line != slice }
  | 6 =>
    let k := s.stack stack
    let w := u.addr % 2 ^ 25 / 32 * 4
    let s := logged s 6 (32 * stack + u.place % 32) (s.partOfStack stack) (8 * w)
    if u.fixed then s
    else s.setStack stack { k with poison := ((List.range 4).map (w + ·)).foldl addOnce k.poison }
  | 10 =>
    let s := logged s 10 core here u.addr
    if u.fixed then s else s.later (.containmentReset (clusterOf core))
  | _ => s

/-! ## Rollback (R408, R409) -/

/-- SNAPSHOT_COPY (R409). -/
def execSnapshotCopy (launch piece : Nat) (s : State) : Out :=
  if (s.launch launch).open ∧ (s.launch launch).record.snap then
    .next (s.snapCopy launch (piece / 2 ^ 16 * 2 ^ 16))
  else .next s

/-- A piece is written back from its pool page (R408 step 4): the poison in its bytes is cleared, but for words that the
pool holds poisoned. The answer says whether the piece came back whole. -/
def State.restorePiece (s : State) (l j piece : Nat) : State × Bool :=
  let x := s.launch l
  let page := x.record.snappool + 2 ^ 16 * (j + 1)
  match s.cpXlate x.ctx page .read with
  | none => (s, false)
  | some (s, from_) =>
    match s.sysXlate x.ctx piece with
    | none => (s, false)
    | some (s, dst) =>
      let (s, bs) := s.homeRead from_ (2 ^ 16)
      let bad := (List.range (2 ^ 13)).filter fun w => s.poison.contains (from_ / 8 + w)
      let s := s.homeWrite dst bs
      let s : State := { s with poison := (bad.map (dst / 8 + ·)).foldl addOnce s.poison }
      (s, bad.isEmpty)

/-- Every recorded piece is written back; the answer says whether all came back whole. -/
def State.restorePieces (s : State) (l : Nat) : State × Bool :=
  (s.launch l).snaps.zipIdx.foldl (fun (acc : State × Bool) (p : Nat × Nat) =>
    let (s, ok) := acc.1.restorePiece l p.2 p.1
    (s, acc.2 && ok)) (s, true)

/-- Poison that stopped a warp of the launch is logged as consumed (R405). -/
def State.logConsumed (s : State) (l : Nat) : State := (s.residents l).foldl State.logStopped s

/-- The engine of every core whose baton the launch holds is emptied (R213, R408 step 5). -/
def State.clearHeld (s : State) (l : Nat) : State :=
  (s.residents l).foldl (fun (s : State) b =>
    let c := coreOfBlock b
    if (s.holderOf b).isSome then s.setCore c (s.core c).clearEngine else s) s

/-- A launch is placed again as if fetched anew: its record is read again at its place in the queue (R408 step 7), and its
snapshot pool begins with an empty index (R409). -/
def State.placeAgain (s : State) (l : Nat) : State :=
  let x := s.launch l
  let q := s.queue (qkey x.part x.queue)
  let unit (s : State) (i : Nat) : State × List Byte := s.homeRead (q.base + 64 * ((x.recordAt + i) % q.size)) 64
  let (s, b0) := unit s 0
  let h := headerOf (fld b0 0 8)
  let (s, b1) := if h.units = 2 then unit s 1 else (s, [])
  let bs := b0 ++ b1
  let r := launchOf h bs (s.part x.part)
  if h.bad ∨ h.kind ≠ 1 ∨ !mapOk h bs r ∨ !recordOk r (s.coresOf x.part).length then s.endLaunch l 5
  else
    let s := s.cpWrite x.ctx 3 x.record.snappool (List.replicate (8 * x.snaps.length) 0#8)
    s.setLaunch l
      { phase := .waiting, part := x.part, queue := x.queue, ctx := x.ctx, record := r, recordAt := x.recordAt
        nextAt := x.nextAt, order := x.order, rollbacks := x.rollbacks }

/-- ROLLBACK (R408): once its warps have stopped, the launch's blocks are discarded, the L1s of its partition are
written back and emptied, its pieces restored and its resources freed; it is placed again or completes. A launch that
an abort or a cancel ends meanwhile completes with the status of that (R83, R371). -/
def execRollback (launch : Nat) (s : State) : Out :=
  let x := s.launch launch
  if !x.open ∨ !x.undoing ∨ !s.launchStill launch then .next s
  else
    let s := (((s.logConsumed launch).clearHeld launch).discardLaunch launch).emptyL1 x.part
    let whole := x.record.snap && !x.unprotected
    let (s, ok) := if whole then s.restorePieces launch else (s, true)
    let s := s.stackFree launch
    let n := if x.record.snap then x.rollbacks + 1 else x.rollbacks
    let s := s.setLaunch launch { s.launch launch with rollbacks := n, undoing := false }
    .next (match x.ending with
      | some st => s.endLaunch launch st
      | none =>
        if !whole ∨ !ok then s.endLaunch launch 2
        else if n ≤ x.record.replays then s.placeAgain launch
        else s.endLaunch launch 3)

/-! ## Audit (R411) -/

/-- The warps of a block whose signatures differ between two runs. -/
def differing (a b : List Word) : List Nat :=
  (List.range (max a.length b.length)).filter fun i => a[i]? != b[i]?

/-- AUDIT_REPLAY_COMPLETE (R411): one entry for each warp whose signature differs, and the launch completes after its
last replay. -/
def execAuditReplayComplete (launch block core : Nat) (signatures : List Word) (s : State) : Out :=
  let x := s.launch launch
  if !x.open ∨ !x.replaying.contains block then .next s
  else
    let (at_, old) := Tab.get (core, []) x.signatures block
    let bad := differing old signatures
    let s := s.setLaunch launch { x with
      replaying := without x.replaying block, signatures := Tab.drop x.signatures block
      mismatch := x.mismatch || !bad.isEmpty }
    let s := bad.foldl (fun (s : State) i =>
      s.logEcc { kind := 5, unit := 10, place := at_, part := x.part, repeats := 0, syndrome := core,
                 addr := 32 * block + i, time := 0 }) s
    .next (s.checkFinished launch)

/-! ## In-field tests (R407, R413) -/

/-- The blocks of a cluster. -/
def State.clusterBlocks (s : State) (u : Nat) : List Nat := (coresOfCluster u).flatMap s.blocksOn

/-- No cluster of the stack is due or under test, so that one may fall due (R413). -/
def State.testFree (s : State) (u : Nat) : Bool :=
  ((List.range 16).map (16 * (u / 16) + ·)).all fun k => !(s.cluster k).testDue && !(s.cluster k).testing

/-- INFIELD_TEST_DUE (R413): the distributor leaves the cluster out from now on. -/
def execInfieldTestDue (cluster : Nat) (s : State) : Out :=
  if cluster < 64 ∧ s.testFree cluster ∧ !(s.cluster cluster).resetting then
    let s := s.setCluster cluster { s.cluster cluster with testDue := true }
    .next ((s.later (.infieldTestStart cluster)).later (.infieldTestForce cluster))
  else .next s

/-- A warp of the cluster is inside npr or holds a lock (R413 step 2). -/
def State.testHeld (s : State) (u : Nat) : Bool :=
  (s.clusterBlocks u).any fun b => (s.warpsOf b).any fun k =>
    s.liveWarp k && ((s.warp k).npr || !(s.warp k).holds.isEmpty)

/-- The test of a cluster that is due may start: no step runs on its die (R137). -/
def State.testReady (s : State) (u : Nat) : Bool :=
  (s.cluster u).testDue && !(s.cluster u).testing && (s.die (u / 16)).step.isNone

/-- INFIELD_TEST_START (R413 step 3): every block of the cluster is saved with reason 4. -/
def execInfieldTestStart (cluster : Nat) (s : State) : Out :=
  if s.testReady cluster ∧ !s.testHeld cluster then
    let s := s.setCluster cluster { s.cluster cluster with testing := true }
    let s := (s.clusterBlocks cluster).foldl (fun s b => s.startSave b .test) s
    .next (s.later (.infieldTestEnd cluster []))
  else .next s

/-- INFIELD_TEST_FORCE (R389, R413 step 4): the blocks are pre-empted with the deadline reached. -/
def execInfieldTestForce (cluster : Nat) (s : State) : Out :=
  if s.testReady cluster then
    let s := s.setCluster cluster { s.cluster cluster with testing := true }
    let s := (s.clusterBlocks cluster).foldl (fun (s : State) b =>
      let s := s.startSave b .forced
      (s.members b).foldl (fun (s : State) y =>
        let s := s.setBlock y { s.block y with deadline := true }
        (s.warpsOf y).foldl State.haltAtBoundary s) s) s
    .next (s.later (.infieldTestEnd cluster []))
  else .next s

/-- The logical row of a physical row, or its own number where it holds none. -/
def Core.logicalRow (c : Core) (row : Nat) : Nat := ((c.remap.find? fun e => e.2 == row).map (·.1)).getD row

/-- A row code is raised, with its entry (R405, R407). -/
def State.raiseCode (s : State) (core row code : Nat) : State :=
  let c := s.core core
  if code ≤ c.code row ∨ 4 < code ∨ Config.physRows ≤ row then s
  else
    let s := s.setCore core { c with codes := Tab.put c.codes row code, corrections := Tab.drop c.corrections row }
    s.logEcc { kind := 4, unit := 0, place := core, part := s.partOfStack (stackOf core), repeats := 0, syndrome := 0,
               addr := 256 * c.logicalRow row, time := 0 }

/-- Rows of a core that were corrected 4 times (R407). -/
def Core.worn (c : Core) : List Nat := (c.corrections.filter fun e => decide (4 ≤ e.2)).map (·.1)

/-- The phase for which the row maps of a die stand: a downward step's target once they have switched (R132). -/
def Die.mapPhase (d : Die) : Nat :=
  match d.step with
  | some x => if x.stage = 1 then d.phase else min d.phase x.target
  | none => d.phase

/-- Some logical row of a core stands in a physical row that is not safe at the phase of its map. -/
def State.unsafeRows (s : State) (core : Nat) : Bool :=
  let c := s.core core
  let phase := (s.die (stackOf core)).mapPhase
  !(c.doomed phase (max c.rows (c.rowsAt phase))).isEmpty

/-- A tested core takes up its rows: logical rows leave the physical rows that are safe no longer (R128), which R126 names
no event for: the core is remapped, and split anew, at the test's end, by the plan of a downward step to its own phase
(log 57). Inside a step that has still to switch, the core plans for the step's target again, by its codes as they are now
(R137). -/
def State.remapCore (s : State) (core : Nat) : State :=
  let d := s.die (stackOf core)
  let s :=
    if s.unsafeRows core then
      let s := s.evacuate d.mapPhase core
      s.setCore core ((s.core core).switched d.mapPhase)
    else s
  match d.step with
  | some x => if x.stage = 1 then s.evacuate x.target core else s
  | none => s

/-- INFIELD_TEST_END (R407, R413): row codes rise, worn rows are retired, and the cores return to placement. -/
def execInfieldTestEnd (cluster : Nat) (raised : List (Nat × Nat × Nat)) (s : State) : Out :=
  let cs := coresOfCluster cluster
  if !(s.cluster cluster).testing ∨ !(s.clusterBlocks cluster).isEmpty then .next s
  else
    let s := cs.foldl (fun (s : State) c => (s.core c).worn.foldl (fun (s : State) r => s.raiseCode c r 4) s) s
    let s := (raised.filter fun r => cs.contains r.1).foldl (fun (s : State) r => s.raiseCode r.1 r.2.1 r.2.2) s
    let s := cs.foldl State.remapCore s
    .next (s.setCluster cluster { s.cluster cluster with testDue := false, testing := false })

end Sys2Proof.Machine
end

