-- ==== Sys2Proof/Machine/Dispatch.lean ====
section
/-! DEFINITION. One arm for every instruction: a direct call of its meaning. -/

namespace Sys2Proof.Machine

/-- The meaning of an instruction in a state. -/
def exec (i : Instr) (s : State) : Host.Outcome State Fault Refusal :=
  match i with
  | .nop c => Sys2Proof.Machine.execNop c s
  | .imx x => Sys2Proof.Machine.execImx x s
  | .bra h o => Sys2Proof.Machine.execBra h o s
  | .brx h a => Sys2Proof.Machine.execBrx h a s
  | .call h o => Sys2Proof.Machine.execCall h o s
  | .ret h => Sys2Proof.Machine.execRet h s
  | .rcv c o => Sys2Proof.Machine.execRcv c o s
  | .join c => Sys2Proof.Machine.execJoin c s
  | .exit h => Sys2Proof.Machine.execExit h s
  | .trap h a n => Sys2Proof.Machine.execTrap h a n s
  | .brk h n => Sys2Proof.Machine.execBrk h n s
  | .yield h => Sys2Proof.Machine.execYield h s
  | .loop h d n => Sys2Proof.Machine.execLoop h d n s
  | .sleep h a n => Sys2Proof.Machine.execSleep h a n s
  | .hintPromote h => Sys2Proof.Machine.execHintPromote h s
  | .hintDemote h => Sys2Proof.Machine.execHintDemote h s
  | .nprOff h => Sys2Proof.Machine.execNprOff h s
  | .nprOn h => Sys2Proof.Machine.execNprOn h s
  | .sreg h d a n => Sys2Proof.Machine.execSreg h d a n s
  | .sregw h d a n => Sys2Proof.Machine.execSregw h d a n s
  | .setnfCode h f n => Sys2Proof.Machine.execSetnfCode h f n s
  | .setnfReg h f a => Sys2Proof.Machine.execSetnfReg h f a s
  | .post h e f g => Sys2Proof.Machine.execPost h e f g s
  | .icinv h a b => Sys2Proof.Machine.execIcinv h a b s
  | .ifence h => Sys2Proof.Machine.execIfence h s
  | .stop h => Sys2Proof.Machine.execStop h s
  | .svc h a n => Sys2Proof.Machine.execSvc h a n s
  | .sadd h d a b => Sys2Proof.Machine.execSadd h d a b s
  | .ssub h d a b => Sys2Proof.Machine.execSsub h d a b s
  | .smul h d a b => Sys2Proof.Machine.execSmul h d a b s
  | .smulh h d a b => Sys2Proof.Machine.execSmulh h d a b s
  | .sdivu h d a b => Sys2Proof.Machine.execSdivu h d a b s
  | .sremu h d a b => Sys2Proof.Machine.execSremu h d a b s
  | .sand h d a b => Sys2Proof.Machine.execSand h d a b s
  | .sor h d a b => Sys2Proof.Machine.execSor h d a b s
  | .sxor h d a b => Sys2Proof.Machine.execSxor h d a b s
  | .sshl h d a b => Sys2Proof.Machine.execSshl h d a b s
  | .sshr h d a b => Sys2Proof.Machine.execSshr h d a b s
  | .ssar h d a b => Sys2Proof.Machine.execSsar h d a b s
  | .saddi h d a n => Sys2Proof.Machine.execSaddi h d a n s
  | .smovi h d n => Sys2Proof.Machine.execSmovi h d n s
  | .smov h d a => Sys2Proof.Machine.execSmov h d a s
  | .scmp h d q a b => Sys2Proof.Machine.execScmp h d q a b s
  | .scmpi h d q a n => Sys2Proof.Machine.execScmpi h d q a n s
  | .ssel h d a b => Sys2Proof.Machine.execSsel h d a b s
  | .smin h d a b => Sys2Proof.Machine.execSmin h d a b s
  | .smax h d a b => Sys2Proof.Machine.execSmax h d a b s
  | .sclz h d a => Sys2Proof.Machine.execSclz h d a s
  | .spopc h d a => Sys2Proof.Machine.execSpopc h d a s
  | .slea h d a b => Sys2Proof.Machine.execSlea h d a b s
  | .sget h d a b => Sys2Proof.Machine.execSget h d a b s
  | .sbc h d a => Sys2Proof.Machine.execSbc h d a s
  | .smask h d a n => Sys2Proof.Machine.execSmask h d a n s
  | .spredToS h d a => Sys2Proof.Machine.execSpredToS h d a s
  | .spredToP h d a => Sys2Proof.Machine.execSpredToP h d a s
  | .sld h d x k => Sys2Proof.Machine.execSld h d x k s
  | .sst h d x k => Sys2Proof.Machine.execSst h d x k s
  | .bufld h d a n => Sys2Proof.Machine.execBufld h d a n s
  | .vadd h f d a b => Sys2Proof.Machine.execVadd h f d a b s
  | .vsub h f d a b => Sys2Proof.Machine.execVsub h f d a b s
  | .vmul h f d a b => Sys2Proof.Machine.execVmul h f d a b s
  | .vfma h f d a b => Sys2Proof.Machine.execVfma h f d a b s
  | .vmin h f d a b => Sys2Proof.Machine.execVmin h f d a b s
  | .vmax h f d a b => Sys2Proof.Machine.execVmax h f d a b s
  | .vcmp h f d q a b => Sys2Proof.Machine.execVcmp h f d q a b s
  | .vabs h f d a => Sys2Proof.Machine.execVabs h f d a s
  | .vneg h f d a => Sys2Proof.Machine.execVneg h f d a s
  | .vmulh h f d a b => Sys2Proof.Machine.execVmulh h f d a b s
  | .vamin h f d a b => Sys2Proof.Machine.execVamin h f d a b s
  | .vamax h f d a b => Sys2Proof.Machine.execVamax h f d a b s
  | .vdp4 h f d a b => Sys2Proof.Machine.execVdp4 h f d a b s
  | .vshl h f d a b => Sys2Proof.Machine.execVshl h f d a b s
  | .vshr h f d a b => Sys2Proof.Machine.execVshr h f d a b s
  | .vrint h f d a => Sys2Proof.Machine.execVrint h f d a s
  | .vclamp h f d a b => Sys2Proof.Machine.execVclamp h f d a b s
  | .vand h d a b => Sys2Proof.Machine.execVand h d a b s
  | .vor h d a b => Sys2Proof.Machine.execVor h d a b s
  | .vxor h d a b => Sys2Proof.Machine.execVxor h d a b s
  | .vandn h d a b => Sys2Proof.Machine.execVandn h d a b s
  | .vmov h d a => Sys2Proof.Machine.execVmov h d a s
  | .vmovi h d n => Sys2Proof.Machine.execVmovi h d n s
  | .vsel h d a b => Sys2Proof.Machine.execVsel h d a b s
  | .vcvt h d a sc t q => Sys2Proof.Machine.execVcvt h d a sc t q s
  | .vpack h d a b => Sys2Proof.Machine.execVpack h d a b s
  | .unpackNibbles h d a => Sys2Proof.Machine.execUnpackNibbles h d a s
  | .unpackHighBits h d a => Sys2Proof.Machine.execUnpackHighBits h d a s
  | .unpackWiden h d a => Sys2Proof.Machine.execUnpackWiden h d a s
  | .vclz h d a w => Sys2Proof.Machine.execVclz h d a w s
  | .vpopc h d a w => Sys2Proof.Machine.execVpopc h d a w s
  | .vbrev h d a w => Sys2Proof.Machine.execVbrev h d a w s
  | .vperm h d a b => Sys2Proof.Machine.execVperm h d a b s
  | .vlane h d w => Sys2Proof.Machine.execVlane h d w s
  | .rcp h d a f => Sys2Proof.Machine.execRcp h d a f s
  | .rsqrt h d a f => Sys2Proof.Machine.execRsqrt h d a f s
  | .sqrt h d a f => Sys2Proof.Machine.execSqrt h d a f s
  | .exp2 h d a f => Sys2Proof.Machine.execExp2 h d a f s
  | .log2 h d a f => Sys2Proof.Machine.execLog2 h d a f s
  | .sin h d a f => Sys2Proof.Machine.execSin h d a f s
  | .cos h d a f => Sys2Proof.Machine.execCos h d a f s
  | .tanh h d a f => Sys2Proof.Machine.execTanh h d a f s
  | .erf h d a f => Sys2Proof.Machine.execErf h d a f s
  | .exd h d a f => Sys2Proof.Machine.execExd h d a f s
  | .shfl h d a b => Sys2Proof.Machine.execShfl h d a b s
  | .shfli h d a n => Sys2Proof.Machine.execShfli h d a n s
  | .bcast h d a b => Sys2Proof.Machine.execBcast h d a b s
  | .voteOr h d a => Sys2Proof.Machine.execVoteOr h d a s
  | .voteAnd h d a => Sys2Proof.Machine.execVoteAnd h d a s
  | .voteMask h d a => Sys2Proof.Machine.execVoteMask h d a s
  | .voteSame h d a => Sys2Proof.Machine.execVoteSame h d a s
  | .voteCnt h d a => Sys2Proof.Machine.execVoteCnt h d a s
  | .red h d a m o f => Sys2Proof.Machine.execRed h d a m o f s
  | .scan h d a m o f => Sys2Proof.Machine.execScan h d a m o f s
  | .redseg h d a o f => Sys2Proof.Machine.execRedseg h d a o f s
  | .xswap h d a b => Sys2Proof.Machine.execXswap h d a b s
  | .vmatch h d a w => Sys2Proof.Machine.execVmatch h d a w s
  | .vcompact h d a => Sys2Proof.Machine.execVcompact h d a s
  | .ldl h w d x z k => Sys2Proof.Machine.execLdl h w d x z k s
  | .ldc h w d x z k => Sys2Proof.Machine.execLdc h w d x z k s
  | .ldk h w d x k => Sys2Proof.Machine.execLdk h w d x k s
  | .ldg h w d x k => Sys2Proof.Machine.execLdg h w d x k s
  | .stl h w d x z k => Sys2Proof.Machine.execStl h w d x z k s
  | .stc h w d x z k => Sys2Proof.Machine.execStc h w d x z k s
  | .stk h w d x k => Sys2Proof.Machine.execStk h w d x k s
  | .stg h w d x k => Sys2Proof.Machine.execStg h w d x k s
  | .ldbD h d x k => Sys2Proof.Machine.execLdbD h d x k s
  | .ldbQ h d x k => Sys2Proof.Machine.execLdbQ h d x k s
  | .atomg h d x k => Sys2Proof.Machine.execAtomg h d x k s
  | .atoml h d x z k => Sys2Proof.Machine.execAtoml h d x z k s
  | .atomc h d x z k => Sys2Proof.Machine.execAtomc h d x z k s
  | .redg h d x k => Sys2Proof.Machine.execRedg h d x k s
  | .redc h d x z k => Sys2Proof.Machine.execRedc h d x z k s
  | .fenceAcq h sc => Sys2Proof.Machine.execFenceAcq h sc s
  | .fenceRel h sc => Sys2Proof.Machine.execFenceRel h sc s
  | .fenceAr h sc => Sys2Proof.Machine.execFenceAr h sc s
  | .fenceSc h sc => Sys2Proof.Machine.execFenceSc h sc s
  | .boset h d x z k => Sys2Proof.Machine.execBoset h d x z k s
  | .bomark h d x z k => Sys2Proof.Machine.execBomark h d x z k s
  | .boadd h d x z k => Sys2Proof.Machine.execBoadd h d x z k s
  | .bowait h d x z k => Sys2Proof.Machine.execBowait h d x z k s
  | .bopeek h d x z k => Sys2Proof.Machine.execBopeek h d x z k s
  | .bar h a n => Sys2Proof.Machine.execBar h a n s
  | .ldrag h d x z k => Sys2Proof.Machine.execLdrag h d x z k s
  | .prf h t g x k => Sys2Proof.Machine.execPrf h t g x k s
  | .cp h e f g => Sys2Proof.Machine.execCp h e f g s
  | .cpm h e f g => Sys2Proof.Machine.execCpm h e f g s
  | .wld h e f => Sys2Proof.Machine.execWld h e f s
  | .wldt h e f => Sys2Proof.Machine.execWldt h e f s
  | .mma h e f => Sys2Proof.Machine.execMma h e f s
  | .mmarx h f => Sys2Proof.Machine.execMmarx h f s
  | .aread h e f g => Sys2Proof.Machine.execAread h e f g s
  | .azero h f => Sys2Proof.Machine.execAzero h f s
  | .ttr h e f g => Sys2Proof.Machine.execTtr h e f g s
  | .tscl h f => Sys2Proof.Machine.execTscl h f s
  | .tcvt h e f g => Sys2Proof.Machine.execTcvt h e f g s
  | .batonTake h => Sys2Proof.Machine.execBatonTake h s
  | .batonGive h => Sys2Proof.Machine.execBatonGive h s
  | .batonTry h e => Sys2Proof.Machine.execBatonTry h e s
  | .batonOvf h e => Sys2Proof.Machine.execBatonOvf h e s
  | .rwctlOff h => Sys2Proof.Machine.execRwctlOff h s
  | .rwctlOn h => Sys2Proof.Machine.execRwctlOn h s
  | .rwctlFlush h => Sys2Proof.Machine.execRwctlFlush h s
  | .rwctlMask h a => Sys2Proof.Machine.execRwctlMask h a s
  | .rwctlCnt h d a => Sys2Proof.Machine.execRwctlCnt h d a s
  | .rwctlClr h => Sys2Proof.Machine.execRwctlClr h s
  | .tfill h e f g => Sys2Proof.Machine.execTfill h e f g s
  | .nopRecord part queue => Sys2Proof.Machine.execNopRecord part queue s
  | .launchRecord part queue => Sys2Proof.Machine.execLaunchRecord part queue s
  | .waitRecord part queue => Sys2Proof.Machine.execWaitRecord part queue s
  | .waitProceed part queue => Sys2Proof.Machine.execWaitProceed part queue s
  | .signalRecord part queue => Sys2Proof.Machine.execSignalRecord part queue s
  | .signalUpdate part queue => Sys2Proof.Machine.execSignalUpdate part queue s
  | .inval part ctx va len tag => Sys2Proof.Machine.execInval part ctx va len tag s
  | .invalFlush part ctx va len tag => Sys2Proof.Machine.execInvalFlush part ctx va len tag s
  | .invalCtx part ctx tag => Sys2Proof.Machine.execInvalCtx part ctx tag s
  | .installContext part addr tag => Sys2Proof.Machine.execInstallContext part addr tag s
  | .removeContext part ctx tag => Sys2Proof.Machine.execRemoveContext part ctx tag s
  | .bindQueue part queue ctx base size tag => Sys2Proof.Machine.execBindQueue part queue ctx base size tag s
  | .cancelLaunch part queue ltag tag => Sys2Proof.Machine.execCancelLaunch part queue ltag tag s
  | .powerLimit part watts tag => Sys2Proof.Machine.execPowerLimit part watts tag s
  | .attest part addr nonce tag => Sys2Proof.Machine.execAttest part addr nonce tag s
  | .blockPlace launch core => Sys2Proof.Machine.execBlockPlace launch core s
  | .launchAge launch => Sys2Proof.Machine.execLaunchAge launch s
  | .droopExclusionEnd core => Sys2Proof.Machine.execDroopExclusionEnd core s
  | .coreDrain launch core => Sys2Proof.Machine.execCoreDrain launch core s
  | .coreCarve launch core => Sys2Proof.Machine.execCoreCarve launch core s
  | .phaseTimeout launch => Sys2Proof.Machine.execPhaseTimeout launch s
  | .cometForward launch => Sys2Proof.Machine.execCometForward launch s
  | .blockExit block => Sys2Proof.Machine.execBlockExit block s
  | .launchComplete launch => Sys2Proof.Machine.execLaunchComplete launch s
  | .sleepExpire warp => Sys2Proof.Machine.execSleepExpire warp s
  | .yieldEnd warp => Sys2Proof.Machine.execYieldEnd warp s
  | .nprOverrun warp => Sys2Proof.Machine.execNprOverrun warp s
  | .bowaitExpire warp slotB => Sys2Proof.Machine.execBowaitExpire warp slotB s
  | .batonGrant core => Sys2Proof.Machine.execBatonGrant core s
  | .reContextGrant warp => Sys2Proof.Machine.execReContextGrant warp s
  | .promotionComplete warp => Sys2Proof.Machine.execPromotionComplete warp s
  | .demotionComplete warp => Sys2Proof.Machine.execDemotionComplete warp s
  | .issueBudgetPeriod core => Sys2Proof.Machine.execIssueBudgetPeriod core s
  | .tileUnitStart core unit => Sys2Proof.Machine.execTileUnitStart core unit s
  | .chainRendezvous core => Sys2Proof.Machine.execChainRendezvous core s
  | .rewriteTimeout core => Sys2Proof.Machine.execRewriteTimeout core s
  | .copyStart core => Sys2Proof.Machine.execCopyStart core s
  | .copyPiece core slot => Sys2Proof.Machine.execCopyPiece core slot s
  | .copyBudgetPeriod core => Sys2Proof.Machine.execCopyBudgetPeriod core s
  | .injectionBudgetPeriod cluster => Sys2Proof.Machine.execInjectionBudgetPeriod cluster s
  | .memoryBudgetPeriod part => Sys2Proof.Machine.execMemoryBudgetPeriod part s
  | .translationWalkComplete core ctx va write => Sys2Proof.Machine.execTranslationWalkComplete core ctx va write s
  | .memoryReply core line => Sys2Proof.Machine.execMemoryReply core line s
  | .homeRead core line => Sys2Proof.Machine.execHomeRead core line s
  | .pullRequest core epoch => Sys2Proof.Machine.execPullRequest core epoch s
  | .writeBack core line => Sys2Proof.Machine.execWriteBack core line s
  | .releaseRecord sender line epoch bytes => Sys2Proof.Machine.execReleaseRecord sender line epoch bytes s
  | .atomicBatch unit addr op wide operands => Sys2Proof.Machine.execAtomicBatch unit addr op wide operands s
  | .combineWindowClose line => Sys2Proof.Machine.execCombineWindowClose line s
  | .recall line => Sys2Proof.Machine.execRecall line s
  | .redcRecall core segment => Sys2Proof.Machine.execRedcRecall core segment s
  | .remoteTimeout warp => Sys2Proof.Machine.execRemoteTimeout warp s
  | .preempt block => Sys2Proof.Machine.execPreempt block s
  | .forcedPreempt block => Sys2Proof.Machine.execForcedPreempt block s
  | .preemptDeadline block => Sys2Proof.Machine.execPreemptDeadline block s
  | .blockSave block => Sys2Proof.Machine.execBlockSave block s
  | .blockRestore launch block core => Sys2Proof.Machine.execBlockRestore launch block core s
  | .phaseStepDown die phase => Sys2Proof.Machine.execPhaseStepDown die phase s
  | .rowMapSwitch die => Sys2Proof.Machine.execRowMapSwitch die s
  | .clockRestart die => Sys2Proof.Machine.execClockRestart die s
  | .phaseStepComplete die => Sys2Proof.Machine.execPhaseStepComplete die s
  | .phaseStepUp die phase => Sys2Proof.Machine.execPhaseStepUp die phase s
  | .busRetry burst passes => Sys2Proof.Machine.execBusRetry burst passes s
  | .laneSwap burst lane passes => Sys2Proof.Machine.execLaneSwap burst lane passes s
  | .linkRetrainComplete link => Sys2Proof.Machine.execLinkRetrainComplete link s
  | .fullWidthRestored link => Sys2Proof.Machine.execFullWidthRestored link s
  | .rollback launch => Sys2Proof.Machine.execRollback launch s
  | .snapshotCopy launch piece => Sys2Proof.Machine.execSnapshotCopy launch piece s
  | .auditReplayComplete launch block core signatures => Sys2Proof.Machine.execAuditReplayComplete launch block core signatures s
  | .clusterStallTimeout cluster => Sys2Proof.Machine.execClusterStallTimeout cluster s
  | .containmentReset cluster => Sys2Proof.Machine.execContainmentReset cluster s
  | .selfCheckComplete cluster failed => Sys2Proof.Machine.execSelfCheckComplete cluster failed s
  | .infieldTestDue cluster => Sys2Proof.Machine.execInfieldTestDue cluster s
  | .infieldTestStart cluster => Sys2Proof.Machine.execInfieldTestStart cluster s
  | .infieldTestForce cluster => Sys2Proof.Machine.execInfieldTestForce cluster s
  | .infieldTestEnd cluster raised => Sys2Proof.Machine.execInfieldTestEnd cluster raised s
  | .tileUnitFinish core unit => Sys2Proof.Machine.execTileUnitFinish core unit s
  | .statusRead port part => Sys2Proof.Machine.execStatusRead port part s
  | .registerWrite port offset value => Sys2Proof.Machine.execRegisterWrite port offset value s
  | .ringSizeWrite port part ring size => Sys2Proof.Machine.execRingSizeWrite port part ring size s
  | .queueDoorbell port part queue tail => Sys2Proof.Machine.execQueueDoorbell port part queue tail s
  | .controlDoorbell port part tail => Sys2Proof.Machine.execControlDoorbell port part tail s
  | .adminDoorbell port part tail => Sys2Proof.Machine.execAdminDoorbell port part tail s
  | .apertureBarAccess port write addr bytes => Sys2Proof.Machine.execApertureBarAccess port write addr bytes s
  | .completionHeadWrite port part head => Sys2Proof.Machine.execCompletionHeadWrite port part head s
  | .remoteAccess group write addr bytes => Sys2Proof.Machine.execRemoteAccess group write addr bytes s
  | .coreSample core celsius => Sys2Proof.Machine.execCoreSample core celsius s
  | .droopEvent core => Sys2Proof.Machine.execDroopEvent core s
  | .patrolScrub line => Sys2Proof.Machine.execPatrolScrub line s
  | .laneLoss link lane => Sys2Proof.Machine.execLaneLoss link lane s
  | .linkLevelRetry path attempt passes => Sys2Proof.Machine.execLinkLevelRetry path attempt passes s
  | .routeAdvertisement dest routes => Sys2Proof.Machine.execRouteAdvertisement dest routes s
  | .dramTransferComplete burst outcome => Sys2Proof.Machine.execDramTransferComplete burst outcome s
  | .setConfiguration => Sys2Proof.Machine.execSetConfiguration s
  | .readConfiguration => Sys2Proof.Machine.execReadConfiguration s
  | .setDeviceNumber => Sys2Proof.Machine.execSetDeviceNumber s
  | .stageImage => Sys2Proof.Machine.execStageImage s
  | .mailboxUnknownOp => Sys2Proof.Machine.execMailboxUnknownOp s
  | .moduleReset => Sys2Proof.Machine.execModuleReset s
  | .capacityTableUpdate => Sys2Proof.Machine.execCapacityTableUpdate s

end Sys2Proof.Machine
end

