-- ==== Sys2Proof/Machine/Packet.lean ====
section
/-! DEFINITION. The decode check of a packet before any of its words issues (spec/02 R42 to R53, R105, R193, R292,
R293). -/

namespace Sys2Proof.Machine

/-! ## Registers a word names (R23, R46) -/

/-- The registers of a pair and of a quad. -/
def pairOf (d : Nat) : List Nat := [d, d + 1]
def quadOf (d : Nat) : List Nat := [d, d + 1, d + 2, d + 3]

/-- The data registers of a memory word of a width code (R51). -/
def dataRegs (w : BitVec 2) (d : BitVec 6) : List Nat :=
  match w.toNat with
  | 2 => pairOf d.toNat
  | 3 => quadOf d.toNat
  | _ => [d.toNat]

/-- The v-registers that a word names, those of pairs and quads included; a compare-and-swap of width 2 names its
pair through its prefix. -/
def vRegs : Instr → List Nat
  | .sget _ _ a _ => [a.toNat]
  | .sbc _ d _ => [d.toNat]
  | .vadd _ _ d a b | .vsub _ _ d a b | .vmul _ _ d a b | .vfma _ _ d a b | .vmin _ _ d a b | .vmax _ _ d a b
  | .vmulh _ _ d a b | .vamin _ _ d a b | .vamax _ _ d a b | .vdp4 _ _ d a b | .vshl _ _ d a b | .vshr _ _ d a b
  | .vclamp _ _ d a b => [d.toNat, a.toNat, b.toNat]
  | .vcmp _ _ _ _ a b => [a.toNat, b.toNat]
  | .vabs _ _ d a | .vneg _ _ d a | .vrint _ _ d a => [d.toNat, a.toNat]
  | .vand _ d a b | .vor _ d a b | .vxor _ d a b | .vandn _ d a b | .vsel _ d a b | .vperm _ d a b | .shfl _ d a b =>
    [d.toNat, a.toNat, b.toNat]
  | .vmov _ d a | .vcvt _ d a _ _ _ | .vclz _ d a _ | .vpopc _ d a _ | .vbrev _ d a _ => [d.toNat, a.toNat]
  | .vmovi _ d _ | .vlane _ d _ => [d.toNat]
  | .vpack _ d a b => pairOf d.toNat ++ [a.toNat, b.toNat]
  | .unpackNibbles _ d a => pairOf d.toNat ++ pairOf a.toNat
  | .unpackHighBits _ d a => quadOf d.toNat ++ [a.toNat]
  | .unpackWiden _ d a => pairOf d.toNat ++ [a.toNat]
  | .rcp _ d a _ | .rsqrt _ d a _ | .sqrt _ d a _ | .exp2 _ d a _ | .log2 _ d a _ | .sin _ d a _ | .cos _ d a _
  | .tanh _ d a _ | .erf _ d a _ | .exd _ d a _ => [d.toNat, a.toNat]
  | .shfli _ d a _ | .bcast _ d a _ | .xswap _ d a _ | .vmatch _ d a _ | .vcompact _ d a => [d.toNat, a.toNat]
  | .voteSame _ _ a => [a.toNat]
  | .red _ d a _ _ _ | .scan _ d a _ _ _ | .redseg _ d a _ _ => [d.toNat, a.toNat]
  | .ldl _ w d x _ _ | .ldc _ w d x _ _ | .stl _ w d x _ _ | .stc _ w d x _ _ => dataRegs w d ++ [x.toNat]
  | .ldk _ w d x _ | .ldg _ w d x _ | .stk _ w d x _ | .stg _ w d x _ => dataRegs w d ++ [x.toNat]
  | .ldbD _ d x _ => [d.toNat, x.toNat]
  | .ldbQ _ d x _ => pairOf d.toNat ++ [x.toNat]
  | .atomg _ d x _ | .redg _ d x _ => [d.toNat, x.toNat]
  | .atoml _ d x _ _ | .atomc _ d x _ _ | .redc _ d x _ _ => [d.toNat, x.toNat]
  | .ldrag _ d x _ _ => pairOf d.toNat ++ [x.toNat]
  | .prf _ _ _ x _ => [x.toNat]
  | _ => []

/-- A register of one of the four files. -/
inductive RegName where
  | v (n : Nat)
  | s (n : Nat)
  | p (n : Nat)
  | nf (n : Nat)
  deriving DecidableEq, Repr

/-- The registers that a word writes (R44). -/
def dests : Instr → List RegName
  | .call _ _ => [.s 63]
  | .loop _ d _ | .sreg _ d _ _ => [.s d.toNat]
  | .setnfCode _ f _ | .setnfReg _ f _ => [.nf f.toNat]
  | .post _ e _ _ => [.s e.toNat]
  | .sadd _ d _ _ | .ssub _ d _ _ | .smul _ d _ _ | .smulh _ d _ _ | .sdivu _ d _ _ | .sremu _ d _ _ | .sand _ d _ _
  | .sor _ d _ _ | .sxor _ d _ _ | .sshl _ d _ _ | .sshr _ d _ _ | .ssar _ d _ _ | .saddi _ d _ _ | .ssel _ d _ _
  | .smin _ d _ _ | .smax _ d _ _ | .slea _ d _ _ | .sget _ d _ _ | .smask _ d _ _ | .bufld _ d _ _ | .sld _ d _ _ =>
    [.s d.toNat]
  | .smovi _ d _ | .smov _ d _ | .sclz _ d _ | .spopc _ d _ | .spredToS _ d _ | .voteMask _ d _ | .voteCnt _ d _ =>
    [.s d.toNat]
  | .scmp _ d _ _ _ | .scmpi _ d _ _ _ | .vcmp _ _ d _ _ _ => [.p d.toNat]
  | .spredToP _ d _ | .voteOr _ d _ | .voteAnd _ d _ | .voteSame _ d _ => [.p d.toNat]
  | .sbc _ d _ => [.v d.toNat]
  | .vadd _ _ d _ _ | .vsub _ _ d _ _ | .vmul _ _ d _ _ | .vfma _ _ d _ _ | .vmin _ _ d _ _ | .vmax _ _ d _ _
  | .vmulh _ _ d _ _ | .vamin _ _ d _ _ | .vamax _ _ d _ _ | .vdp4 _ _ d _ _ | .vshl _ _ d _ _ | .vshr _ _ d _ _
  | .vclamp _ _ d _ _ => [.v d.toNat]
  | .vabs _ _ d _ | .vneg _ _ d _ | .vrint _ _ d _ => [.v d.toNat]
  | .vand _ d _ _ | .vor _ d _ _ | .vxor _ d _ _ | .vandn _ d _ _ | .vsel _ d _ _ | .vperm _ d _ _ | .shfl _ d _ _ =>
    [.v d.toNat]
  | .vmov _ d _ | .vcvt _ d _ _ _ _ | .vclz _ d _ _ | .vpopc _ d _ _ | .vbrev _ d _ _ | .vmovi _ d _ | .vlane _ d _ =>
    [.v d.toNat]
  | .vpack _ d _ _ => (pairOf d.toNat).map .v
  | .unpackNibbles _ d _ => (pairOf d.toNat).map .v
  | .unpackHighBits _ d _ => (quadOf d.toNat).map .v
  | .unpackWiden _ d _ => (pairOf d.toNat).map .v
  | .rcp _ d _ _ | .rsqrt _ d _ _ | .sqrt _ d _ _ | .exp2 _ d _ _ | .log2 _ d _ _ | .sin _ d _ _ | .cos _ d _ _
  | .tanh _ d _ _ | .erf _ d _ _ | .exd _ d _ _ => [.v d.toNat]
  | .shfli _ d _ _ | .bcast _ d _ _ | .xswap _ d _ _ | .vmatch _ d _ _ | .vcompact _ d _ => [.v d.toNat]
  | .red _ d _ _ _ _ | .scan _ d _ _ _ _ | .redseg _ d _ _ _ => [.v d.toNat]
  | .ldl _ w d _ _ _ | .ldc _ w d _ _ _ => (dataRegs w d).map .v
  | .ldk _ w d _ _ | .ldg _ w d _ _ => (dataRegs w d).map .v
  | .ldbD _ d _ _ | .atomg _ d _ _ => [.v d.toNat]
  | .ldbQ _ d _ _ => (pairOf d.toNat).map .v
  | .atoml _ d _ _ _ | .atomc _ d _ _ _ => [.v d.toNat]
  | .ldrag _ d _ _ _ => (pairOf d.toNat).map .v
  | .bomark _ d _ _ _ | .bowait _ d _ _ _ | .bopeek _ d _ _ _ => [.s d.toNat]
  | .batonTry _ e | .batonOvf _ e => [.s e.toNat]
  | .rwctlCnt _ d _ => [.s d.toNat]
  | _ => []

/-- A word reads the v-register that it writes: sums and selections over the old value, conversions and packings into a
part of it, and the operand of an atomic. -/
def keepsDest : Instr → Bool
  | .vfma .. | .vdp4 .. | .vcvt .. | .exd .. | .vperm .. | .atomg .. | .atoml .. | .atomc .. => true
  | _ => false

/-- The v-registers that a word reads. -/
def vSources (i : Instr) : List Nat :=
  let written := (dests i).filterMap fun r => match r with
    | .v n => some n
    | _ => none
  (if keepsDest i then written else []) ++ written.foldl List.erase (vRegs i)

/-- The register that a word reads through field [11:6], as the latch tags it (R55). -/
def latchOf (w : W32) : Latch :=
  let op := opOf w
  let a := (w.extractLsb' 6 6).toNat
  let mode := (w.extractLsb' 0 6).toNat
  if (op = 0x32 ∧ mode = 0) ∨ (op = 0xB3 ∧ mode ≠ 3) then .preg a
  else if op = 0x2F then .vreg a
  else if op ≤ 0x35 ∨ (0xE8 ≤ op ∧ op ≤ 0xED) ∨ 0xF0 ≤ op then .sreg a
  else .vreg a

/-! ## Pipes (R43, R51) -/

/-- The pipes; the two vector pipes together are one class of two. -/
inductive Pipe where
  | none | ctl | mem | vec | sf | tile
  deriving DecidableEq, Repr

/-- The pipe of an opcode (R51). -/
def pipeOf (op : Nat) : Pipe :=
  if op ≤ 1 then .none
  else if op ≤ 0x32 then .ctl
  else if op ≤ 0x37 then .mem
  else if op ≤ 0x8F then .vec
  else if op ≤ 0xBF then (if op = 0xB7 then .mem else .sf)
  else if op ≤ 0xEF then .mem
  else .tile

/-- How many words of a group a pipe takes. -/
def Pipe.room : Pipe → Nat
  | .none => 3
  | .vec => 2
  | _ => 1

/-! ## Prefixes (R49, R50) -/

/-- The atomic and reduction opcodes, which need their prefix. -/
def needsAttr (op : Nat) : Bool := decide (0xE2 ≤ op) && decide (op ≤ 0xE6)

/-- The most prefixes that a word of an opcode admits (R49, R100, R105, R169, R173, R182, R193, R384). -/
def admits (op : Nat) : Nat :=
  if [0x24, 0x25, 0x28, 0x85].contains op then 2
  else if [0x09, 0x0A, 0x0C, 0x0D, 0x10, 0x11, 0x17, 0x33, 0x34, 0x35, 0xB1].contains op then 1
  else if 0xC0 ≤ op ∧ op ≤ 0xEF ∧ op ≠ 0xE7 ∧ op ≠ 0xED then 1
  else 0

/-- The attribute payload of a prefix keeps R50, R292 to R294 and R46 for an opcode and data register. -/
def attrOk (op d : Nat) (x : BitVec 18) : Bool :=
  let n := x.toNat
  let hold := n.testBit 11
  let order := bits n 10 9
  let width := bits n 5 4
  let code := bits n 3 0
  let reduction := op == 0xE5 || op == 0xE6
  bits n 17 12 == 0 && decide (bits n 8 6 ≤ 4) && decide (width ≤ 2) && decide (code ≤ 12) &&
    (!hold || (!reduction && order % 2 == 1)) && (!reduction || (order % 2 == 0 && code != 8 && code != 9)) &&
    (width != 2 || code == 9) && (code != 9 || width != 1) && (code != 9 || width != 2 || d % 2 == 0)

/-! ## The check of one word (R52, R53) -/

/-- The words of a packet as the check sees them. -/
structure Slot where
  word : W32
  instr : Option Instr
  /-- Payloads of the prefixes that attach to the word, and the index of the first of them. -/
  pfx : List (BitVec 18)
  first : Nat
  /-- The number of its chain group. -/
  group : Nat
  deriving DecidableEq, Repr

def isImx (w : W32) : Bool := opOf w == 1

/-- The instruction of a word, if it is one. -/
def instrOf (w : W32) : Option Instr := (decodeWord w).toOption

/-- The slots of a packet: prefixes gathered, groups numbered (R43, R49). -/
def slotsFrom : List W32 → Nat → List (BitVec 18) → Nat → Nat → List Slot
  | [], _, _, _, _ => []
  | w :: ws, i, pfx, first, group =>
    let first := if pfx.isEmpty then i else first
    let slot : Slot := { word := w, instr := instrOf w, pfx := pfx, first := first, group := group }
    if isImx w then slot :: slotsFrom ws (i + 1) (pfx ++ [w.extractLsb' 0 18]) first group
    else slot :: slotsFrom ws (i + 1) [] 0 (if chained w then group else group + 1)

/-- The prefixes of a packet that break R49 are charged to the first of their run: a run that reaches word 2, or more
prefixes than the word admits. -/
def prefixFault (ss : List Slot) (i : Nat) : Bool :=
  (ss[i]?.any fun x => isImx x.word && x.pfx.isEmpty) &&
    match (ss.drop i).find? fun x => !isImx x.word with
    | none => true
    | some x => decide (admits (opOf x.word) < x.pfx.length)

/-- ILLEGAL faults of a word by itself, with its prefixes (R50, R52, R105, R193). -/
def Slot.illegal (x : Slot) : Bool :=
  let op := opOf x.word
  match x.instr with
  | none => true
  | some i =>
    (needsAttr op && x.pfx.isEmpty) ||
    (needsAttr op && !x.pfx.isEmpty && !attrOk op (x.word.extractLsb' 12 6).toNat (x.pfx.getD 0 0#18)) ||
    (match i with
     | .sreg _ _ a n => a == 0#6 && !sregExists (immBits x.pfx n.toNat)
     | .sregw _ _ a n => a == 0#6 && !sregWritable (immBits x.pfx n.toNat)
     | .shfli _ _ _ n => immBits x.pfx n.toNat / 2 ^ 12 != 0
     | _ => false)

/-- The v-registers of a word with its prefix. -/
def Slot.vRegs (x : Slot) : List Nat :=
  let d := (x.word.extractLsb' 12 6).toNat
  (match x.instr with
   | none => []
   | some i => Sys2Proof.Machine.vRegs i) ++
    (if needsAttr (opOf x.word) ∧ bits (x.pfx.getD 0 0#18).toNat 5 4 = 2 then [d + 1] else [])

/-- Registers that a word writes. -/
def Slot.dests (x : Slot) : List RegName :=
  match x.instr with
  | none => []
  | some i => Sys2Proof.Machine.dests i

/-- The decode fault of a word, by the ranking of R53, for a launch that declares a number of v-registers. Of two words
of a group whose destinations overlap the later one is charged with the ILLEGAL trap, and ranks by its own number: R44
names no word, and this is the model's choice (log 54). -/
def wordFault (regs : Nat) (ss : List Slot) (i : Nat) : Option Cause :=
  match ss[i]? with
  | none => none
  | some x =>
    let before := ss.take i
    let group := before.filter fun y => y.group == x.group && !isImx y.word
    let op := opOf x.word
    if isImx x.word then (if x.instr.isNone ∨ prefixFault ss i then some .illegal else none)
    else if x.illegal ∨ (isTransferOp op ∧ before.any fun y => isTransferOp (opOf y.word)) ∨ (i = 2 ∧ chained x.word) ∨
        (x.dests.any fun d => group.any fun y => y.dests.contains d) then some .illegal
    else if x.vRegs.any fun r => decide (regs ≤ r) then some .regRange
    else if (pipeOf op).room ≤ (group.filter fun y => pipeOf (opOf y.word) == pipeOf op).length then some .pipeClash
    else none

/-- The check of a packet (R53): the lowest-numbered failing word and its cause. -/
def checkPacket (regs : Nat) (pkt : List W32) : Option (Nat × Cause) :=
  let ss := slotsFrom pkt 0 [] 0 0
  (List.range 3).findSome? fun i => (wordFault regs ss i).map fun c => (i, c)

end Sys2Proof.Machine
end

