-- ==== Sys2Proof/Machine/Issue.lean ====
section
/-! DEFINITION. Issue: which slot may issue, the fetch and check of its packet, and the issue of one chain group
(spec/02 R41 to R44, R53, R55, R428; spec/05 R109 to R113; spec/11 R232; spec/14 R310; spec/17 R359 to R362;
spec/19 R383, R401). -/

namespace Sys2Proof.Machine

/-! ## Fetch (R41, R53, R402) -/

/-- A trap of the fetch or the check of a packet. -/
def decodeTrap (c : Cause) (ta wa : Word) (synd : BitVec 16) : TrapInfo :=
  { cause := c, taddr := ta, waddr := wa, synd := synd }

/-- Four bytes as a word, the first least significant (R4). -/
def wordOf (bs : List Byte) (i : Nat) : W32 := BitVec.ofNat 32 (leNat ((bs.drop (4 * i)).take 4))

/-- Bytes of a page read at their home for a fetch, as an L1-bypassing read (R402). -/
def State.fetchBytes (s : State) (va n : Nat) : Except TrapInfo (State × List Byte) :=
  let at_ := BitVec.ofNat 64 va
  match s.translate s.here s.myCtx va .fetch with
  | .bad c y => .error (decodeTrap c at_ at_ y)
  | .ok s e =>
    let p := e.phys va
    let (s, bs) := s.homeRead p n
    match poisonIn s.poison p n with
    | some w => .error (decodeTrap .poison (BitVec.ofNat 64 (va + w - p)) at_ 0#16)
    | none => .ok (s, bs)

/-- The 12 bytes of the issuing slot's packet: of two pages, each is translated; a fault names the packet (R355). -/
def State.packetBytes (s : State) (va : Nat) : Except TrapInfo (State × List Byte) :=
  let n := min 12 (65536 - va % 65536)
  match s.fetchBytes va n with
  | .error i => .error i
  | .ok (s, bs) =>
    if n = 12 then .ok (s, bs)
    else
      match s.fetchBytes ((va + n) % 2 ^ 64) (12 - n) with
      | .error i =>
        let at_ := BitVec.ofNat 64 va
        .error { i with taddr := if i.cause = .poison then i.taddr else at_, waddr := at_ }
      | .ok (s, more) => .ok (s, bs ++ more)

/-- The words of the issuing slot's packet, from the core's instruction cache or from their home. -/
def State.packetWords (s : State) : Except TrapInfo (State × List W32) :=
  let va := (wordAddr (s.codeBase s.cur.warp) s.pc 0).toNat
  match (s.core s.here).icache.find? fun p => p.ctx == s.myCtx && p.va == va with
  | some p => .ok (s, p.words)
  | none =>
    match s.packetBytes va with
    | .error i => .error i
    | .ok (s, bs) =>
      let ws := [wordOf bs 0, wordOf bs 1, wordOf bs 2]
      let c := s.core s.here
      .ok (s.setCore s.here { c with icache := ⟨s.myCtx, va, ws⟩ :: c.icache }, ws)

/-- The issuing slot's packet fetched and checked in full before any of its words issues (R53): a packet that fails
traps with its resume point at word 0. -/
def State.fetchPacket (s : State) : State :=
  let m := s.mic
  match s.packetWords with
  | .error i => (s.setMic { m with group := m.word }).takeTrap s.cur i
  | .ok (s, ws) =>
    match checkPacket (s.block s.myBlock).regs ws with
    | none => s.setMic { m with pkt := ws }
    | some (i, c) =>
      let a := wordAddr (s.codeBase s.cur.warp) s.pc i
      (s.setMic { m with group := 0 }).takeTrap s.cur (decodeTrap c a a 0#16)

/-! ## The next group of a slot -/

/-- The words that a slot issues next. -/
def Micro.nextWords (m : Micro) : List W32 := groupOf (m.pkt.drop m.word)

/-! ## A group that begins (R44, R49) -/

/-- The latch as a group leaves it that begins in a slot (R55). -/
def Warp.latchFor (w : Warp) (slotB : Bool) (ws : List W32) : Latch :=
  match (ws.filter fun x => x.getLsbD 30 && !isImx x).getLast? with
  | some x => latchOf x
  | none => if w.lastB = slotB then w.latch else .invalid

/-- The group begins: its words read the registers as they are now (R44). -/
def State.beginGroup (s : State) : State :=
  let w := s.cw
  let m := s.mic
  let m := { m with src := w.regs, group := m.word, mid := true, pfx := [], did := [] }
  s.setCw ({ w with latch := w.latchFor s.cur.slotB m.nextWords }.setMicro s.cur.slotB m)

/-- The state in which a slot's group runs, begun where it has not. -/
def State.groupAt (s : State) (t : Turn) : State :=
  let s : State := { s with cur := t }
  if s.mic.mid then s else s.beginGroup

/-- The payloads of the prefixes that stand directly before a word of a packet (R49). -/
def prefixesAt (pkt : List W32) (i : Nat) : List (BitVec 18) :=
  ((List.range i).filter fun j => (List.range (i - j)).all fun n => isImx (pkt.getD (j + n) 0#32)).map fun j =>
    (pkt.getD j 0#32).extractLsb' 0 18

/-- The group as the word at a place of its packet sees it, with its prefixes. -/
def State.wordAt (s : State) (i : Nat) : State := s.setMic { s.mic with pfx := prefixesAt s.mic.pkt i }

/-- The accesses of a memory word that the range scoreboard may hold: space, whether it only loads, address, bytes. -/
def State.accesses (s : State) : Instr → List (Space × Bool × Nat × Nat)
  | .ldl h w _ x z k => (s.addrs h x k z.toNat).map fun a => (.l, true, a.2, widthBytes w)
  | .ldc h w _ x z k => (s.addrs h x k z.toNat).map fun a => (.c, true, a.2, widthBytes w)
  | .ldk h w _ x k => (s.addrs h x k 0).map fun a => (.k, true, a.2, widthBytes w)
  | .ldg h w _ x k => (s.addrs h x k 0).map fun a => (.g, true, a.2, widthBytes w)
  | .stl h w _ x z k => (s.addrs h x k z.toNat).map fun a => (.l, false, a.2, widthBytes w)
  | .stc h w _ x z k => (s.addrs h x k z.toNat).map fun a => (.c, false, a.2, widthBytes w)
  | .stk h w _ x k => (s.addrs h x k 0).map fun a => (.k, false, a.2, widthBytes w)
  | .stg h w _ x k => (s.addrs h x k 0).map fun a => (.g, false, a.2, widthBytes w)
  | .ldbD h _ x k => (s.addrs h x k 0).map fun a => (.g, true, a.2, 8)
  | .ldbQ h _ x k => (s.addrs h x k 0).map fun a => (.g, true, a.2, 16)
  | .atomg h _ x k => (s.atomAddrs h x k 0).map fun a => (.g, false, a.2, s.attr.bytes)
  | .atoml h _ x z k => (s.atomAddrs h x k z.toNat).map fun a => (.l, false, a.2, s.attr.bytes)
  | .atomc h _ x z k => (s.atomAddrs h x k z.toNat).map fun a => (.c, false, a.2, s.attr.bytes)
  | .redg h _ x k => (s.atomAddrs h x k 0).map fun a => (.g, false, a.2, s.attr.bytes)
  | .redc h _ x z k => (s.atomAddrs h x k z.toNat).map fun a => (.c, false, a.2, s.attr.bytes)
  | .boset h _ x z k | .bomark h _ x z k | .boadd h _ x z k | .bowait h _ x z k | .bopeek h _ x z k =>
    if s.taken h then [(objSpace z, false, (s.rdS (48 + k.toNat) + s.rdS x.toNat + wordOfInt s.off).toNat, 8)] else []
  | .sld h _ x k => if s.taken h then [(.g, true, s.scalarAddr x k, 8)] else []
  | .sst h _ x k => if s.taken h then [(.g, false, s.scalarAddr x k, 8)] else []
  | .bufld h _ a i =>
    if s.taken h then
      [(.g, true, (s.myLaunch.record.pool + 8 * (s.rdS a.toNat + wordOfInt (s.imm i)).toNat) % 2 ^ 64, 8)]
    else []
  | .ldrag h _ x z k =>
    let ls := s.activeLanes h
    let entries := ls.map fun l =>
      (l, (s.rdS (48 + k.toNat) + wordOfInt s.off + BitVec.ofNat 64 (16 * elem (s.rdV x.toNat l) 32 0)).toNat)
    let tables : List (Space × Bool × Nat × Nat) := entries.map fun e => (.g, true, e.2, 16)
    match s.loadLanes .g 16 16 true entries with
    | .error _ => tables
    | .ok (_, es) =>
      tables ++ ls.map fun l =>
        (.g, true, (rowBase (bytesAt es l) + 2 ^ z.toNat * elem (s.rdV x.toNat l) 32 1) % 2 ^ 64, 2 ^ z.toNat)
  | _ => []

/-! ## Budgets (R110, R359, R361, R362) -/

/-- The index of a pipe in a context's issue budgets (R346), V0 standing for the first vector word of a group. -/
def Pipe.index : Pipe → Nat
  | .vec => 0 | .sf => 2 | .mem => 3 | .tile => 4 | .ctl => 5 | .none => 6

/-- The pipes of a group's words, by index, the second vector word on V1, with the places of the words. -/
def pipeIndexes : Nat → List W32 → Bool → List (Nat × Nat)
  | _, [], _ => []
  | i, w :: ws, second =>
    match pipeOf (opOf w) with
    | .none => pipeIndexes (i + 1) ws second
    | .vec => (if second then 1 else 0, i) :: pipeIndexes (i + 1) ws true
    | p => (p.index, i) :: pipeIndexes (i + 1) ws second

/-- The pipes of the words that a slot issues next. -/
def Micro.pipes (m : Micro) : List (Nat × Nat) := pipeIndexes m.word m.nextWords false

/-- The passes beyond the least that accesses of some bytes each to the core scratchpad take: the words of 8 bytes that
fall in one bank, the fullest counting (R260). -/
def extraPasses (as : List (Nat × Nat)) : Nat :=
  let words := (as.flatMap fun a => (List.range ((a.2 + 7) / 8)).map (a.1 / 8 + ·)).eraseDups
  let full := (List.range 64).foldl (fun n b => max n (words.filter fun w => w % 64 == b).length) 0
  full - if as.any fun a => a.2 == 32 then 2 else 1

/-- Cycles for which the word at a place of the group that has begun holds its pipe (R58, R260). -/
def State.holdCycles (s : State) (i : Nat) : Nat :=
  let w := s.mic.pkt.getD i 0#32
  let op := opOf w
  match pipeOf op with
  | .sf => 4
  | .mem =>
    match instrOf w with
    | some (.ldbQ ..) => 2
    | some x =>
      (if 0xC0 ≤ op ∧ op < 0xE0 then (if op % 4 = 2 then 2 else if op % 4 = 3 then 4 else 1) else 1) +
        extraPasses (((s.wordAt i).accesses x).filterMap fun a => if a.1 = .l then some (a.2.2.1, a.2.2.2) else none)
    | none => 1
  | .vec =>
    let f := nfOf (s.rdNf (op % 4))
    if op < 0x80 ∧ !f.isInt ∧ f.width = 64 then 4 else 1
  | _ => 1

/-- The issue budget of a context on a pipe (R110). -/
def State.issueBudget (s : State) (ctx pipe : Nat) : Nat := (((s.context ctx).map (·.ibud)).getD []).getD pipe 32

/-- Cycles of the period that the RE has used on a pipe, for a context and for all together. -/
def State.reUse (s : State) (core ctx pipe : Nat) : Nat := Tab.get 0 (s.core core).reUsed (8 * ctx + pipe)
def State.reUseAll (s : State) (core pipe : Nat) : Nat :=
  (((s.core core).reUsed.filter fun e => e.1 % 8 == pipe).map (·.2)).sum

/-- The largest budget on a pipe among the contexts of a core's promoted warps (R359). -/
def State.largestBudget (s : State) (core pipe : Nat) : Nat :=
  (s.core core).reWarps.foldl (fun m k => max m (s.issueBudget (s.launch (s.block (s.warp k).block).launch).ctx pipe)) 0

/-- A hold of n cycles keeps within a budget of which some is used: it fits in what is left of the period, or, being
longer than a whole budget, it begins with the budget and reaches into the next period (R110; log 24). -/
def holdFits (used n budget : Nat) : Bool := decide (used + n ≤ budget) || (decide (budget < n) && used == 0 && budget != 0)

/-- The RE has budget left on every pipe of the group that begins (R110, R359). -/
def State.budgetLeft (s : State) (ctx core : Nat) : Bool :=
  s.mic.pipes.all fun p =>
    holdFits (s.reUse core ctx p.1) (s.holdCycles p.2) (s.issueBudget ctx p.1) &&
      holdFits (s.reUseAll core p.1) (s.holdCycles p.2) (s.largestBudget core p.1)

/-- A word of a context holds its pipe on the RE for some cycles: those within the period's budget count now, the
others in the next period (R110). -/
def State.chargeRe (s : State) (core ctx pipe n : Nat) : State :=
  let x := s.core core
  let key := 8 * ctx + pipe
  let m := min n (s.issueBudget ctx pipe)
  s.setCore core { x with
    reUsed := Tab.put x.reUsed key (Tab.get 0 x.reUsed key + m)
    reCarry := if n = m then x.reCarry else Tab.put x.reCarry key (Tab.get 0 x.reCarry key + (n - m)) }

/-- A word whose stores stay in the L1 until they are written back (R264). -/
def storesPlain : Instr → Bool
  | .stg .. | .sst .. => true
  | _ => false

/-- An access of a word makes no request at its router: it stays in its block's own pool, or in the core's L1, where a
load hits or a store without a release behind it allocates (R264, R361). -/
def State.staysHere (s : State) (x : Instr) (a : Space × Bool × Nat × Nat) : Bool :=
  match a with
  | (.l, _, _, _) => true
  | (.c, _, va, _) => s.windowBlock s.myBlock (va / 2 ^ 21) == some s.myBlock
  | (.k, _, _, _) => false
  | (.g, loads, va, n) =>
    match s.translate s.here s.myCtx va (if loads then .read else .write) with
    | .bad _ _ => true
    | .ok s e =>
      (loads && (s.core s.here).hits (e.phys va) n) || (storesPlain x && s.cw.rel.isEmpty && !(s.core s.here).noWays)

/-- The word at a place of the group that has begun makes requests at its cluster's router, which the injection and
memory budgets hold: a memory word with an access that leaves its core, or a prefetch. Job cards and `xswap` are never
held; those of a TILE word are its unit's (R361). -/
def State.travels (s : State) (i : Nat) : Bool :=
  let w := s.mic.pkt.getD i 0#32
  pipeOf (opOf w) == .mem &&
    match instrOf w with
    | some (.prf ..) | some (.ldbD ..) | some (.ldbQ ..) => true
    | some x => ((s.wordAt i).accesses x).any fun a => !(s.wordAt i).staysHere x a
    | none => false

/-- The group that begins makes requests. -/
def State.requests (s : State) : Bool := s.mic.pipes.any fun p => s.travels p.2

/-- The budgets of the cluster and of the partition admit the group's requests. -/
def State.requestsPass (s : State) (core part : Nat) : Bool := s.trafficOpen core part || !s.requests

/-- What the group that is dispatched costs its budgets (R110, R361, R362). -/
def State.account (s : State) (re : Bool) : State :=
  let l := s.myLaunch
  let travels := s.requests
  let s := if re then s.mic.pipes.foldl (fun (t : State) p => t.chargeRe s.here l.ctx p.1 (s.holdCycles p.2)) s else s
  if travels then s.chargeTraffic s.here l.part else s

/-! ## Whether a slot may issue (R111) -/

/-- A fetched group may go: an rcv waits until the other slot stands at a packet boundary, and the budgets have
room. -/
def State.mayGo (s : State) (t : Turn) : Bool :=
  let w := s.warp t.warp
  let ws := (w.micro t.slotB).nextWords
  let o := w.micro (!t.slotB)
  let l := s.launch (s.block w.block).launch
  let core := coreOfWarp t.warp
  (!(ws.any fun w => opOf w == 6) || !(w.ctl.path (!t.slotB)).live || (o.atBoundary && decide (o.wait = .none))) &&
    (!w.onRe || (s.groupAt t).budgetLeft l.ctx core) && (s.groupAt t).requestsPass core l.part

/-- The engine of a warp issues from a slot: a warp that is granted a context and one that demotes only finish the packets
that they are inside, and a promoting one issues nothing (R111, R121). -/
def Warp.issues (w : Warp) (m : Micro) : Bool :=
  match w.engine with
  | .ie => !w.granted || !m.atBoundary
  | .promoting => false
  | .re => true
  | .demoting => !m.atBoundary

/-- An npr span of the warp has reached its limit, at which it stops (R104). -/
def Warp.overrun (w : Warp) : Bool := w.npr && decide (Config.nprLimit ≤ w.nprCount)

/-- A slot may issue (R104, R111, R113, R121, R136, R214, R383, R385, R390, R428). A warp blocked in its other slot issues
nothing, but at a `bar` (R317), nor does one whose other slot waits for another device (R390; log 21). -/
def State.canIssue (s : State) (t : Turn) : Bool :=
  let w := s.warp t.warp
  let m := w.micro t.slotB
  let core := coreOfWarp t.warp
  decide (w.stat = .running) && (w.ctl.path t.slotB).live && decide (m.wait = .none) && decide (m.word < 3) &&
    w.sleep == 0 && !w.yielding && w.issues m && !w.overrun && w.reply.isNone &&
    !((w.ctl.path (!t.slotB)).live && ((w.micro (!t.slotB)).wait.ofWarp || (w.micro (!t.slotB)).wait.isRemote)) && (s.block w.block).used &&
    (w.pend.all fun p => p.slotB == t.slotB) && ((!w.pass && !w.stepping) || t.slotB == w.lastB) &&
    !(m.atBoundary && s.stopping w.block && !s.spared t.warp && !w.stepping) && !(s.die (stackOf core)).clockStopped &&
    !s.engineDue w.block && (m.pkt.isEmpty || s.mayGo t)

/-! ## The order of issue (R111) -/

/-- The rank of a warp in the order of issue but for its age (R111): urgent warps first, then the others, the one that
issued longest ago first, and the lower warp slot among equals. That the urgent warps of several blocks go by their last
issue too is the model's choice (log 57). -/
def State.warpRank (s : State) (k : Nat) : Nat := ((if s.urgent k then 0 else 2 ^ 64) + (s.warp k).stamp) * 2 ^ 16 + k

/-- The rank of a warp in the order of issue (R111): aged warps, the longest waiting first, then the others. -/
def State.agedRank (s : State) (k : Nat) : Nat :=
  let w := s.warp k
  let resident := ((warpSlotsOf (coreOfWarp k)).filter s.liveWarp).length
  if 2 * resident + 32 ≤ w.waited then (2 ^ 64 - w.waited) * 2 ^ 16 + k else 2 ^ 81 + s.warpRank k

/-- The rank of a slot in the order of issue (R111): that of its warp, and of one warp the slot that did not issue
last. -/
def State.issueRank (s : State) (t : Turn) : Nat := 2 * s.agedRank t.warp + (if t.slotB = (s.warp t.warp).lastB then 1 else 0)

/-! ## Stall codes (R123) -/

/-- The IE code, as a special register, of a wait that blocks a slot, by the order of attribution. -/
def Wait.stallCode : Wait → Nat
  | .bar _ => 0x46
  | .bowait _ _ _ _ _ _ => 0x47
  | .baton | .chain _ => 0x48
  | .take _ _ => 0x51
  | .xswap _ _ _ _ _ _ => 0x52
  | .none | .room _ | .remote _ => 0x5F

/-- The code of a slot that waits to issue (R123): REWRITE_HOLD for a flush or a full window (R232), RANGE_STALL for a
held access (R310), for a tile word without room PIPE_BUSY, or BUDGET while the copy engine pauses for one (R215,
R309), and MEMQ_FULL for a release or an acquire that waits for earlier accesses (R301). -/
def Wait.holdCode (paused : Bool) : Wait → Option Nat
  | .room .window => some 0x4E
  | .room .range => some 0x4D
  | .room .queue => some (if paused then 0x45 else 0x43)
  | .room .fence => some 0x4C
  | _ => Option.none

/-- The IE codes that a dispatch slot charged to a warp can count, by the first reason of R123 that applies: reasons that
the state fixes, or else those that timing alone decides (log 4). -/
def Warp.stallCodes (w : Warp) (paused : Bool) : List Nat :=
  let fetching := (w.ctl.a.live && w.ma.pkt.isEmpty) || (w.ctl.b.live && w.mb.pkt.isEmpty)
  let holds := (if w.ctl.a.live then (w.ma.wait.holdCode paused).toList else []) ++
    (if w.ctl.b.live then (w.mb.wait.holdCode paused).toList else [])
  let early (c : Nat) : Bool := c == 0x4D || c == 0x4E
  if w.engine = .promoting ∨ w.engine = .demoting then [0x50]
  else
    (if fetching then [0x4A] else []) ++
      if w.sleep ≠ 0 ∨ w.yielding then [0x4F]
      else if w.blocked then
        [min (if w.ctl.a.live then w.ma.wait.stallCode else 0x5F) (if w.ctl.b.live then w.mb.wait.stallCode else 0x5F)]
      else if holds.any early then (leastBy id (holds.filter early)).toList
      else if !holds.isEmpty then holds
      else [0x49, 0x4B, 0x42, 0x4C, 0x44, 0x45, 0x43]

/-- A copy of a core's engine is paused for its context's budget (R309). -/
def State.enginePaused (s : State) (c : Nat) : Bool :=
  let x := s.core c
  (x.copy0.toList ++ x.copy1.toList).any fun y => s.copyPaused y.tile

/-- A warp of the IE has a group that only a budget holds (R123). -/
def State.budgetHeld (s : State) (k : Nat) : Bool :=
  let w := s.warp k
  [false, true].any fun b =>
    (w.ctl.path b).live && decide ((w.micro b).wait = .none) && !(w.micro b).pkt.isEmpty && !s.mayGo ⟨k, b⟩

/-- The codes that an IE slot without a dispatch can count on a core in a cycle that has dispatched some warps (R123):
NO_WARP while no warp is resident on the IE; else that of the ready warp which R111 ranks highest, or, in a cycle in
which none is ready, that of the warp it ranks highest among the others. Whether a warp that nothing in the state holds
is ready is free (log 4), as is the code where every warp has been dispatched, of which R123 does not speak. -/
def State.ieCodes (s : State) (c : Nat) (took : List Nat) : List Nat :=
  let ks := (warpSlotsOf c).filter fun k => s.liveWarp k && decide ((s.warp k).engine ≠ .re)
  let rest := ks.filter fun k => !took.contains k
  let ready := if (leastBy s.agedRank (rest.filter fun k => (s.warp k).ready)).any s.budgetHeld then [0x45] else [0x44, 0x45, 0x43]
  let codes (k : Nat) : List Nat := (s.warp k).stallCodes (s.enginePaused c)
  if ks.isEmpty then [0x41]
  else
    match leastBy s.warpRank rest with
    | none => ks.flatMap codes
    | some k => (if rest.any fun j => (s.warp j).ready then ready else []) ++ codes k

/-- The codes that an RE cycle without a dispatch can count on a core (R123): RE_EMPTY while no warp is promoted, RE_FILL
alone while the promoted warps fill the front end, RE_BUDGET only where a budget holds one. Which words are in flight is
timing (log 4), and so is whether a load is replayed, which the model does not show but by the code LOAD_REPLAY: it may
count while a promoted warp runs that holds no lock (R118, R334; log 24). -/
def State.reCodes (s : State) (c : Nat) : List Nat :=
  let ks := (s.core c).reWarps.filter fun k => decide ((s.warp k).engine ≠ .ie)
  let filling := ks.filter fun k => decide ((s.warp k).engine = .promoting)
  if ks.isEmpty then [0x61]
  else if filling.length = ks.length then [0x6A]
  else
    (if ks.any fun k => (s.warp k).holds.isEmpty then [0x65] else []) ++
      (if filling.isEmpty then [] else [0x6A]) ++ (if ks.any s.budgetHeld then [0x69] else []) ++
      [0x63, 0x64, 0x66, 0x67, 0x62, 0x68]

/-! ## Cycles (R109, R116, R123, R124) -/

/-- A free number of cycles passes on a core, after the present one is over: every cycle charges two slots of the IE and
one of the RE (R123, R124; log 4). -/
def State.passCycles (s : State) (c : Nat) : State :=
  let (i, s) := s.draw
  let x := s.core c
  let n := Config.elapsed i
  let t := shareOut (4 * i + 1) x.reLeft x.reIdle (shareOut (4 * i) x.ieLeft x.ieIdle x.counters)
  s.setCore c { x with
    cycle := x.cycle + BitVec.ofNat 64 n
    ieLeft := 0, reLeft := 0, ieIdle := [], reIdle := [], took := [], pipes := [], reWords := 0
    counters := shareOut (4 * i + 3) n (s.reCodes c) (shareOut (4 * i + 2) (2 * n) (s.ieCodes c []) t) }

/-- Cycles pass on a core, and its warps spend them (R104, R111). -/
def State.elapse (s : State) (c : Nat) : State :=
  let since := (s.core c).cycle
  let s := s.passCycles c
  s.spend c ((s.core c).cycle - since).toNat

/-- The present cycle of a core can dispatch another group (R109, R116): on the IE of another warp, on the RE within three
words, and on pipes that it has not used. -/
def State.cycleOpen (s : State) (c : Nat) (ws : List W32) (re : Bool) : Bool :=
  let x := s.core c
  (if re then decide (x.reLeft + x.reWords ≠ 0) && decide (x.reWords + ws.length ≤ 3)
   else x.ieLeft != 0 && !x.took.contains s.cur.warp) &&
    (pipeIndexes 0 ws false).all fun p => !x.pipes.contains p.1

/-- A group of the issuing warp is dispatched in the present cycle of a core: its slot counts ISSUED, or the cycle counts
RE_ISSUED once (R123), and the slots that are left will count what holds the others. -/
def State.takeSlot (s : State) (c : Nat) (ws : List W32) (re : Bool) : State :=
  let x := s.core c
  let code := if re then 0x60 else 0x40
  let counts := !re || x.reWords == 0
  let took := if re then x.took else s.cur.warp :: x.took
  let s := s.setCore c { x with
    ieLeft := if re then x.ieLeft else x.ieLeft - 1
    reLeft := if re then 0 else x.reLeft
    took := took
    pipes := x.pipes ++ (pipeIndexes 0 ws false).map (·.1)
    reWords := if re then x.reWords + ws.length else x.reWords
    counters := if counts then Tab.put x.counters code (Tab.get 0#64 x.counters code + 1#64) else x.counters }
  s.setCore c { s.core c with ieIdle := s.ieCodes c took, reIdle := s.reCodes c }

/-- A new cycle of a core begins. -/
def State.newCycle (s : State) (c : Nat) : State :=
  s.setCore c { s.core c with cycle := (s.core c).cycle + 1#64, ieLeft := 2, reLeft := 1 }

/-- A group of the issuing warp is dispatched: in the present cycle of its core where that can take it and the free choice
is so, or in a later one (R109; log 4). A warp whose span reaches its limit before that stops instead (R104). -/
def State.timeGroup (s : State) (ws : List W32) (re : Bool) : State :=
  let c := s.here
  let (i, s) := s.draw
  if s.cycleOpen c ws re && Config.choice i 0 then s.takeSlot c ws re
  else
    let s := s.elapse c
    if s.cw.overrun then s else ((s.newCycle c).takeSlot c ws re).spend c 1

/-! ## Held accesses (R310) -/

/-- Some access of the group's words that are still to execute is held by a range (R310). -/
def State.groupHeld (s : State) : Bool :=
  let m := s.mic
  !(s.core s.here).ranges.isEmpty &&
    (m.acting.filter fun i => !m.did.contains i).any fun i =>
      match instrOf (m.pkt.getD i 0#32) with
      | none => false
      | some x =>
        ((s.wordAt i).accesses x).any fun a =>
          s.rangeHeld s.myBlock a.1 a.2.1 a.2.2.1 a.2.2.2

/-! ## Releases and acquires (R276, R284, R301) -/

/-- A word performs the earlier accesses of its threads: a fence, an atomic or reduction with a release, `bomark`,
`bar` or a posting `post` (R91, R276, R284, R315, R318). -/
def State.completesEarlier (s : State) (pfx : List (BitVec 18)) : Instr → Bool
  | .fenceAcq .. | .fenceRel .. | .fenceAr .. | .fenceSc .. | .bomark .. | .bar .. => true
  | .atomg .. | .atoml .. | .atomc .. | .redg .. | .redc .. => (attrOf (pfx.headD 0#18)).releases
  | .post _ _ _ g => bits (s.rdS g.toNat).toNat 2 0 != 5
  | _ => false

/-- An accepted tile or copy instruction of the warp that accesses memory has not finished: its accesses are earlier
ones of the slot's lanes (R273). -/
def State.tileUnfinished (s : State) (k : Nat) : Bool :=
  let c := s.core (coreOfWarp k)
  (c.queue ++ c.underWay).any fun t => t.warp == k && t.block == (s.warp k).block && !t.sides.isEmpty

/-- The group waits for earlier tile and copy accesses of its warp (R284, R289, R301). -/
def State.fenceHeld (s : State) : Bool :=
  let m := s.mic
  s.tileUnfinished s.cur.warp &&
    m.acting.any fun i =>
      m.wakes.all (fun e => e.1 != i) &&
        match instrOf (m.pkt.getD i 0#32) with
        | none => false
        | some x => s.completesEarlier (prefixesAt m.pkt i) x

/-! ## Flush points (R232) -/

/-- The window of the issuing warp's core holds words of the warp. -/
def State.windowMine (s : State) : Bool := (s.core s.here).window.any fun h => h.tile.warp == s.cur.warp

/-- A word that is a flush point for its warp: any but a nop and the tile words that enter the window (R232). -/
def flushWord (w : W32) : Bool :=
  let op := opOf w
  op != 0 && !((0xF2 ≤ op && op ≤ 0xFA) || op == 0xFD)

/-- The group that begins is a flush point with something to flush: held words, or the holder's skip count (R251). -/
def State.flushDue (s : State) : Bool :=
  let ws := s.mic.nextWords
  let point := ws.any flushWord
  let c := s.core s.here
  let other := (c.window.any fun h => h.tile.warp == s.cur.warp && h.tile.slotB != s.cur.slotB) && ws.any fun w => opOf w != 0
  (s.windowMine && (point || other)) || (point && s.cw.skip != 0 && c.baton == some s.cur.warp)

/-- The flush before the group: the slot waits where the flush finds no room, or delivers a chained word, at whose
rendezvous the slot waits (R221). -/
def State.flushFirst (s : State) : State :=
  let s := if s.windowMine then s.flushWindow s.here else s
  if s.cw.stat ≠ .running ∨ s.mic.wait ≠ .none then s
  else if s.windowMine then s.waitFor (.room .window)
  else s.setCw { s.cw with skip := 0 }

/-! ## The end of a packet -/

/-- The warp's held words go before its packet's transfer ends the warp or traps it (R232, R251; log 29). -/
def State.heldAtEnd (s : State) (t : Turn) : Bool :=
  ((s.core (coreOfWarp t.warp)).window.any fun h => h.tile.warp == t.warp) &&
    (s.warp t.warp).pend.any fun p => p.slotB == t.slotB && (decide (p.kind ≠ .control) || p.ctl.exited == 0xFFFFFFFF#32)

/-- The last word of a slot's packet has issued. -/
def State.closePacket (s : State) (t : Turn) : State :=
  if s.heldAtEnd t then s.flushWindow (coreOfWarp t.warp) else s.endPacket t

/-- The slot stands behind the last word of its packet. -/
def State.packetDone (s : State) (t : Turn) : Bool :=
  let w := s.warp t.warp
  let m := w.micro t.slotB
  decide (w.stat = .running) && (w.ctl.path t.slotB).live && decide (3 ≤ m.word) && decide (m.wait = .none) &&
    (!s.heldAtEnd t || (s.windowMove (coreOfWarp t.warp) true).isSome)

/-! ## One chain group -/

/-- The cause of a code (R381). -/
def Cause.ofCode (n : Nat) : Cause :=
  ([.stopped, .illegal, .pipeClash, .regRange, .format, .align, .bounds, .page, .protection, .baton, .divStack,
    .nprOverrun, .software, .break, .svc, .watch].find? fun c => Cause.code c == n).getD .poison

/-- The trap that a warp's registers record. -/
def Warp.recorded (w : Warp) : TrapInfo :=
  { cause := Cause.ofCode (w.cause.toNat % 128), taddr := w.taddr, waddr := w.waddr, synd := w.synd
    rewritten := decide (128 ≤ w.cause.toNat), pass := w.pass }

/-- The slot behind a prefix, inside the unit it makes with its word (R43, R49). -/
def Micro.pastImx (m : Micro) : Micro := { m with word := m.word + 1, mid := true }

/-- A word that would read a poisoned word of a v-register consumes it (R403): it traps POISON at itself (log 59); any
other has its meaning. -/
def State.runWord (s : State) (i : Instr) : Out :=
  let bad := s.mic.src.bad
  if !bad.isEmpty ∧ (vSources i).any fun r => bad.any fun n => n / 32 == r then .next (s.trapHere .poison) else exec i s

/-- The words of the group from the slot's word on, each by its meaning but those whose waits are over, until the group
ends, a word waits or the warp has stopped. -/
def State.runWords : Nat → State → Out
  | 0, s => .next s
  | n + 1, s =>
    match s.mic.pkt[s.mic.word]? with
    | none => .next s
    | some w =>
      match instrOf w with
      | none => .next s
      | some i =>
        match (if s.mic.did.contains s.mic.word then .next s else s.runWord i) with
        | .next s =>
          if s.cw.stat ≠ .running ∨ s.mic.wait ≠ .none then .next s
          else if isImx w then State.runWords n (s.setMic s.mic.pastImx)
          else
            let s := s.setMic s.mic.passed
            if chained w then State.runWords n s else .next s
        | o => o

/-- A stepping warp has done its step (R401): it stops with BREAK at the next group. -/
def State.endStep (s : State) (t : Turn) (packetOver : Bool) : State :=
  let w := s.warp t.warp
  if w.stat = .running ∧ w.stepping ∧ (!w.stepPacket ∨ packetOver) then
    let b := w.nextSlot
    let m := w.micro b
    let s := s.setWarp t.warp (w.setMicro b { m with group := m.word })
    let i : TrapInfo := { cause := .break, taddr := BitVec.ofNat 64 (2 ^ 32), waddr := s.slotAddr ⟨t.warp, b⟩ }
    (s.setWarp t.warp ((s.warp t.warp).trapped b i)).demote t.warp
  else s

/-- After the words of a group: the issue order moves on, and a group that has ended takes the pass flag with it (R383),
may end its packet (R42) and may end a step (R401). -/
def State.afterGroup (s : State) (t : Turn) : State :=
  let done := !s.mic.mid && decide (s.mic.wait = .none)
  let s := s.setCw { s.cw with stamp := s.issued, waited := 0, lastB := t.slotB, pass := s.cw.pass && !done }
  let s : State := { s with issued := s.issued + 1 }
  let ended := done && decide (3 ≤ s.mic.word)
  let s := if ended then s.closePacket t else s
  let s := if done then s.endStep t ended else s
  s.setSole (coreOfWarp t.warp)

/-- Warps that a word of the group made trap beside its own, as both sides of an xswap do (R200): they stop too. -/
def State.othersTrap (s t : State) : State :=
  s.warps.foldl (fun (u : State) (e : Nat × Warp) =>
    let w := t.warp e.1
    if e.1 ≠ s.cur.warp ∧ e.2.stat = .running ∧ w.stat = .stopped then
      let v := u.warp e.1
      (u.setWarp e.1 (v.setMicro w.lastB { v.micro w.lastB with wait := .none })).takeTrap ⟨e.1, w.lastB⟩ w.recorded
    else u) s

/-- A word of the group has trapped, as t shows: the whole group is taken back, and its warp stops with the trap that it
recorded (R44); the trap of a rewritten group has been counted and has set what its resume skips (R251, R253). -/
def State.groupTraps (s t : State) : State :=
  let i := t.cw.recorded
  let s := s.othersTrap t
  let s :=
    if i.rewritten then
      (s.setCw { s.cw with restart := t.cw.restart }).setCore s.here
        { s.core s.here with restarted := (t.core s.here).restarted }
    else s
  s.takeTrap s.cur i

/-- The index in its packet of the word that a trap of the issuing slot names. -/
def State.trapIndex (s : State) (waddr : Word) : Nat := (waddr - wordAddr (s.codeBase s.cur.warp) s.pc 0).toNat / 4

/-- The group has run but for the words that met poison: on the IE the warp stops at the group boundary behind it, those
words having written nothing (R382). -/
def State.poisonStop (s : State) (i : TrapInfo) : State :=
  let t := s.cur
  let s := s.afterGroup t
  if s.cw.stat = .running then
    (s.setMic { s.mic with group := s.mic.word, mid := false }).takeTrap t i
  else if (s.block s.myBlock).replay then s
  else s.undo (s.block s.myBlock).launch

/-- The group's word that waits executes alone: the other words of the group have their effect with the end of its wait
(R44; log 53). -/
def State.waitAlone (s : State) (i : Nat) : Out :=
  match (s.mic.pkt[i]?).bind instrOf with
  | none => .next s
  | some x => exec x (s.setMic { s.mic with word := i, pfx := prefixesAt s.mic.pkt i })

/-- The state in which a word behind the waiting one traps, where one does; a word that waits in its turn is passed by. -/
def State.laterTrap : Nat → State → Option State
  | 0, _ => none
  | n + 1, t =>
    if chained (t.mic.pkt.getD t.mic.word 0#32) then
      match (t.setMic t.mic.passed).runWords 3 with
      | .next u =>
        if u.cw.stat ≠ .running then some u else if u.mic.wait ≠ .none then State.laterTrap n u else none
      | _ => none
    else none

/-- The group waits at a word: one that finds no room has not issued, and else the word executes alone, and the rest of
the group with the end of its wait. Cycles are charged for a group that has issued. -/
def State.groupWaits (s g : State) (i : Nat) (w : Wait) (after : State → State) : Out :=
  if w.forRoom then .next (s.setMic { s.mic with word := i, wait := w })
  else
    match g.waitAlone i with
    | .next v => .next (after v)
    | o => o

/-- A group of a warp on the IE that meets poison, as t shows: its other words run, and the warp stops behind it (R382).
One of them that traps takes the group back; where one waits, the group ends with its wait, and the words that have met
poison find it again. -/
def State.runPoisoned : Nat → State → State → State → Out
  | 0, _, g, t => .next (g.groupTraps t)
  | n + 1, s, g, t =>
    let m := g.mic
    let i := g.trapIndex t.cw.waddr
    let hit := t.cw.recorded
    let m := { m with did := m.did ++ [i], wakes := Tab.put m.wakes i (.poisoned hit.taddr.toNat) }
    match (g.setMic m).runWords 3 with
    | .next u =>
      if u.cw.stat ≠ .running then
        if u.cw.recorded.cause = .poison then State.runPoisoned n s (g.setMic m) u else .next (g.groupTraps u)
      else if u.mic.wait ≠ .none then
        let back (x : State) : State := x.setMic { x.mic with wakes := m.wakes }
        (back s).groupWaits (back g) u.mic.word u.mic.wait fun v => v.afterGroup s.cur
      else .next (u.poisonStop hit)
    | _ => .next (g.groupTraps t)

/-- The words of a group of s, which has been dispatched in g, execute (R44): a word that traps takes back the whole
group, and where a word waits, that word alone has executed. -/
def State.runDispatched (s g : State) : Out :=
  let after (t : State) : State := t.afterGroup s.cur
  match g.runWords 3 with
  | .next t =>
    if t.cw.stat ≠ .running then
      if t.cw.recorded.cause = .poison ∧ !s.cw.onRe then State.runPoisoned 3 s g t else .next (g.groupTraps t)
    else if t.mic.wait = .none then .next (after t)
    else
      match State.laterTrap 3 t with
      | some u => .next (g.groupTraps u)
      | none => s.groupWaits g t.mic.word t.mic.wait after
  | o => o

/-- The group of the slot is dispatched, at its budgets' cost, and runs. One that has waited was dispatched when it began
(log 53), and one whose warp's span ends with the cycles before it does not issue (R104). -/
def State.runGroup (s : State) : Out :=
  if s.mic.wakes.isEmpty || !s.mic.mid then
    let g := s.timeGroup s.mic.nextWords s.cw.onRe
    if g.cw.overrun then .next g else s.runDispatched (g.account s.cw.onRe)
  else s.runDispatched s

/-- The next group of the slot that issues: a flush, a held range, or accesses that a release waits for come first; a
group already begun goes on. -/
def State.issueGroup (s : State) : Out :=
  if s.flushDue then .next s.flushFirst
  else
    let t := s.groupAt s.cur
    if t.groupHeld then .next (s.waitFor (.room .range))
    else if t.fenceHeld then .next (s.waitFor (.room .fence))
    else t.runGroup

/-- A slot issues: it fetches where it holds no packet. -/
def State.issue (s : State) (t : Turn) : Out :=
  let s : State := { s with cur := t, turns := if s.turns.head? = some t then s.turns.drop 1 else s.turns }
  if s.mic.pkt.isEmpty then
    let s := s.fetchPacket
    if s.cw.stat ≠ .running ∨ !s.mayGo t then .next s else s.issueGroup
  else s.issueGroup

/-! ## Waits for room -/

/-- A tile word that waits would find room. -/
def State.tileOpen (s : State) (op : Nat) (e f g : BitVec 6) : Bool :=
  let t := s.tileOf op e f g
  if s.entersWindow t ∧ !s.mixedGroup then decide ((s.core t.core).window.length < 8) else s.tileRoom t

/-- The DRAM channel that a slot waits for (R406). -/
def Wait.onChannel : Wait → Option Nat
  | .room (.dram k) => some k
  | _ => Option.none

/-- What a slot that waits for room waits for is gone: the flush can go on, the range is done, or the tile queue or
window has room. -/
def State.roomOpen (s : State) (t : Turn) : Bool :=
  let s : State := { s with cur := t }
  let c := s.core s.here
  let moves := c.window.isEmpty || (s.windowMove s.here true).isSome
  if s.mic.wait.onChannel.isSome then
    s.attempts.all fun e => some (channelKey (64 * e.1)) != s.mic.wait.onChannel
  else if s.flushDue then !s.windowMine || moves
  else if !s.mic.mid then !s.beginGroup.groupHeld && !s.beginGroup.fenceHeld
  else if s.groupHeld || s.fenceHeld then false
  else
    match (s.mic.pkt[s.mic.word]?).bind instrOf with
    | some (.wld _ e f) => s.tileOpen 0xF2 e f 0#6
    | some (.wldt _ e f) => s.tileOpen 0xF3 e f 0#6
    | some (.mma _ e f) => s.tileOpen 0xF4 e f 0#6
    | some (.mmarx _ f) => s.tileOpen 0xF5 0#6 f 0#6
    | some (.aread _ e f g) => s.tileOpen 0xF6 e f g
    | some (.azero _ f) => s.tileOpen 0xF7 0#6 f 0#6
    | some (.ttr _ e f g) => s.tileOpen 0xF8 e f g
    | some (.tscl _ f) => s.tileOpen 0xF9 0#6 f 0#6
    | some (.tcvt _ e f g) => s.tileOpen 0xFA e f g
    | some (.tfill _ e f g) => s.tileOpen 0xFD e f g
    | some (.cp _ e f g) => s.tileOpen 0xF0 e f g
    | some (.cpm _ e f g) => s.tileOpen 0xF1 e f g
    | _ => moves

end Sys2Proof.Machine
end

