-- ==== Sys2Proof/Machine/Schedule.lean ====
section
/-! DEFINITION. What a step does where the spec leaves the order open (log 3): a slot of the turn list, an event that
stands on the agenda, what the units of the module do of themselves, the next slot by the order of issue, and an event
that only time brings (spec/04 R84 to R88, spec/05 R102, R111, spec/19 R388, R391, spec/20 R411). -/

namespace Sys2Proof.Machine

/-! ## Events on the agenda -/

/-- Events that time alone brings about. -/
def timed : Instr → Bool
  | .bowaitExpire _ _ | .remoteTimeout _ | .rewriteTimeout _ | .copyBudgetPeriod _ | .phaseTimeout _
  | .preemptDeadline _ | .sleepExpire _ | .yieldEnd _ | .infieldTestForce _ | .issueBudgetPeriod _
  | .combineWindowClose _ | .droopExclusionEnd _ => true
  | _ => false

/-- The core whose clock an event needs: none of these happens while that is stopped (R136). -/
def clockedBy : Instr → Option Nat
  | .sleepExpire k | .yieldEnd k | .nprOverrun k | .reContextGrant k | .promotionComplete k | .demotionComplete k
  | .bowaitExpire k _ | .remoteTimeout k => some (coreOfWarp k)
  | .blockSave b | .blockExit b => some (coreOfBlock b)
  | .memoryReply c _ | .copyPiece c _ | .issueBudgetPeriod c | .batonGrant c | .tileUnitStart c _ | .tileUnitFinish c _ | .chainRendezvous c
  | .rewriteTimeout c | .copyStart c | .copyBudgetPeriod c => some c
  | _ => none

/-- The clock of a core runs (R136). -/
def State.clockRuns (s : State) (c : Nat) : Bool := !(s.die (stackOf c)).clockStopped

/-- A granted warp can begin its promotion: it stands at a packet boundary, and its window is empty or able to move (R121,
R232). -/
def State.promotionOpen (s : State) (k : Nat) : Bool :=
  let c := coreOfWarp k
  let w := s.warp k
  if w.granted then
    w.atBoundary && (!((s.core c).window.any fun h => h.tile.warp == k) || (s.windowMove c true).isSome)
  else true

/-- An event on the agenda finds what it waits for. -/
def State.open (s : State) : Instr → Bool
  | .batonGrant c =>
    (s.core c).baton.isNone && ((s.core c).batonQueue.head?).any fun n => s.batonOpen c (Turn.ofNum n).warp
  | .tileUnitStart c .stream => (s.core c).streamBusy.isNone && (s.startable c true).isSome
  | .tileUnitStart c .load => (s.core c).loadBusy.isNone && (s.startable c false).isSome
  | .copyPiece c i => ((s.core c).copySlot i).all fun x => s.tileOpens x.tile && !s.pieceWaits x
  | .copyStart c =>
    ((s.core c).copy0.isNone || (s.core c).copy1.isNone) && (s.core c).loadBusy.isNone &&
      (s.startable c false).any fun t => isCopy t.op
  | .chainRendezvous c => (s.chainReady c).isSome
  | .blockSave b => s.savable b
  | .blockExit b => !(s.warpsOf b).any s.liveWarp && s.unitsClear b
  | .launchComplete l => s.finished l
  | .waitProceed p q => s.waitHolds p q
  | .signalUpdate p q => s.signalReady p q
  | .inval _ ctx va len _ => !s.pagesInUse ctx va len
  | .invalFlush _ ctx va len _ => !s.pagesInUse ctx va len
  | .invalCtx _ ctx _ => !s.pagesInUse ctx 0 (2 ^ 64)
  | .removeContext part ctx _ => s.contextIdle ctx || !(s.context ctx).any fun c => c.part == part
  | .rowMapSwitch d => s.evacuated d
  | .phaseStepUp d _ => !s.dieResetting d
  | .phaseStepDown d _ => !s.dieResetting d
  | .rollback l => s.launchStill l || !(s.launch l).undoing
  | .cometForward l => s.idleAt l (s.launch l).comet || (s.launch l).ended || !(s.launch l).open
  | .infieldTestStart u => s.testReady u && !s.testHeld u
  | .infieldTestForce u => s.testReady u || !(s.cluster u).testDue || (s.cluster u).testing
  | .infieldTestEnd u _ => (s.clusterBlocks u).isEmpty
  | .promotionComplete k => s.promotionOpen k
  | .demotionComplete k => decide ((s.warp k).engine ≠ .demoting) || (s.warp k).drained
  | .selfCheckComplete u _ => !s.checkWaits u
  | .homeRead _ l => (s.busyChannel (128 * l) 128).isNone
  | .dramTransferComplete b _ => s.burstOpen b
  | .routeAdvertisement d _ => s.routeFree d
  | _ => true

/-- An event on the agenda can happen now. -/
def State.enabled (s : State) (i : Instr) : Bool := s.open i && (clockedBy i).all s.clockRuns

/-- An event leaves the agenda and happens. -/
def State.happen (s : State) (i : Instr) : Out := exec i { s with agenda := s.agenda.erase i }

/-- The oldest event that can happen and does not wait for time. -/
def State.due (s : State) : Option Instr := s.agenda.find? fun i => !timed i && s.enabled i

/-! ## What the units do of themselves -/

/-- The first of several things that can happen. -/
def State.firstOf (s : State) (fs : List (State → Option Out)) : Option Out := fs.findSome? fun f => f s

/-- A packet whose last word has issued ends. -/
def State.endsPacket (s : State) : Option Out := (s.slots.find? s.packetDone).map fun t => .next (s.closePacket t)

/-- The request in the mailbox is answered (R365). -/
def State.servesMailbox (s : State) : Option Out :=
  if s.mailbox.going then
    some (match s.mailbox.command % 256 with
      | 1 => execSetConfiguration s
      | 2 => execReadConfiguration s
      | 3 => execSetDeviceNumber s
      | 4 => execStageImage s
      | _ => execMailboxUnknownOp s)
  else none

/-- The capacity table follows the cores' rows (R129). -/
def State.updatesTable (s : State) : Option Out := if s.tableStale then some (execCapacityTableUpdate s) else none

/-- A running warp's slot waits as a test says. -/
def State.waitsFor (s : State) (test : Turn → Wait → Bool) : Option Turn :=
  s.slots.find? fun t =>
    let w := s.warp t.warp
    decide (w.stat = .running) && (w.ctl.path t.slotB).live && test t (w.micro t.slotB).wait &&
      s.clockRuns (coreOfWarp t.warp)

/-- A bowait whose object has left the token's phase returns (R313). -/
def State.endsBowait (s : State) : Option Out :=
  (s.waitsFor fun _ w => s.objDone w).map fun t => .next (s.endBowait t true)

/-- A slot that waits for room finds it. -/
def State.findsRoom (s : State) : Option Out :=
  (s.waitsFor fun t w => w.forRoom && s.roomOpen t).map fun t =>
    .next (s.setWarp t.warp ((s.warp t.warp).setMicro t.slotB ((s.warp t.warp).micro t.slotB).retry))

/-- A rewrite window moves (R231). -/
def State.movesWindow (s : State) : Option Out :=
  (s.cores.filter fun (e : Nat × Core) => !e.2.window.isEmpty && s.clockRuns e.1).findSome? fun e =>
    (s.windowStep e.1).map .next

/-- The class 3 triggers of a core follow what runs there (R119). -/
def State.setsSole (s : State) : Option Out :=
  (((s.warps.map fun e => coreOfWarp e.1).eraseDups).find? s.soleStale).map fun c => .next (s.setSole c)

/-- Copies that a restored block recorded without a holder of the baton are requeued in their order as there is room,
before any warp of the block issues (R320, R391). -/
def State.requeues (s : State) : Option Out :=
  s.cores.findSome? fun (e : Nat × Core) =>
    (e.2.savedEngines.find? fun x => x.holder.isNone && x.ops.head?.all s.tileRoom && s.clockRuns e.1).map fun x =>
      let rest := e.2.savedEngines.erase x
      match x.ops with
      | [] => .next (s.setCore e.1 { e.2 with savedEngines := rest })
      | t :: ts => .next ((s.setCore e.1 { e.2 with savedEngines := { x with ops := ts } :: rest }).acceptTile t)

/-! ### Replies of other devices (R375, R390) -/

/-- The module once a load that waits for its reply has read, or trapped, for a warp with its slot as it was at the load's
issue; none where there is no route still. -/
def State.replyTo (s : State) (k : Nat) (w : Warp) (l : PendLoad) : Option State :=
  let m : Micro := { pkt := [l.word], pfx := l.pfx, src := l.src }
  let u : State := { s with cur := ⟨k, l.slotB⟩ }
  let u := u.setWarp k ({ w with stat := .running, engine := .ie, ctl := l.ctl, reply := none, pass := true }.setMicro l.slotB m)
  match (instrOf l.word).map fun i => exec i u with
  | some (.next u) => if (u.warp k).reply.isSome then none else some u
  | _ => none

/-- The reply of a resident warp's load lands: its registers are written, or the poison is found. -/
def State.landOn (s : State) (k : Nat) (l : PendLoad) : Option State :=
  let w := s.warp k
  (s.replyTo k w l).map fun u =>
    let x := u.warp k
    if x.stat ≠ .running then (s.setWarp k { w with reply := none }).poisonedReply k l x.taddr.toNat
    else
      let u : State := { u with cur := s.cur }
      u.setWarp k { w with reply := none, regs := x.regs, latch := x.latch }

/-- The keys of a warp and of a block that stand for a saved warp while its reply lands: no core has them. -/
def savedKey : Nat := 2 ^ 40

/-- The saved warps of a launch that wait for a reply: the block, the warp and its load. -/
def State.savedReplies (s : State) (n : Nat) : List (Nat × Saved × Kept × PendLoad) :=
  (s.launch n).saved.flatMap fun x => x.kept.filterMap fun k => k.reply.map fun l => (n, x, k, l)

/-- The saved warps that wait for a reply. -/
def State.allReplies (s : State) : List (Nat × Saved × Kept × PendLoad) := s.launches.flatMap fun e => s.savedReplies e.1

/-- The reply of a saved warp's load lands: it is written into the destination registers in the image, whose header shows
when none is left (R390, R394, R395), or its poison has the launch rolled back. -/
def State.landInImage (s : State) (n : Nat) (e : Saved) (k : Kept) (l : PendLoad) : Option State :=
  let x := s.launch n
  let r := x.record
  let at_ := s.slotBase n e.slot + 256 + k.idx * (768 + 256 * r.regs + r.sz)
  let done (s : State) : State :=
    let kept := e.kept.map fun y => if y.idx = k.idx then { y with reply := none } else y
    s.setLaunch n { s.launch n with saved := (s.launch n).saved.map fun y => if y.lin = e.lin then { y with kept := kept } else y }
  let t := s.setBlock (16 * savedKey) { used := true, launch := n, lin := e.lin, warps := r.warps, regs := r.regs }
  (t.replyTo (48 * savedKey) { block := 16 * savedKey } l).map fun u =>
    let y := u.warp (48 * savedKey)
    if y.stat ≠ .running then (done s).undo n
    else
      let u : State :=
        { u with
          cur := s.cur, agenda := s.agenda, warps := Tab.drop u.warps (48 * savedKey), blocks := Tab.drop u.blocks (16 * savedKey)
          cores := Tab.drop u.cores savedKey, clusters := Tab.drop u.clusters (clusterOf savedKey)
          stackMem := Tab.drop u.stackMem (stackOf savedKey) }
      let put (s : State) (off : Nat) (bs : List Byte) : State := s.cpWrite x.ctx 2 (at_ + off) bs
      let u := y.regs.v.foldl (fun s v => put s (768 + 8 * v.1) (leBytes v.2.toNat 8)) u
      let u := y.regs.s.foldl (fun s v => put s (192 + 8 * v.1) (leBytes v.2.toNat 8)) u
      let u := done (put u 34 [0#8])
      if (u.savedReplies n).any fun y => y.2.1.lin == e.lin then u
      else
        match u.cpRead x.ctx 2 (s.slotBase n e.slot + 15) 1 with
        | none => u
        | some (u, bs) => u.cpWrite x.ctx 2 (s.slotBase n e.slot + 15) [bs.headD 0#8 &&& 0xEF#8]

/-- The reply of a load that waited for a route lands. -/
def State.landsReply (s : State) : Option Out :=
  let live := s.warps.findSome? fun (e : Nat × Warp) =>
    (e.2.reply.filter fun _ => s.clockRuns (coreOfWarp e.1)).bind fun l => s.landOn e.1 l
  (live.or (s.allReplies.findSome? fun e => s.landInImage e.1 e.2.1 e.2.2.1 e.2.2.2)).map .next

/-- A launch that an abort or a cancel ends is discarded. -/
def State.discards (s : State) : Option Out :=
  (s.launches.find? fun (e : Nat × Launch) => e.2.ending.isSome && e.2.open && !e.2.undoing && s.launchStill e.1).map fun e =>
    .next (s.finishEnding e.1)

/-- Every other ready warp of a yielding warp's engine has issued since (R102). -/
def State.yieldOver (s : State) (k : Nat) : Bool :=
  let w := s.warp k
  decide (w.stat = .running) && w.yielding && (warpSlotsOf (coreOfWarp k)).all fun j =>
    let o := s.warp j
    j == k || o.engine ≠ w.engine || (!s.canIssue ⟨j, false⟩ && !s.canIssue ⟨j, true⟩) || decide (w.stamp < o.stamp)

/-- A yielding warp is a candidate again. -/
def State.endsYield (s : State) : Option Out :=
  (s.warps.find? fun (e : Nat × Warp) => e.2.yielding && s.yieldOver e.1 && s.clockRuns (coreOfWarp e.1)).map fun e => execYieldEnd e.1 s

/-! ## The distributor (R84 to R88, R388, R391, R411) -/

/-- A saved unit of a partition is restored, of those that a test picks. -/
def State.restores (s : State) (p : Nat) (only : Nat × Saved → Bool) : Option Out :=
  ((s.toRestore p).filter only).findSome? fun e =>
    (s.coreToRestore e.1 e.2.lin).map fun c => execBlockRestore e.1 e.2.lin c s

/-- A block chosen for an audit replay begins it on a core of another stack of the partition, in a one-stack partition
of another cluster (R411). -/
def State.replays (s : State) (l : Nat) : Option Out :=
  let x := s.launch l
  let running (lin : Nat) : Bool := (s.residents l).any fun b => (s.block b).replay && (s.block b).lin == lin
  let one := (s.stacksOf x.part).length == 1
  ((x.replaying.filter fun lin => !running lin).findSome? fun lin =>
    let c0 := (Tab.get (0, []) x.signatures lin).1
    ((s.coresOf x.part).find? fun c =>
      (if one then clusterOf c != clusterOf c0 else stackOf c != stackOf c0) && s.coreTakes l c &&
        s.stackRoom l (stackOf c)).map fun c => .next ((s.ready l c).putBlock l lin c true))

/-- The next unit of a launch is placed, or its capacity test ends or holds it (R86, R88). -/
def State.places (s : State) (l : Nat) : Option Out :=
  let x := s.launch l
  if !s.toPlace l then none
  else
    match (if x.started then Verdict.fits else s.verdict l) with
    | .refuse _ => some (execBlockPlace l 0 s)
    | .waits => some (execBlockPlace l 0 s)
    | .fits =>
      if s.slotsFor l x.record.unit ∧ s.turnOf l then (s.coreFor l).map fun c => execBlockPlace l c s else none

/-- The distributor of a partition restores and places (R84, R135, R391). -/
def State.distributesIn (s : State) (p : Nat) : Option Out :=
  let ls := s.waitingIn p
  if ls.isEmpty then none
  else
    s.firstOf ((fun s => s.restores p fun e => e.2.evicted) :: ls.flatMap fun l =>
      [fun s => s.restores p fun e => !e.2.evicted && e.1 == l, fun s => s.replays l, fun s => s.places l])

def State.distributes (s : State) : Option Out := (List.range s.layout).findSome? s.distributesIn

/-- A drained core is carved for the launch that caused the draining, or for the head of the order; it is left unchanged
where nothing waits (R87). -/
def State.carves (s : State) : Option Out :=
  (s.cores.find? fun (e : Nat × Core) => e.2.draining.isSome && (s.blocksOn e.1).isEmpty &&
      (s.die (stackOf e.1)).step.isNone).map fun e =>
    let s := (s.carveTarget e.1).elim s fun l => s.carveFor l e.1
    .next (s.setCore e.1 { s.core e.1 with draining := none })

/-- The head of a partition's order pre-empts blocks of lower priority where it fits on no core (R388). -/
def State.preemptsFor (s : State) (l : Nat) : Option Out :=
  (s.preemptChoice l).map fun vs => .next (vs.foldl (fun s b => s.startSave b .preempt) s)

def State.preempts (s : State) : Option Out :=
  (List.range s.layout).findSome? fun p => (s.headOf p).bind s.preemptsFor

/-! ## Which slot issues (R109, R111) -/

/-- The slot that issues next. -/
def State.nextSlot (s : State) : Option Turn := leastBy s.issueRank (s.slots.filter s.canIssue)

/-! ## What time brings -/

/-- Budgets in use, whose period ends (R110, R309, R361, R362). -/
def State.renewals (s : State) : List Instr :=
  (s.cores.filter fun (e : Nat × Core) => !e.2.reUsed.isEmpty).map (fun e => .issueBudgetPeriod e.1) ++
  (s.cores.filter fun (e : Nat × Core) => !e.2.copied.isEmpty).map (fun e => .copyBudgetPeriod e.1) ++
  (s.clusters.filter fun (e : Nat × Cluster) => e.2.injected != 0).map (fun e => .injectionBudgetPeriod e.1) ++
  (s.parts.filter fun (e : Nat × Partition) => e.2.memUsed != 0).map fun e => .memoryBudgetPeriod e.1

/-- Yielding warps, whose 64 cycles pass (R102). -/
def State.yields (s : State) : List Instr :=
  (s.warps.filter fun (e : Nat × Warp) => e.2.yielding).map fun e => .yieldEnd e.1

/-- The head of a partition's order has waited 100 µs for room (R87). -/
def State.drains (s : State) : List Instr :=
  (List.range s.layout).flatMap fun p =>
    ((s.headOf p).bind fun l => (s.drainChoice l).map fun c => .coreDrain l c).toList

/-- Launches that have waited 8 ms for their next block, and blocks that give way by force where one has waited 8 ms more
(R84, R389). -/
def State.ages (s : State) : List Instr :=
  (s.waitingLaunches.filter fun l => s.toPlace l && !(s.launch l).aged).map Instr.launchAge
def State.forces (s : State) : List Instr :=
  (List.range s.layout).filterMap fun p =>
    if s.savingIn p then none else ((s.waitingIn p).flatMap s.forcedFor).head?.map Instr.forcedPreempt

/-- Timed events of the agenda that can happen. -/
def State.expiring (s : State) : List Instr := s.agenda.filter fun i => timed i && s.enabled i

/-- What only time brings: the timed events of the agenda, the ends of budget periods and of yields, a core that begins to
drain, a launch that ages and a block that it displaces. -/
def State.timely (s : State) : List Instr :=
  s.expiring ++ (s.renewals ++ s.yields ++ s.drains ++ s.ages ++ s.forces).filter s.enabled

/-- Cycles pass on a core whose clock runs, and its warps spend them (R104, R111, R136). -/
def State.tick (s : State) (c : Nat) : State := if s.clockRuns c then s.elapse c else s

/-- Cycles pass on every core that holds a warp. -/
def State.ticks (s : State) : State :=
  (((s.warps.map fun e => coreOfWarp e.1)).eraseDups).foldl State.tick s

/-- The oldest due event happens. -/
def State.happens (s : State) : Option Out := s.due.map s.happen

/-- An error may strike a store of the device as time passes (R403). -/
def State.upsets (s : State) : State :=
  let (i, s) := s.draw
  (Config.upset i).elim s s.strike

/-- A reply that a saved warp waits for may be given up as time passes: it is answered as poisoned, which has the launch
rolled back (R375, R390; log 4). -/
def State.givesUp (s : State) : State :=
  match s.allReplies with
  | [] => s
  | e :: _ =>
    let (i, s) := s.draw
    if Config.choice i 0 then s.undo e.1 else s

/-- The dies that may step down, those with the most online capacity to spare first: with the most pool rows of cores
online that no block holds (R378; log 57). -/
def State.spareDies (s : State) : List Nat :=
  let free (d : Nat) : Nat := ((coresOfDie d).map fun c =>
    let k := s.core c
    if k.offline (s.die d).phase then 0
    else k.capacity - (s.blocksOn c).length * (k.carve.regRows + k.carve.scratchRows)).sum
  sortBy (fun d => 2 ^ 32 - free d) ((List.range 4).filter fun d => 0 < (s.die d).phase ∧ (s.die d).step.isNone)

/-- The power manager keeps the draw within the limit: where it is above, a die steps down by one phase; below CRESCENT on
every die there is none (R37, R378). -/
def State.powers (s : State) : State :=
  if 2000 ≤ s.powerLimit then s
  else
    let (i, s) := s.draw
    match s.spareDies with
    | d :: _ => if s.powerLimit < Config.moduleDraw i then s.later (.phaseStepDown d ((s.die d).phase - 1)) else s
    | [] => s

/-- Time passes: cycles on every core, an error in a store, and one of the things that only time brings, each in its
turn. -/
def State.timeBrings (s : State) : Out :=
  let s := s.ticks.upsets.givesUp.powers
  let is := s.timely
  match is[(s.issued / 64) % is.length]? with
  | some i => s.happen i
  | none => .next s

/-- A link's new cost reaches the routes over it, by an advertisement (R414). -/
def State.advertises (s : State) : Option Out :=
  (s.adverts.find? fun e => Tab.get [] s.routes e.1 != s.weigh e.2 && s.routeFree e.1).map fun e => execRouteAdvertisement e.1 e.2 s

/-- Corrections met by reads are logged (R405). -/
def State.logsCells (s : State) : Option Out := if s.corrected.isEmpty then none else some (.next s.logCells)

/-- The images have started: the partition pages read ready and take doorbells (R368, R372). -/
def State.boots (s : State) : Option Out :=
  if !s.booted ∧ s.bootResult.testBit 2 then some (.next { s with booted := true }) else none

/-- What a busy module does of itself, before any slot issues. -/
def State.stirs (s : State) : Option Out :=
  s.firstOf [State.happens, State.endsPacket, State.servesMailbox, State.updatesTable, State.endsBowait,
    State.findsRoom, State.movesWindow, State.setsSole, State.requeues, State.landsReply, State.discards, State.endsYield,
    State.carves, State.distributes, State.preempts, State.logsCells, State.advertises, State.boots]

/-- After every 64 groups time has passed too. -/
def State.timePasses (s : State) : Option Out :=
  if s.issued % 64 = 63 then some ({ s with issued := s.issued + 1 } : State).timeBrings else none

/-- The slot at the head of the turn list, if it may issue. -/
def State.chosen (s : State) : Option Turn := s.turns.head?.filter s.canIssue

/-- One step of the module. -/
def State.advanceOne (s : State) : Out :=
  match s.chosen with
  | some t => s.issue t
  | none =>
    match s.firstOf [State.stirs, State.timePasses] with
    | some o => o
    | none =>
      match s.nextSlot with
      | some t => s.issue t
      | none => s.timeBrings

end Sys2Proof.Machine
end

