-- ==== Sys2Proof/Machine/Load.lean ====
section
/-! DEFINITION. A program loaded from outside the machine (log 15): one launch with one warp that stands at a packet
which holds a given word (log 20). -/

namespace Sys2Proof.Machine

/-- The context, the launch, the block and the warp of a loaded program. -/
def loadedCtx : Nat := 1
def loadedCode : Nat := 2 ^ 20

/-- The launch of a loaded program (R80). -/
def loadedLaunch : Launch :=
  { phase := .running, ctx := loadedCtx, next := 1, started := true
    record := { code := loadedCode, regs := 64, arena := 2 ^ 24, arenasize := 2 ^ 24, poolwords := 8, pool := 2 ^ 21 } }

/-- The page that maps a loaded program and its memory: the first GiB of the first HBM stack, at its own address. -/
def loadedPage : TlbEntry :=
  { ctx := loadedCtx, va := 0, size := 2 ^ 30, frame := 0, w := true, x := true, dty := true, snap := false }

/-- The words of the packet of a loaded word, and the word it begins with: the five words that need a prefix stand
behind one, and a prefix stands before a word that it can attach to (log 20). -/
def loadedPacket (w : Nat) : List W32 × Nat :=
  let x := BitVec.ofNat 32 w
  if needsAttr (opOf x) then ([0x00040000#32, x, 0#32], 1)
  else if isImx x then ([x, 0x00940000#32, 0#32], 0)
  else ([x, 0#32, 0#32], 0)

/-- The warp of a loaded program: at its packet, behind the prefix where there is one. -/
def loadedWarp (first : Nat) : Warp :=
  let w := startWarp 0 0 loadedLaunch.record (2 ^ 24)
  if first = 0 then w else { w with ma := { word := first, mid := true, pfx := [0#18], src := w.regs } }

/-- The state with a word loaded. -/
def State.loadProgram (s : State) (_nbits w : Nat) : State :=
  let (ws, first) := loadedPacket w
  let lines := [loadedCode / 128]
  { s with
    agenda := []
    turns := [⟨0, false⟩]
    warps := Tab.put s.warps 0 (loadedWarp first)
    blocks := Tab.put s.blocks 0
      { used := true, lin := 0, warps := 1, regs := 64, scratchSize := 16384 }
    cores := Tab.put s.cores 0
      { carve := { regRows := 64, scratchRows := 64, slots := 16, ways := 4 }, tlb := [loadedPage] }
    clusters := Tab.put s.clusters 0 {}
    dies := Tab.put s.dies 0 { s.die 0 with clockStopped := false }
    launches := Tab.put s.launches 0 loadedLaunch
    contexts := Tab.put s.contexts loadedCtx (some {})
    records := s.records.filter fun (e : Nat × List (Nat × Nat)) => !lines.contains e.1
    recordOrder := s.recordOrder.filter fun l => !lines.contains l
    holders := s.holders.filter fun (e : Nat × List Nat) => !lines.contains e.1
    windows := s.windows.filter fun (e : Nat × List Nat) => !lines.contains e.1
    poison := s.poison.filter fun p => !lines.contains (p / 16)
    parts := Tab.put s.parts 0 { s.part 0 with inj := 0, mem := 0 }
    mem := s.mem.write loadedCode (ws.flatMap fun x => leBytes x.toNat 4) }

end Sys2Proof.Machine
end

