-- ==== Sys2Proof/Machine/Step.lean ====
section
/-! DEFINITION. The step of the module, and the state in which the next step issues a given word (log 15). -/

namespace Sys2Proof.Machine

/-- One step of the module: a slot issues a chain group, an event happens, or nothing can (log 3). -/
def step (s : State) : Host.Outcome State Fault Refusal := s.advanceOne

/-- The state with an instruction stored where the next step fetches it: a launch is loaded whose one warp stands at
its packet, in a context whose one page maps the packet's frame (log 15). -/
def State.withFetchWord (s : State) (nbits w : Nat) : State := s.loadProgram nbits w

end Sys2Proof.Machine
end

