-- ==== Sys2Proof/Safety.lean ====
section
/-! DEFINITION. What counts as a safe run of the module, and the form that every memory of the state keeps. -/

namespace Sys2Proof.Machine

/-- A step is safe when the machine goes on: it answers a next state. -/
def StepSafe (s : State) : Prop := ∃ t, step s = .next t

/-- A run of n steps is safe when every step of it answers a next state. -/
def RunSafe (n : Nat) (s : State) : Prop := ∃ t, Sys2Proof.core.run n s = .next t

/-- Every memory of a state is in canonical form (log 1): device memory, the scratchpads of stacks and blocks, and
the data area of the mailbox. -/
def State.memoriesWf (s : State) : Prop :=
  s.mem.wf = true ∧ (∀ e ∈ s.stackMem, e.2.bytes.wf = true) ∧ (∀ e ∈ s.blocks, e.2.scratch.wf = true) ∧
    s.mailbox.data.wf = true

end Sys2Proof.Machine
end

