-- ==== Sys2Proof/Certificates/Slice0/Obligations.lean ====
section
/-! DEFINITION. The statements about the model, each a proposition from the numbered rules of spec/, and the few
observers they are written with. -/

namespace Sys2Proof.Claims

open Sys2Proof Sys2Proof.Machine

/-! ## Observers: registers of the issuing warp as they stand, and every byte of memory -/

/-- `S[r]` of the issuing warp as it stands. -/
def sReg (s : State) (r : Nat) : Word := Tab.get 0#64 s.cw.regs.s r
/-- `V[r][l]` of the issuing warp as it stands. -/
def vReg (s : State) (r l : Nat) : Word := Tab.get 0#64 s.cw.regs.v (32 * r + l)
/-- `P[r][l]` of the issuing warp as it stands: p0 reads true (R25). -/
def pBit (s : State) (r l : Nat) : Bool := r == 0 || (Tab.get 0#32 s.cw.regs.p r).getLsbD l
/-- `NF[i]` of the issuing warp as it stands. -/
def nfReg (s : State) (i : Nat) : Word := Tab.get 0#64 s.cw.regs.nf i

/-- Every byte of device memory, of every block's scratchpad and of every stack scratchpad reads as before. -/
def SameBytes (s t : State) : Prop :=
  (∀ a, t.mem.byte a = s.mem.byte a) ∧ (∀ b a, (t.block b).scratch.byte a = (s.block b).scratch.byte a) ∧
    ∀ k a, (t.stack k).bytes.byte a = (s.stack k).bytes.byte a

/-- Nothing but registers of the issuing warp, and the reuse latch that holds a copy of one, has changed. -/
def OnlyRegisters (s t : State) : Prop :=
  t = { s with warps := t.warps } ∧ (∀ k, k ≠ s.cur.warp → t.warp k = s.warp k) ∧
    t.cw = { s.cw with regs := t.cw.regs, latch := t.cw.latch } ∧ SameBytes s t

/-- The instruction completes, writes x to `S[r]` and changes no other register and nothing else. -/
def WritesS (i : Instr) (s : State) (r : Nat) (x : Word) : Prop :=
  ∃ t, exec i s = .next t ∧ OnlyRegisters s t ∧ (∀ q, sReg t q = if q = r then x else sReg s q) ∧
    t.cw.regs.v = s.cw.regs.v ∧ t.cw.regs.p = s.cw.regs.p ∧ t.cw.regs.nf = s.cw.regs.nf

/-- The instruction completes, writes f l to lane l of `V[r]` for the lanes of a test and changes no other register,
no other lane and nothing else. -/
def WritesV (i : Instr) (s : State) (r : Nat) (act : Nat → Bool) (f : Nat → Word) : Prop :=
  ∃ t, exec i s = .next t ∧ OnlyRegisters s t ∧
    (∀ q l, l < 32 → vReg t q l = if q = r ∧ act l = true then f l else vReg s q l) ∧
    t.cw.regs.s = s.cw.regs.s ∧ t.cw.regs.p = s.cw.regs.p ∧ t.cw.regs.nf = s.cw.regs.nf

/-- The instruction completes, writes f i l to lane l of `V[d + i]`, for i below n and the lanes of a test, and changes
no other register, no other lane and nothing else. -/
def WritesGroup (i : Instr) (s : State) (d n : Nat) (act : Nat → Bool) (f : Nat → Nat → Word) : Prop :=
  ∃ t, exec i s = .next t ∧ OnlyRegisters s t ∧
    (∀ q l, l < 32 → vReg t q l = if d ≤ q ∧ q < d + n ∧ act l = true then f (q - d) l else vReg s q l) ∧
    t.cw.regs.s = s.cw.regs.s ∧ t.cw.regs.p = s.cw.regs.p ∧ t.cw.regs.nf = s.cw.regs.nf

/-- The instruction completes, writes f l to lane l of `P[r]` for the lanes of a test, unless r is 0, and changes no
other predicate bit, no other register and nothing else. -/
def WritesP (i : Instr) (s : State) (r : Nat) (act f : Nat → Bool) : Prop :=
  ∃ t, exec i s = .next t ∧ OnlyRegisters s t ∧
    (∀ q l, l < 32 → pBit t q l = if q = r ∧ r ≠ 0 ∧ act l = true then f l else pBit s q l) ∧
    t.cw.regs.v = s.cw.regs.v ∧ t.cw.regs.s = s.cw.regs.s ∧ t.cw.regs.nf = s.cw.regs.nf

/-- The word whose byte i is f i. -/
def ofBytes (f : Nat → Nat) : Word := BitVec.ofNat 64 (((List.range 8).map fun i => (f i % 256) * 256 ^ i).sum)
/-- Field k of width w of a word (R8). -/
def field (x : Word) (w k : Nat) : Nat := x.toNat / 2 ^ (w * k) % 2 ^ w

/-! ## Scalar instructions (spec/08) -/

/-- The leading zero bits of x among w: those positions i at which x lies below 2^i. -/
def zerosAbove (w x : Nat) : Nat := (List.range w).countP fun i => decide (x < 2 ^ i)

/-- The effect on S[d] of the scalar instructions of R168 that read two words x and y, or one, in the rule's own terms. -/
def scalarRows (h : Hdr) (d a b : BitVec 6) (x y : Word) : List (Instr × Word) :=
  [(.sadd h d a b, BitVec.ofNat 64 ((x.toNat + y.toNat) % 2 ^ 64)),
   (.ssub h d a b, BitVec.ofInt 64 ((x.toNat : Int) - y.toNat)),
   (.smul h d a b, BitVec.ofNat 64 (x.toNat * y.toNat % 2 ^ 64)),
   (.smulh h d a b, BitVec.ofNat 64 (x.toNat * y.toNat / 2 ^ 64)),
   (.sdivu h d a b, if y = 0#64 then 0xFFFFFFFFFFFFFFFF#64 else BitVec.ofNat 64 (x.toNat / y.toNat)),
   (.sremu h d a b, if y = 0#64 then x else BitVec.ofNat 64 (x.toNat - y.toNat * (x.toNat / y.toNat))),
   (.sand h d a b, x &&& y), (.sor h d a b, x ||| y), (.sxor h d a b, x ^^^ y),
   (.sshl h d a b, if 64 ≤ y.toNat then 0#64 else BitVec.ofNat 64 (x.toNat * 2 ^ y.toNat)),
   (.sshr h d a b, if 64 ≤ y.toNat then 0#64 else BitVec.ofNat 64 (x.toNat / 2 ^ y.toNat)),
   (.ssar h d a b, BitVec.ofInt 64 (x.toInt / 2 ^ min y.toNat 63)),
   (.smov h d a, x),
   (.smin h d a b, if x.toInt ≤ y.toInt then x else y), (.smax h d a b, if x.toInt ≤ y.toInt then y else x),
   (.sclz h d a, BitVec.ofNat 64 (zerosAbove 64 x.toNat)),
   (.spopc h d a, BitVec.ofNat 64 ((List.range 64).countP fun i => x.getLsbD i)),
   (.slea h d a b, BitVec.ofNat 64 ((x.toNat + 8 * y.toNat) % 2 ^ 64))]

/-- The immediate of a format I word with its prefixes, sign-extended (R49). -/
def immediate (pfx : List (BitVec 18)) (i : BitVec 6) : Int :=
  match pfx with
  | [] => i.toInt
  | [p] => (p ++ i).toInt
  | p :: q :: _ => (p ++ (q ++ i)).toInt

/-- The condition of scmp and scmpi (R170). -/
def compares (q : BitVec 3) (x y : Word) : Bool :=
  match q.toNat with
  | 0 => decide (x = y) | 1 => decide (x ≠ y) | 2 => decide (x.toInt < y.toInt) | 3 => decide (x.toInt ≤ y.toInt)
  | 4 => decide (y.toInt < x.toInt) | 5 => decide (y.toInt ≤ x.toInt) | 6 => decide (x.toNat < y.toNat)
  | _ => decide (y.toNat ≤ x.toNat)

end Sys2Proof.Claims

open Sys2Proof Sys2Proof.Machine Sys2Proof.Claims

/-- R168: where it takes effect, a scalar instruction writes to S[d] the value its row gives from S[a] and S[b] as they
stood when its chain group began, and changes nothing else. -/
def Obligations.ScalarResults : Prop :=
  ∀ (s : State) (h : Hdr) (d a b : BitVec 6), s.taken h = true →
    ∀ e ∈ scalarRows h d a b (s.rdS a.toNat) (s.rdS b.toNat), WritesS e.1 s d.toNat e.2

/-- R169, R49: the immediate forms, with an immediate of 6, 24 or 42 bits as no, one or two prefixes make it. R170,
R171: words between s-registers and per-lane state. `ssel` writes whatever the guard; `sbc` acts per lane; the
predicate writes reach every lane of the slot's mask and p0 discards them (R25); `sget` of a lane above 31 traps. -/
def Obligations.ScalarFormResults : Prop :=
  (∀ (s : State) (h : Hdr) (d a i : BitVec 6), s.taken h = true →
    WritesS (.saddi h d a i) s d.toNat (BitVec.ofInt 64 ((s.rdS a.toNat).toInt + immediate s.mic.pfx i)) ∧
    WritesS (.smovi h d i) s d.toNat (BitVec.ofInt 64 (immediate s.mic.pfx i)) ∧
    WritesS (.smask h d a i) s d.toNat
      (if i = 0#6 then s.rdS a.toNat else BitVec.ofNat 64 ((s.rdS a.toNat).toNat % 2 ^ i.toNat))) ∧
  (∀ (s : State) (h : Hdr) (d a b : BitVec 6) (p q c : BitVec 3),
    (s.taken h = true →
      WritesP (.scmp h p c a b) s p.toNat s.inMask (fun _ => compares c (s.rdS a.toNat) (s.rdS b.toNat)) ∧
      WritesP (.scmpi h p c a b) s p.toNat s.inMask
        (fun _ => compares c (s.rdS a.toNat) (BitVec.ofInt 64 (immediate s.mic.pfx b))) ∧
      ((s.rdS b.toNat).toNat < 32 → WritesS (.sget h d a b) s d.toNat (s.rdV a.toNat (s.rdS b.toNat).toNat)) ∧
      (32 ≤ (s.rdS b.toNat).toNat → exec (.sget h d a b) s = .next (s.trapHere .bounds)) ∧
      (∃ x : Word, WritesS (.spredToS h d q) s d.toNat x ∧
        ∀ l, x.getLsbD l = (decide (l < 32) && s.rdP q.toNat l)) ∧
      WritesP (.spredToP h p a) s p.toNat s.inMask (fun l => (s.rdS a.toNat).getLsbD l)) ∧
    (∀ l < 32, s.inMask l = true → (∀ j < l, s.inMask j = false) →
      WritesS (.ssel h d a b) s d.toNat (if s.guard h l then s.rdS a.toNat else s.rdS b.toNat)) ∧
    WritesV (.sbc h d a) s d.toNat (s.active h) (fun _ => s.rdS a.toNat))

namespace Sys2Proof.Claims

/-! ## Vector instructions (spec/07, spec/08) -/

/-- The integer in field k of width w of a word, signed for kind 0 and unsigned for kind 1 (R148). -/
def intField (kind w : Nat) (x : Word) (k : Nat) : Int :=
  if kind = 0 ∧ 2 ^ (w - 1) ≤ field x w k then (field x w k : Int) - 2 ^ w else field x w k

/-- The element of an integer result: its low bits, or the nearest end of the range under sat (R148). -/
def intResult (kind w : Nat) (sat : Bool) (i : Int) : Nat :=
  let lo : Int := if kind = 0 then -(2 ^ (w - 1)) else 0
  let hi : Int := if kind = 0 then 2 ^ (w - 1) - 1 else 2 ^ w - 1
  ((if sat then (if i < lo then lo else if hi < i then hi else i) else i) % 2 ^ w).toNat

/-- A valid integer descriptor of a kind, width and sat (R145, R146). -/
def IntDescriptor (d : Word) (kind w : Nat) (sat : Bool) : Prop :=
  nfValid d = true ∧ (nfOf d).kind = kind ∧ kind ≤ 1 ∧ (nfOf d).width = w ∧ (nfOf d).sat = sat

/-- The integer results of R176 to R179 on elements x of a, y of b and z of d; t is y read as unsigned. -/
def intRows (h : Hdr) (f : BitVec 2) (d a b : BitVec 6) (w : Nat) : List (Instr × (Int → Int → Int → Int)) :=
  let count (y : Int) : Nat := (y % 2 ^ w).toNat
  [(.vadd h f d a b, fun x y _ => x + y), (.vsub h f d a b, fun x y _ => x - y), (.vmul h f d a b, fun x y _ => x * y),
   (.vfma h f d a b, fun x y z => z + x * y), (.vmin h f d a b, fun x y _ => min x y),
   (.vmax h f d a b, fun x y _ => max x y), (.vamin h f d a b, fun x y z => min z (x + y)),
   (.vamax h f d a b, fun x y z => max z (x + y)), (.vclamp h f d a b, fun x y z => min (max z x) y),
   (.vmulh h f d a b, fun x y _ => x * y / 2 ^ w), (.vshl h f d a b, fun x y _ => x * 2 ^ count y),
   (.vshr h f d a b, fun x y _ => x / 2 ^ count y)]

/-- The integer results of the unary instructions of R178. -/
def intUnary (h : Hdr) (f : BitVec 2) (d a : BitVec 6) : List (Instr × (Int → Int)) :=
  [(.vabs h f d a, fun x => if x < 0 then -x else x), (.vneg h f d a, fun x => 0 - x), (.vrint h f d a, fun x => x)]

/-- An instruction writes, in each active lane of `V[d]`, the fields g of width w that a function of lane and field
gives, and changes nothing else. -/
def WritesFields (i : Instr) (s : State) (h : Hdr) (d w : Nat) (g : Nat → Nat → Nat) : Prop :=
  ∃ out : Nat → Word, WritesV i s d (s.active h) out ∧
    ∀ l < 32, s.active h l = true → ∀ k < 64 / w, field (out l) w k = g l k

/-- The exact result, by R176 to R178, of the typed instructions on the values x of a, y of b and z of d under a
descriptor of kind 2 or 3, where it is rounded. -/
def realRows (h : Hdr) (f : BitVec 2) (d a b : BitVec 6) (rnd : Nat) : List (Instr × (Val → Val → Val → Val)) :=
  [(.vadd h f d a b, fun x y _ => sumVals rnd [x, y]), (.vsub h f d a b, fun x y _ => sumVals rnd [x, y.neg]),
   (.vmul h f d a b, fun x y _ => x.mul y), (.vfma h f d a b, fun x y z => sumVals rnd [z, x.mul y])]

/-- The value that a selecting or unary instruction of R177 and R178 passes unrounded. -/
def selectRows (h : Hdr) (f : BitVec 2) (d a b : BitVec 6) : List (Instr × (Val → Val → Val → Val)) :=
  [(.vmin h f d a b, fun x y _ => x.min y), (.vmax h f d a b, fun x y _ => x.max y),
   (.vclamp h f d a b, fun x y z => (z.max x).min y), (.vabs h f d a, fun x _ _ => x.abs),
   (.vneg h f d a, fun x _ _ => x.neg)]

end Sys2Proof.Claims

/-- R174 to R179 under an integer descriptor: in each active lane every element takes the exact result, wrapped, or
held to the end of the range under sat (R148). An instruction that reads one source reads a. R182, R186, R187: the
untyped words on whole lanes, on sub-elements of 8, 16, 32 or 64 bits, and on bytes. -/
def Obligations.IntegerVectorResults : Prop :=
  (∀ (s : State) (h : Hdr) (f : BitVec 2) (d a b : BitVec 6) (kind w : Nat) (sat : Bool),
    IntDescriptor (s.rdNf f.toNat) kind w sat → s.taken h = true →
    (∀ e ∈ intRows h f d a b w, WritesFields e.1 s h d.toNat w fun l k =>
      intResult kind w sat (e.2 (intField kind w (s.rdV a.toNat l) k) (intField kind w (s.rdV b.toNat l) k)
        (intField kind w (s.rdV d.toNat l) k))) ∧
    (∀ e ∈ intUnary h f d a, WritesFields e.1 s h d.toNat w fun l k =>
      intResult kind w sat (e.2 (intField kind w (s.rdV a.toNat l) k))) ∧
    (w = 8 → WritesFields (.vdp4 h f d a b) s h d.toNat 32 fun l k =>
      intResult kind 32 sat (intField kind 32 (s.rdV d.toNat l) k + ((List.range 4).map fun j =>
        intField kind 8 (s.rdV a.toNat l) (4 * k + j) * intField kind 8 (s.rdV b.toNat l) (4 * k + j)).sum))) ∧
  (∀ (s : State) (h : Hdr) (d a b : BitVec 6),
    let x (l : Nat) : Word := s.rdV a.toNat l
    let y (l : Nat) : Word := s.rdV b.toNat l
    WritesV (.vand h d a b) s d.toNat (s.active h) (fun l => x l &&& y l) ∧
    WritesV (.vor h d a b) s d.toNat (s.active h) (fun l => x l ||| y l) ∧
    WritesV (.vxor h d a b) s d.toNat (s.active h) (fun l => x l ^^^ y l) ∧
    WritesV (.vandn h d a b) s d.toNat (s.active h) (fun l => x l &&& ~~~ y l) ∧
    WritesV (.vmov h d a) s d.toNat (s.active h) x ∧
    WritesV (.vmovi h d b) s d.toNat (s.active h) (fun _ => BitVec.ofInt 64 (immediate s.mic.pfx b)) ∧
    (∀ w : BitVec 3, w.toNat ≤ 3 →
      let n := 8 * 2 ^ w.toNat
      WritesFields (.vclz h d a w) s h d.toNat n (fun l k => zerosAbove n (field (x l) n k)) ∧
      WritesFields (.vpopc h d a w) s h d.toNat n
        (fun l k => (List.range n).countP fun i => decide (field (x l) n k / 2 ^ i % 2 = 1)) ∧
      WritesFields (.vbrev h d a w) s h d.toNat n
        (fun l k => ((List.range n).map fun i => field (x l) n k / 2 ^ i % 2 * 2 ^ (n - 1 - i)).sum) ∧
      WritesFields (.vlane h d w) s h d.toNat n (fun l k => l * (64 / n) + k)) ∧
    WritesFields (.vperm h d a b) s h d.toNat 8 (fun l i =>
      let sel := field (y l) 8 i
      if 128 ≤ sel then 0
      else if sel % 16 < 8 then field (x l) 8 (sel % 16) else field (s.rdV d.toNat l) 8 (sel % 16 - 8)))

/-- R174, R176 to R178, R180 under a minifloat or tapered descriptor: each element is the one rounding of the exact
result; a selected value passes, an infinity included. A 6-bit element stands in an 8-bit field whose high bits are 0.
The sum of `amin` and `amax` is rounded where it is selected, and z passes (R177); that z is selected where both are
equal is the model's reading (log 34). -/
def Obligations.RealVectorResults : Prop :=
  ∀ (s : State) (h : Hdr) (f : BitVec 2) (d a b : BitVec 6) (nf : Nf),
    nfValid (s.rdNf f.toNat) = true → nfOf (s.rdNf f.toNat) = nf → 2 ≤ nf.kind → nf.kind ≤ 3 → s.taken h = true →
    let x (l k : Nat) : Val := decodeElem nf (field (s.rdV a.toNat l) nf.cont k)
    let y (l k : Nat) : Val := decodeElem nf (field (s.rdV b.toNat l) nf.cont k)
    let z (l k : Nat) : Val := decodeElem nf (field (s.rdV d.toNat l) nf.cont k)
    (∀ e ∈ realRows h f d a b nf.rnd, WritesFields e.1 s h d.toNat nf.cont fun l k =>
      roundVal nf (e.2 (x l k) (y l k) (z l k)) % 2 ^ nf.cont) ∧
    (∀ e ∈ selectRows h f d a b, WritesFields e.1 s h d.toNat nf.cont fun l k =>
      roundSel nf (e.2 (x l k) (y l k) (z l k)) % 2 ^ nf.cont) ∧
    (∀ e ∈ [((Instr.vamin h f d a b : Instr), Ordering.lt), (.vamax h f d a b, .gt)],
      WritesFields e.1 s h d.toNat nf.cont fun l k =>
        let u := sumVals nf.rnd [x l k, y l k]
        (if z l k = .nan ∨ u = .nan then roundVal nf .nan
          else if u.cmpTotal (z l k) = e.2 then roundVal nf u else roundSel nf (z l k)) % 2 ^ nf.cont) ∧
    (nf.width = 8 ∨ nf.width = 6 → WritesFields (.vdp4 h f d a b) s h d.toNat 32 fun l k =>
      let g : Nf := { fp32 with rnd := nf.rnd, sat := nf.sat, ftz := nf.ftz }
      roundVal g (sumVals nf.rnd (decodeElem g (field (s.rdV d.toNat l) 32 k) :: (List.range 4).map fun j =>
        (x l (4 * k + j)).mul (y l (4 * k + j)))) % 2 ^ 32) ∧
    WritesFields (.vrint h f d a) s h d.toNat nf.cont (fun l k =>
      (match x l k with
        | .fin neg m e => roundSel nf (.fin neg (rndAt m e 0 nf.rnd neg) 0)
        | v => roundSel nf v) % 2 ^ nf.cont)

namespace Sys2Proof.Claims

/-- The condition of cmp on an order that is none where an operand is NaN or NaR (R181). -/
def ordered (q : BitVec 3) (o : Option Ordering) : Bool :=
  match q.toNat, o with
  | 1, none => true
  | 6, none => true
  | _, none => false
  | 0, some o => decide (o = .eq)
  | 1, some o => decide (o ≠ .eq)
  | 2, some o => decide (o = .lt)
  | 3, some o => decide (o ≠ .gt)
  | 4, some o => decide (o = .gt)
  | 5, some o => decide (o ≠ .lt)
  | 6, some _ => false
  | _, some _ => true

/-- The descriptors that each typed instruction accepts (R175). -/
def acceptRows (h : Hdr) (f : BitVec 2) (d a b : BitVec 6) (p q : BitVec 3) : List (Instr × (Nf → Bool)) :=
  let all (nf : Nf) : Bool := decide (nf.kind ≤ 3)
  let ints (nf : Nf) : Bool := decide (nf.kind ≤ 1)
  [(.vadd h f d a b, all), (.vsub h f d a b, all), (.vmul h f d a b, all), (.vfma h f d a b, all), (.vmin h f d a b, all),
   (.vmax h f d a b, all), (.vamin h f d a b, all), (.vamax h f d a b, all), (.vclamp h f d a b, all),
   (.vabs h f d a, all), (.vneg h f d a, all), (.vrint h f d a, all), (.vcmp h f p q a b, all),
   (.vmulh h f d a b, ints), (.vshl h f d a b, ints), (.vshr h f d a b, ints),
   (.vdp4 h f d a b, fun nf => all nf && (nf.width == 8 || (nf.kind == 2 && nf.width == 6)))]

end Sys2Proof.Claims

/-- R181: cmp compares sub-element 0 of a and b and writes the predicate of each active lane; p0 discards it. R175,
R52: a typed instruction whose descriptor is outside its row traps FORMAT at its own word when some lane is active;
with no lane active it has no effect whatever the descriptor. -/
def Obligations.CompareResults : Prop :=
  (∀ (s : State) (h : Hdr) (f : BitVec 2) (p q : BitVec 3) (a b : BitVec 6) (nf : Nf),
    nfValid (s.rdNf f.toNat) = true → nfOf (s.rdNf f.toNat) = nf → nf.kind ≤ 3 → s.taken h = true →
    WritesP (.vcmp h f p q a b) s p.toNat (s.active h) fun l =>
      ordered q
        (if nf.kind ≤ 1 then
          some (compare (intField nf.kind nf.width (s.rdV a.toNat l) 0) (intField nf.kind nf.width (s.rdV b.toNat l) 0))
        else (decodeElem nf (field (s.rdV a.toNat l) nf.cont 0)).cmp (decodeElem nf (field (s.rdV b.toNat l) nf.cont 0)))) ∧
  (∀ (s : State) (h : Hdr) (f : BitVec 2) (d a b : BitVec 6) (p q : BitVec 3),
    ∀ e ∈ acceptRows h f d a b p q,
      (s.taken h = false → exec e.1 s = .next s) ∧
      (s.taken h = true → e.2 (nfOf (s.rdNf f.toNat)) = false → exec e.1 s = .next (s.trapHere .format)))

/-- R183: `sel` writes every lane of the slot's mask whatever the guard: a where the guard is true and b otherwise;
lanes outside the mask keep their values, and under guard p0 it copies a. -/
def Obligations.SelectResult : Prop :=
  ∀ (s : State) (h : Hdr) (d a b : BitVec 6),
    WritesV (.vsel h d a b) s d.toNat s.inMask
      (fun l => if s.rdP h.p.toNat l != h.n then s.rdV a.toNat l else s.rdV b.toNat l) ∧
    (h.p = 0#3 → h.n = false → WritesV (.vsel h d a b) s d.toNat s.inMask (s.rdV a.toNat))

/-- R184, R163 to R165: `cvt` fills part q of d from a narrowing, keeping the rest, or takes part q of a; each element
is converted by its value. A ratio above 4 or a part that does not exist traps FORMAT. R185: `pack` interleaves
nibbles of a and b into the bytes of a pair; `unpack` takes bytes apart into nibbles, and 2-bit fields and nibbles
into 8-bit containers. -/
def Obligations.ConversionResults : Prop :=
  (∀ (s : State) (h : Hdr) (d a : BitVec 6) (sn tn q : BitVec 2) (src dst : Nf),
    nfValid (s.rdNf sn.toNat) = true → nfValid (s.rdNf tn.toNat) = true → nfOf (s.rdNf sn.toNat) = src →
    nfOf (s.rdNf tn.toNat) = dst → s.taken h = true →
    let ratio := max src.cont dst.cont / min src.cont dst.cont
    let conv (e : Nat) : Nat :=
      (if s.rdNf sn.toNat = s.rdNf tn.toNat then e % 2 ^ src.width
        else if src.kind ≤ 1 ∧ dst.kind ≤ 1 then
          intResult dst.kind dst.width dst.sat (intField src.kind src.width (BitVec.ofNat 64 e) 0)
        else roundVal dst (decodeElem src e)) % 2 ^ dst.cont
    (4 < ratio ∨ ratio ≤ q.toNat → exec (.vcvt h d a sn tn q) s = .next (s.trapHere .format)) ∧
    (ratio ≤ 4 → q.toNat < ratio →
      WritesFields (.vcvt h d a sn tn q) s h d.toNat dst.cont fun l k =>
        if dst.cont < src.cont then
          let n := 64 / src.cont
          if q.toNat * n ≤ k ∧ k < q.toNat * n + n then conv (field (s.rdV a.toNat l) src.cont (k - q.toNat * n))
          else field (s.rdV d.toNat l) dst.cont k
        else conv (field (s.rdV a.toNat l) src.cont (q.toNat * (64 / dst.cont) + k)))) ∧
  (∀ (s : State) (h : Hdr) (d a b : BitVec 6),
    let x (l : Nat) : Word := s.rdV a.toNat l
    WritesGroup (.vpack h d a b) s d.toNat 2 (s.active h) (fun r l =>
      ofBytes fun i => field (x l) 4 (8 * r + i) + 16 * field (s.rdV b.toNat l) 4 (8 * r + i)) ∧
    WritesGroup (.unpackNibbles h d a) s d.toNat 2 (s.active h) (fun r l =>
      ofBytes fun j =>
        let byte (i : Nat) : Nat := if i < 8 then field (x l) 8 i else field (s.rdV (a.toNat + 1) l) 8 (i - 8)
        byte (2 * j) / 16 ^ r % 16 + 16 * (byte (2 * j + 1) / 16 ^ r % 16)) ∧
    WritesGroup (.unpackHighBits h d a) s d.toNat 4 (s.active h) (fun r l => ofBytes fun i => 16 * field (x l) 2 (8 * r + i)) ∧
    WritesGroup (.unpackWiden h d a) s d.toNat 2 (s.active h) (fun r l => ofBytes fun i => field (x l) 4 (8 * r + i)))

namespace Sys2Proof.Claims

/-! ## Special functions and cross-lane words (spec/09) -/

/-- The special function words in the order of R188, with the function's number. -/
def specialRows (h : Hdr) (d a : BitVec 6) (f : BitVec 2) : List (Instr × Nat) :=
  [(.rcp h d a f, 0), (.rsqrt h d a f, 1), (.sqrt h d a f, 2), (.exp2 h d a f, 3), (.log2 h d a f, 4),
   (.sin h d a f, 5), (.cos h d a f, 6), (.tanh h d a f, 7), (.erf h d a f, 8), (.exd h d a f, 9)]

/-- The exact results that R190 fixes for the value x of an element of a, and for `exd` the value z of the old d. -/
def specialCase (fn : Nat) (x z : Val) : Option Val :=
  let pow (v : Val) : Option Val :=
    match v with
    | .nan => some .nan
    | .inf s => some (if s then .fin false 0 0 else .inf false)
    | .fin _ 0 _ => some (.fin false 1 0)
    | _ => none
  match fn, x with
  | 9, _ => pow (sumVals 0 [x, z.neg])
  | 3, _ => pow x
  | _, .nan => some .nan
  | 0, .inf s => some (.fin s 0 0)
  | 0, .fin s 0 _ => some (.inf s)
  | 1, .inf s => some (if s then .nan else .fin false 0 0)
  | 1, .fin s 0 _ => some (.inf s)
  | 1, .fin true _ _ => some .nan
  | 2, .inf s => some (if s then .nan else .inf false)
  | 2, .fin s 0 _ => some (.fin s 0 0)
  | 2, .fin true _ _ => some .nan
  | 4, .inf s => some (if s then .nan else .inf false)
  | 4, .fin _ 0 _ => some (.inf true)
  | 4, .fin true _ _ => some .nan
  | 4, .fin false m e => if m = 2 ^ Nat.log2 m then some (Val.ofInt (Nat.log2 m + e)) else none
  | 5, .inf _ => some .nan
  | 5, .fin s 0 _ => some (.fin s 0 0)
  | 6, .inf _ => some .nan
  | 6, .fin _ 0 _ => some (.fin false 1 0)
  | 7, .inf s => some (.fin s 1 0)
  | 7, .fin s 0 _ => some (.fin s 0 0)
  | 8, .inf s => some (.fin s 1 0)
  | 8, .fin s 0 _ => some (.fin s 0 0)
  | _, _ => none

/-- The fields of fp32, fp16 and bf16 that a special function's descriptor must have (R147, R188). -/
def SpecialFormat (nf : Nf) : Prop :=
  nf.kind = 2 ∧ nf.specials = 0 ∧
    ((nf.width = 32 ∧ nf.ew = 8 ∧ nf.fw = 23 ∧ nf.bias = 127) ∨ (nf.width = 16 ∧ nf.ew = 5 ∧ nf.fw = 10 ∧ nf.bias = 15) ∨
      (nf.width = 16 ∧ nf.ew = 8 ∧ nf.fw = 7 ∧ nf.bias = 127))

/-- A finite value as a rational number. -/
def ratOf : Val → Rat
  | .fin neg m e => (if neg then -1 else 1) * m * 2 ^ e
  | _ => 0

/-- The exact value of a function that R189 bounds, as the model encloses it (log 16), for the value x of an element of a
and, for `exd`, the value z of the old d: none where a power of two has an integer exponent. -/
def enclosed (fn : Nat) (x z : Val) : Option Val :=
  let power (s : Bool) (m : Nat) (e : Int) : Option Val :=
    if 0 ≤ e ∨ m % 2 ^ (-e).toNat = 0 then none else some (exp2Val (fxSigned s m e))
  match fn, x with
  | 0, .fin s m e => some (rcpVal s m e)
  | 1, .fin _ m e => some (rsqrtVal m e)
  | 3, .fin s m e => power s m e
  | 4, .fin _ m e => some (log2Val m e)
  | 5, .fin s m e => some (sinVal s m e)
  | 6, .fin _ m e => some (cosVal m e)
  | 7, .fin s m e => some (tanhVal s m e)
  | 8, .fin s m e => some (erfVal s m e)
  | 9, v =>
    match sumVals 0 [v, z.neg] with
    | .fin s m e => power s m e
    | _ => none
  | _, _ => none

/-- The unit in the last place of a format at an exact value. -/
def ulpAt (nf : Nf) : Val → Rat
  | .fin _ m e => 2 ^ (if m = 0 then 1 - nf.bias - nf.fw else max (Nat.log2 m + e) (1 - nf.bias) - nf.fw)
  | _ => 0

/-- The bound of R189 on the distance of a result v from the exact value y of a function at x. -/
def errorBound (nf : Nf) (fn : Nat) (x y v : Val) : Rat :=
  let single := nf.width == 32
  let subnormal (r : Rat) : Bool := decide (r ≠ 0) && decide (r.abs < 2 ^ (1 - nf.bias))
  if single && (subnormal (ratOf y) || subnormal (ratOf v)) then 2 ^ (1 - nf.bias - nf.fw)
  else if fn = 4 ∧ single = true ∧ 1 / 2 ≤ ratOf x ∧ ratOf x ≤ 2 then 2 ^ (-22 : Int)
  else if (fn = 5 ∨ fn = 6) ∧ 2 ^ 16 < (ratOf x).abs then 2 ^ (if single then (-22 : Int) else -10)
  else (if single = true ∧ 5 ≤ fn ∧ fn ≤ 8 then 2 else 1) * ulpAt nf y

/-- The immediate of a format I word with its prefixes, unsigned (R49). -/
def immediateU (pfx : List (BitVec 18)) (i : BitVec 6) : Nat :=
  match pfx with
  | [] => i.toNat
  | [p] => (p ++ i).toNat
  | p :: q :: _ => (p ++ (q ++ i)).toNat

/-- The source of element e of E under a mode of shfli (R193), where it lies in the warp. -/
def shiftedFrom (mode dist E e : Nat) : Option Nat :=
  match mode with
  | 0 => if dist ≤ e then some (e - dist) else none
  | 1 => if e + dist < E then some (e + dist) else none
  | 2 => if e ^^^ dist < E then some (e ^^^ dist) else none
  | _ => some (((e : Int) - dist) % E).toNat

/-- Element e of width w of `V[r]` in warp order (R191). -/
def warpField (s : State) (r w e : Nat) : Nat := field (s.rdV r (e / (64 / w))) w (e % (64 / w))

/-- One combination of a reduction (R196). -/
def combination (nf : Nf) (o : Nat) (x y : Nat) : Nat :=
  let int (f : Int → Int → Int) : Nat :=
    intResult nf.kind nf.width nf.sat
      (f (intField nf.kind nf.width (BitVec.ofNat 64 x) 0) (intField nf.kind nf.width (BitVec.ofNat 64 y) 0))
  let u := decodeElem nf x
  let v := decodeElem nf y
  match o with
  | 0 => if nf.kind ≤ 1 then int (· + ·) else roundVal nf (sumVals nf.rnd [u, v])
  | 1 => if nf.kind ≤ 1 then int min else roundSel nf (u.min v)
  | 2 => if nf.kind ≤ 1 then int max else roundSel nf (u.max v)
  | 3 => x &&& y
  | 4 => x ||| y
  | _ => x ^^^ y

/-- T(lo, lo + 2^k) of R197. -/
def tree (comb : Nat → Nat → Nat) (x : Nat → Option Nat) : Nat → Nat → Option Nat
  | 0, lo => x lo
  | k + 1, lo =>
    match tree comb x k lo, tree comb x k (lo + 2 ^ k) with
    | some a, some b => some (comb a b)
    | some a, none => some a
    | none, b => b

/-- The left fold of the positions present among those listed (R198). -/
def runningFold (comb : Nat → Nat → Nat) (xs : List Nat) : Option Nat :=
  match xs with
  | [] => none
  | v :: vs => some (vs.foldl comb v)

/-- The element at a position where its lane is active; arithmetic ignores the high bits of a 6-bit field (R159, R196). -/
def presentAt (s : State) (h : Hdr) (nf : Nf) (o r e : Nat) : Option Nat :=
  if s.active h (e / (64 / nf.cont)) then
    some (if o ≤ 2 then warpField s r nf.cont e % 2 ^ nf.width else warpField s r nf.cont e)
  else none

end Sys2Proof.Claims

/-- R188, R190: a special function of an accepted format writes each active lane; the special cases give the result of
the table, with exact powers of two in `exp2`, `exd` and `log2`; any other descriptor traps FORMAT where some lane is
active. The root is rounded once, by the descriptor's mode, from a bracket of the exact root. Every other result is the
rounding of a value within R189's bound of the exact one, in [−1, 1] for the four bounded functions, or the exact
value's own rounding: within the bound the value is free, a power of two that the format does not hold is rounded to
nearest, and the exact value is known to 370 binary places, which is the model's choice (log 6, log 16). -/
def Obligations.SpecialFunctionResults : Prop :=
  ∀ (s : State) (h : Hdr) (d a : BitVec 6) (f : BitVec 2) (nf : Nf), nfOf (s.rdNf f.toNat) = nf → s.taken h = true →
    ∀ e ∈ specialRows h d a f,
      (¬ SpecialFormat nf → exec e.1 s = .next (s.trapHere .format)) ∧
      (SpecialFormat nf → ∃ out : Nat → Word, WritesV e.1 s d.toNat (s.active h) out ∧
        ∀ l < 32, s.active h l = true → ∀ k < 64 / nf.cont,
          let x := decodeElem nf (field (s.rdV a.toNat l) nf.cont k)
          let z := decodeElem nf (field (s.rdV d.toNat l) nf.cont k)
          (∀ y, specialCase e.2 x z = some y →
            field (out l) nf.cont k = roundVal { nf with rnd := 0 } y % 2 ^ nf.cont) ∧
          ∀ n : Int, -4096 ≤ n → n ≤ 4096 → n ≠ 0 →
            (∃ j : Nat, (e.2 = 3 ∧ x = .fin (decide (n < 0)) (n.natAbs * 2 ^ j) (-j)) ∨
              (e.2 = 9 ∧ sumVals 0 [x, z.neg] = .fin (decide (n < 0)) (n.natAbs * 2 ^ j) (-j))) →
            field (out l) nf.cont k = roundVal { nf with rnd := 0 } (.fin false 1 n) % 2 ^ nf.cont) ∧
      (SpecialFormat nf → ∃ out : Nat → Word, WritesV e.1 s d.toNat (s.active h) out ∧
        ∀ l < 32, s.active h l = true → ∀ k < 64 / nf.cont,
          let x := decodeElem nf (field (s.rdV a.toNat l) nf.cont k)
          let z := decodeElem nf (field (s.rdV d.toNat l) nf.cont k)
          (∀ (m : Nat) (i : Int), e.2 = 2 → x = .fin false m i → m ≠ 0 →
            ∃ (q : Nat) (j : Int), 2 ^ 60 ≤ q ∧ (q * 2 ^ j : Rat) * (q * 2 ^ j) ≤ ratOf x ∧
              ratOf x < ((q + 1) * 2 ^ j : Rat) * ((q + 1) * 2 ^ j) ∧
              field (out l) nf.cont k =
                roundVal nf (.fin false (2 * q + if (q * 2 ^ j : Rat) * (q * 2 ^ j) = ratOf x then 0 else 1) (j - 1)) %
                  2 ^ nf.cont) ∧
          ∀ y, specialCase e.2 x z = none → enclosed e.2 x z = some y →
            ∃ v, field (out l) nf.cont k = roundVal { nf with rnd := 0 } v % 2 ^ nf.cont ∧
              (v = y ∨ ((ratOf v - ratOf y).abs ≤ errorBound nf e.2 x y v + 2 ^ (-370 : Int) * (1 + (ratOf y).abs) ∧
                (5 ≤ e.2 → e.2 ≤ 8 → (ratOf v).abs ≤ 1))))

/-- R192 to R194, R199: moves of elements between the active lanes of the slot. R195: votes over the active lanes,
into a predicate of the active lanes or an s-register. -/
def Obligations.LaneMoves : Prop :=
  (∀ (s : State) (h : Hdr) (d a b : BitVec 6),
    let x (l : Nat) : Word := s.rdV a.toNat l
    WritesFields (.shfl h d a b) s h d.toNat 8 (fun l j =>
      let i := field (s.rdV b.toNat l) 8 j
      if s.active h (i / 8) then field (x (i / 8)) 8 (i % 8) else field (s.rdV d.toNat l) 8 j) ∧
    (let i := immediateU s.mic.pfx b
     let w := 8 * 2 ^ (i % 4)
     WritesFields (.shfli h d a b) s h d.toNat w fun l k =>
       match shiftedFrom (i / 4 % 4) (i / 16 % 256) (32 * (64 / w)) (l * (64 / w) + k) with
       | some e => if s.active h (e / (64 / w)) then warpField s a.toNat w e else field (s.rdV d.toNat l) w k
       | none => field (s.rdV d.toNat l) w k) ∧
    (let i := (s.rdS b.toNat).toNat
     let w := 8 * 2 ^ (i / 2 ^ 8 % 4)
     (s.taken h = true → i < 2 ^ 10 → i % 2 ^ 8 < 32 * (64 / w) →
       WritesFields (.bcast h d a b) s h d.toNat w fun _ _ => warpField s a.toNat w (i % 2 ^ 8)) ∧
     (s.taken h = true → 2 ^ 10 ≤ i ∨ 32 * (64 / w) ≤ i % 2 ^ 8 → exec (.bcast h d a b) s = .next (s.trapHere .bounds))) ∧
    (∀ w : BitVec 2, ∃ out : Nat → Word, WritesV (.vmatch h d a w) s d.toNat (s.active h) out ∧
      ∀ l < 32, ∀ j, (out l).getLsbD j =
        (decide (j < 32) && s.active h j && decide (field (x j) (8 * 2 ^ w.toNat) 0 = field (x l) (8 * 2 ^ w.toNat) 0))) ∧
    WritesV (.vcompact h d a) s d.toNat
      (fun l => s.inMask l && decide ((List.range l).countP s.inMask < (s.activeLanes h).length))
      (fun l => x ((s.activeLanes h).getD ((List.range l).countP s.inMask) 0))) ∧
  (∀ (s : State) (h : Hdr) (d a : BitVec 6) (p q : BitVec 3),
    WritesP (.voteOr h p q) s p.toNat (s.active h)
      (fun _ => (List.range 32).any fun l => s.active h l && s.rdP q.toNat l) ∧
    WritesP (.voteAnd h p q) s p.toNat (s.active h)
      (fun _ => (List.range 32).all fun l => !s.active h l || s.rdP q.toNat l) ∧
    WritesP (.voteSame h p a) s p.toNat (s.active h)
      (fun m => (List.range 32).all fun l => !s.active h l || decide (s.rdV a.toNat l = s.rdV a.toNat m)) ∧
    (s.taken h = true →
      (∃ x : Word, WritesS (.voteMask h d q) s d.toNat x ∧
        ∀ l, x.getLsbD l = (decide (l < 32) && s.active h l && s.rdP q.toNat l)) ∧
      WritesS (.voteCnt h d q) s d.toNat
        (BitVec.ofNat 64 ((List.range 32).countP fun l => s.active h l && s.rdP q.toNat l))))

/-- R196 to R198: reductions by the fixed tree, over lanes or the whole warp; running folds; keyed reductions. A
descriptor that is not of kinds 0 to 3, or that has 16 elements in a lane, traps FORMAT. -/
def Obligations.WarpReductions : Prop :=
  ∀ (s : State) (h : Hdr) (d a : BitVec 6) (m : BitVec 1) (o : BitVec 3) (f : BitVec 2) (nf : Nf),
    nfOf (s.rdNf f.toNat) = nf → o.toNat ≤ 5 → s.taken h = true →
    (3 < nf.kind ∨ nf.cont = 4 →
      exec (.red h d a m o f) s = .next (s.trapHere .format) ∧ exec (.scan h d a m o f) s = .next (s.trapHere .format) ∧
        exec (.redseg h d a o f) s = .next (s.trapHere .format)) ∧
    (nfValid (s.rdNf f.toNat) = true → nf.kind ≤ 3 → nf.cont ≠ 4 →
      let n := 64 / nf.cont
      let comb := combination nf o.toNat
      let x := presentAt s h nf o.toNat a.toNat
      WritesFields (.red h d a m o f) s h d.toNat nf.cont (fun _ k =>
        (if m = 0#1 then tree comb (fun l => x (l * n + k)) 5 0 else tree comb x (5 + Nat.log2 n) 0).getD 0 % 2 ^ nf.cont) ∧
      WritesFields (.scan h d a m o f) s h d.toNat nf.cont (fun l k =>
        (runningFold comb ((List.range (l * n + k + (1 - m.toNat))).filterMap x)).getD (scanIdentity nf o.toNat) % 2 ^ nf.cont) ∧
      WritesFields (.redseg h d a o f) s h d.toNat nf.cont (fun l k =>
        (tree comb (fun e => if warpField s d.toNat nf.cont e = warpField s d.toNat nf.cont (l * n + k) then x e else none)
          (5 + Nat.log2 n) 0).getD 0 % 2 ^ nf.cont))

namespace Sys2Proof.Claims

/-! ## Accesses of memory -/

/-- The offset that the prefix of a format M word gives (R49). -/
def prefixOffset (s : State) : Int :=
  match s.mic.pfx with
  | [] => 0
  | p :: _ => p.toInt

/-- The home slices are at rest: no release record, no registered reduction, no open read window, no poisoned word, and no
DRAM burst that is being repeated. -/
def QuietHome (s : State) : Prop :=
  s.records = [] ∧ s.recordOrder = [] ∧ s.holders = [] ∧ s.windows = [] ∧ s.poison = [] ∧ s.attempts = []

/-- A wait at a barrier object (R313). -/
def AtObject (w : Wait) : Prop := ∃ b o tok limit d cls, w = .bowait b o tok limit d cls

/-- The scratchpads hold what was written to them: no registered reduction and no poisoned word. -/
def SettledScratch (s : State) : Prop :=
  (∀ c, (s.core c).redHolders = []) ∧ (∀ b, (s.block b).poison = []) ∧ ∀ k, (s.stack k).poison = []

/-- The scratchpads are at rest: settled, and no slot waits at a barrier object. -/
def QuietScratch (s : State) : Prop := SettledScratch s ∧ ∀ k x, ¬ AtObject ((s.warp k).micro x).wait

/-- The core's L1 is in order: each line once, its bytes in order and inside the line, unpoisoned, and its clean bytes as
they stand at home; all are lines of this device, no line of it accumulates, and without ways it holds none. -/
def OrderedL1 (s : State) (c : Nat) : Prop :=
  (s.core c).acc = [] ∧ ((s.core c).l1.map (·.line)).Nodup ∧ ((s.core c).carve.ways = 0 → (s.core c).l1 = []) ∧
    ∀ l ∈ (s.core c).l1, l.line < 2 ^ 57 ∧ l.poison = [] ∧ Tab.sorted l.bytes = true ∧
      ∀ e ∈ l.bytes, e.1 < 128 ∧ (e.2.2 = false → e.2.1 = s.mem.byte (128 * l.line + e.1))

/-- A byte of global memory as a core sees it: from its L1 where the byte is valid there, or from its home (R264). -/
def coreByte (s : State) (c p : Nat) : Byte :=
  match ((s.core c).l1.find? fun l => l.line == p / 128).bind fun l => l.bytes.find? fun e => e.1 == p % 128 with
  | some e => e.2.1
  | none => s.mem.byte p

/-- An access of the issuing warp at a virtual address goes to p in this device's memory through its core's TLB,
inside one line. -/
def ReachesByTlb (s : State) (kind : Kind) (va n p : Nat) : Prop :=
  ∃ e, tlbFind (s.core s.here).tlb s.myCtx va kind = some e ∧ e.phys va = p ∧ p < 2 ^ 64 ∧ p % n = 0

/-- The core sees global memory as before, and a byte at its home has changed, if at all, to what the core held. -/
def SameGlobal (s t : State) (c : Nat) : Prop :=
  ∀ p, coreByte t c p = coreByte s c p ∧ (t.mem.byte p = s.mem.byte p ∨ t.mem.byte p = coreByte s c p)

/-- The number that n bytes at p make as a core sees them, the first least significant. -/
def seenNum (s : State) (c p n : Nat) : Nat := ((List.range n).map fun i => (coreByte s c (p + i)).toNat * 256 ^ i).sum

/-- No reply of another device has brought poison to the issuing word. -/
def Unpoisoned (s : State) : Prop := ∀ a, s.mic.wake ≠ .poisoned a

/-- A word of the warp may access memory as a warp of the core at rest does: the home slices and the L1 are in order, no
watchpoint stands, no snapshot is taken, the block is no audit replay, and no reply has brought poison. -/
def PlainAccess (s : State) : Prop :=
  QuietHome s ∧ OrderedL1 s s.here ∧ (s.block s.myBlock).watch = [] ∧ (s.block s.myBlock).replay = false ∧
    s.myLaunch.record.snap = false ∧ s.cw.rel = [] ∧ Unpoisoned s

/-! ## Control and system words (spec/05, spec/19) -/

/-- Entry i of the divergence stack lies at p in device memory (R32, R94). -/
def EntryAt (s : State) (kind : Kind) (i p : Nat) : Prop :=
  ReachesByTlb s kind (s.cw.pbase + BitVec.ofNat 64 (16 * i)).toNat 16 p

/-- The 16 bytes of an entry as a number, the first byte least significant (R94). -/
def entryNum (e : Entry) : Nat :=
  e.pc + (if e.frame then 2 ^ 31 else 0) + e.mask.toNat * 2 ^ 32 + e.rpc.toNat * 2 ^ 64 + e.arr.toNat * 2 ^ 96

/-- The divergence stack holds these entries, the top one first (R94, R95). -/
def StackHolds (s : State) (es : List Entry) : Prop :=
  es.length = s.cw.dsp ∧ es.length ≤ 64 ∧ ∀ i < es.length, ∃ p e, EntryAt s .read i p ∧ es[es.length - 1 - i]? = some e ∧
    e.pc < 2 ^ 31 ∧ seenNum s s.here p 16 = entryNum e

/-- Refill (R99): the paths on top of the stack take the empty slots, A before B; a FRAME stops it. A path that breaks R95
is a trap. -/
def refilled : Nat → Ctl → List Entry → Option (Ctl × List Entry)
  | 0, c, es => some (c, es)
  | _, c, [] => some (c, [])
  | n + 1, c, e :: es =>
    if (c.a.live ∧ c.b.live) ∨ e.frame = true then some (c, e :: es)
    else if e.arr ≠ 0#32 ∨ e.mask = 0#32 ∨ e.rpc ≠ c.rpc then none
    else refilled n (c.setPath c.a.live { live := true, pc := e.pc, mask := e.mask }) es

/-- The region's lanes have all arrived or exited (R98). -/
abbrev coveredRegion (c : Ctl) : Prop := c.rpc ≠ 0xFFFFFFFF#32 ∧ c.rmask &&& ~~~(c.rarr ||| c.exited) = 0#32

/-- The loop of `settle` (R98): completed regions are closed from their frames, the merged path taking an empty slot. -/
def closedRegions (c : Ctl) : List Entry → Option (Ctl × List Entry)
  | [] => if coveredRegion c then none else some (c, [])
  | e :: es =>
    if coveredRegion c then
      if (c.rarr ≠ 0#32 ∧ c.a.live ∧ c.b.live) ∨ e.frame = false then none
      else
        let c := if c.rarr = 0#32 then c
          else c.setPath c.a.live { live := true, pc := c.rpc.toNat + 1, mask := c.rarr }
        closedRegions { c with rpc := e.rpc, rmask := e.mask, rarr := e.arr } es
    else some (c, e :: es)

/-- settle (R98). -/
def settledRegions (c : Ctl) (es : List Entry) : Option (Ctl × List Entry) :=
  match closedRegions c es with
  | none => none
  | some (c, es) =>
    match refilled 2 c es with
    | none => none
    | some (c, es) => if !c.a.live ∧ !c.b.live ∧ c.exited ≠ 0xFFFFFFFF#32 then none else some (c, es)

/-- The word's transfer is pending with a control state, over a divergence stack of a depth; the rest of its warp, but for
an audited launch's store signature, and every other warp are as before (R95, R428). -/
def TransferPending (s t : State) (c : Ctl) (depth : Nat) : Prop :=
  t.cw = { s.cw with pend := some { ctl := c, slotB := s.cur.slotB }, dsp := depth, sig := t.cw.sig } ∧
    ∀ k, k ≠ s.cur.warp → t.warp k = s.warp k

/-- A mask holds exactly the lanes of the slot's mask whose guard is true (R39, R96). -/
def IsTaken (s : State) (h : Hdr) (tk : W32) : Prop := ∀ l < 32, tk.getLsbD l = s.active h l

/-- The per-lane branches with their targets (R48, R100). -/
def branchRows (s : State) (h : Hdr) (o : BitVec 18) (a : BitVec 6) : List (Instr × Int) :=
  [(.bra h o, s.pc + o.toInt), (.brx h a, (s.rdS a.toNat).toNat)]

/-- The value of `S[a]` in a word where a field of 0 names no register (R100). -/
def optional (s : State) (a : BitVec 6) : Word := if a = 0#6 then 0#64 else s.rdS a.toNat

/-- The special registers that `sreg` reads but the counters, with their values: the cycle count as the core stands,
and as the engine the one that executes the word (R28, R29, R121, R129). -/
def specialRegisters (s : State) : List (Nat × Nat) :=
  let b := s.block s.myBlock
  let r := s.myLaunch.record
  [(0x00, s.cw.idx), (0x01, b.lin % r.gridX), (0x02, b.lin / r.gridX % r.gridY), (0x03, b.lin / (r.gridX * r.gridY)),
   (0x04, r.gridX), (0x05, r.gridY), (0x06, r.gridZ), (0x07, b.warps), (0x08, s.cur.warp / 48), (0x09, s.cur.warp / 192),
   (0x0A, s.cur.warp / 3072), (0x0B, s.device), (0x0C, (s.core s.here).cycle.toNat), (0x0D, (s.die (s.cur.warp / 3072)).phase),
   (0x0E, if s.cw.engine = .re ∨ s.cw.engine = .demoting then 1 else 0), (0x0F, if s.cur.slotB then 1 else 0), (0x10, s.mask.toNat),
   (0x11, s.cw.cause.toNat), (0x12, s.cw.taddr.toNat), (0x13, (s.core (s.cur.warp / 48)).rows - 256), (0x14, s.cw.pbase.toNat)]

/-- The counters that count (R123, R272). -/
def IsCounter (n : Nat) : Prop := (0x40 ≤ n ∧ n ≤ 0x52) ∨ (0x60 ≤ n ∧ n ≤ 0x6A) ∨ (0x70 ≤ n ∧ n ≤ 0x74)

/-- The instruction completes, writes x to `NF[r]` and changes no other register and nothing else. -/
def WritesNf (i : Instr) (s : State) (r : Nat) (x : Word) : Prop :=
  ∃ t, exec i s = .next t ∧ OnlyRegisters s t ∧ (∀ q, nfReg t q = if q = r then x else nfReg s q) ∧
    t.cw.regs.v = s.cw.regs.v ∧ t.cw.regs.s = s.cw.regs.s ∧ t.cw.regs.p = s.cw.regs.p

/-- Nothing has changed but the issuing warp, of which the registers and the control state stay, what stands on the
agenda, and which warps of its core hold an RE context or wait for one. -/
def OnlyWarp (s t : State) : Prop :=
  t = { s with warps := t.warps, agenda := t.agenda, cores := t.cores } ∧ (∀ k, k ≠ s.cur.warp → t.warp k = s.warp k) ∧
    (∀ c, t.core c = { s.core c with
      reWarps := (t.core c).reWarps, reWaiting := (t.core c).reWaiting, rises := (t.core c).rises }) ∧
    t.cw.regs = s.cw.regs ∧ t.cw.ctl = s.cw.ctl ∧ SameBytes s t

end Sys2Proof.Claims

/-- R48, R96, R100: `bra` and `brx`. No lane taken: the slot goes to the next packet. All taken: to the target. A part
taken with the other slot empty: the taken lanes take that slot at the target, and the others go on. With both slots
live, the taken lanes are pushed as a waiting path. A target outside 0 to 2^31 − 1 traps BOUNDS. The new control state
is pending until the packet has issued (R428). R100: `call` writes the next packet's index to s63 and goes to its
target, `ret` goes to S[63], and `loop` counts S[d] down and goes to its target until it is zero; each moves the whole
slot, or traps BOUNDS, nothing written, where its target lies outside 0 to 2^31 − 1. -/
def Obligations.BranchResults : Prop :=
  (∀ (s : State) (h : Hdr) (o : BitVec 18) (a : BitVec 6) (tk : W32), IsTaken s h tk →
    let x := s.cur.slotB
    let rest := s.mask &&& ~~~tk
    let stay : Path := { s.path with pc := s.pc + 1 }
    ∀ e ∈ branchRows s h o a,
      (tk = 0#32 → exec e.1 s = .next (s.pending (s.cw.ctl.setPath x stay) .control)) ∧
      (tk ≠ 0#32 → e.2 < 0 ∨ 2 ^ 31 ≤ e.2 → exec e.1 s = .next (s.trapHere .bounds)) ∧
      (tk ≠ 0#32 → 0 ≤ e.2 → e.2 < 2 ^ 31 →
        (rest = 0#32 → exec e.1 s = .next (s.pending (s.cw.ctl.setPath x { s.path with pc := e.2.toNat }) .control)) ∧
        (rest ≠ 0#32 → (s.cw.ctl.path (!x)).live = false →
          exec e.1 s = .next (s.pending ((s.cw.ctl.setPath x { live := true, pc := s.pc + 1, mask := rest }).setPath (!x)
            { live := true, pc := e.2.toNat, mask := tk }) .control)) ∧
        (rest ≠ 0#32 → (s.cw.ctl.path (!x)).live = true →
          (64 ≤ s.cw.dsp → exec e.1 s = .next (s.memTrap ⟨.divStack, s.myAddr.toNat, 0#16⟩)) ∧
          ∀ t, s.push { frame := false, pc := e.2.toNat, mask := tk, rpc := s.cw.ctl.rpc, arr := 0#32 } = .ok t →
            exec e.1 s = .next (t.pending (s.cw.ctl.setPath x { live := true, pc := s.pc + 1, mask := rest }) .control)))) ∧
  (∀ (s : State) (h : Hdr) (o : BitVec 18) (d i : BitVec 6),
    let at_ (pc : Nat) : Ctl := s.cw.ctl.setPath s.cur.slotB { s.path with pc := pc }
    let count := s.rdS d.toNat - 1#64
    (s.taken h = false → ∀ j ∈ [Instr.call h o, .ret h, .loop h d i], exec j s = .next (s.pending (at_ (s.pc + 1)) .control)) ∧
    (s.taken h = true →
      (0 ≤ s.pc + o.toInt → s.pc + o.toInt < 2 ^ 31 → exec (.call h o) s =
        .next ((s.putS 63 (BitVec.ofNat 64 (s.pc + 1))).pending (at_ (s.pc + o.toInt).toNat) .control)) ∧
      (s.pc + o.toInt < 0 ∨ 2 ^ 31 ≤ s.pc + o.toInt → exec (.call h o) s = .next (s.trapHere .bounds)) ∧
      ((s.rdS 63).toNat < 2 ^ 31 → exec (.ret h) s = .next (s.pending (at_ (s.rdS 63).toNat) .control)) ∧
      (2 ^ 31 ≤ (s.rdS 63).toNat → exec (.ret h) s = .next (s.trapHere .bounds)) ∧
      (count = 0#64 → exec (.loop h d i) s = .next ((s.putS d.toNat 0#64).pending (at_ (s.pc + 1)) .control)) ∧
      (count ≠ 0#64 → 0 ≤ s.pc + immediate s.mic.pfx i → s.pc + immediate s.mic.pfx i < 2 ^ 31 → exec (.loop h d i) s =
        .next ((s.putS d.toNat count).pending (at_ (s.pc + immediate s.mic.pfx i).toNat) .control)) ∧
      (count ≠ 0#64 → s.pc + immediate s.mic.pfx i < 0 ∨ 2 ^ 31 ≤ s.pc + immediate s.mic.pfx i →
        exec (.loop h d i) s = .next (s.trapHere .bounds))))

/-- R98, R99, R101: `rcv` parks the other slot's path, pushes the enclosing region as a frame and opens a region over
the lanes of its slot; it traps DIV_STACK where the stack has no room. `join` outside the packet of its region goes on
and refills; in that packet its lanes have arrived, its slot is empty and settle follows. `exit` takes its lanes out
for good and settle follows. A stack that breaks R95 or a settle that R98 forbids traps DIV_STACK. The stack's entries
are read and written through the core's L1. That an `rcv` with a target outside 0 to 2^31 − 1 traps BOUNDS is log 31's
reading, and that the pc field of a frame is not tested is log 54's. -/
def Obligations.RegionResults : Prop :=
  ∀ (s : State) (h : Hdr) (chain : Bool) (o : BitVec 18) (tk : W32), PlainAccess s →
    let x := s.cur.slotB
    let k := s.cw.ctl
    let y := k.path (!x)
    let stay : Path := { s.path with pc := s.pc + 1 }
    let target : Int := s.pc + o.toInt
    let frame : Entry := { frame := true, pc := 0, mask := k.rmask, rpc := k.rpc, arr := k.rarr }
    let parked : Entry := { frame := false, pc := y.pc % 2 ^ 31, mask := y.mask, rpc := k.rpc, arr := 0#32 }
    let opened : Ctl := { (k.setPath x stay).setPath (!x) {} with
      rpc := BitVec.ofInt 32 target, rmask := s.mask, rarr := 0#32 }
    let stackTrap : Out := .next (s.memTrap ⟨.divStack, s.myAddr.toNat, 0#16⟩)
    let wrote (t : State) (ws : List (Nat × Entry)) : Prop := ∀ a, coreByte t s.here a =
      match ws.find? fun w => decide (w.1 ≤ a ∧ a < w.1 + 16) with
      | some w => BitVec.ofNat 8 (entryNum w.2 / 256 ^ (a - w.1))
      | none => coreByte s s.here a
    let follows (i : Instr) (r : Option (Ctl × List Entry)) : Prop :=
      (r = none → exec i s = stackTrap) ∧
      ∀ c es, r = some (c, es) → ∃ t, exec i s = .next t ∧ TransferPending s t c es.length ∧ SameGlobal s t s.here
    (target < 0 ∨ 2 ^ 31 ≤ target → exec (.rcv chain o) s = .next (s.trapHere .bounds)) ∧
    (0 ≤ target → target < 2 ^ 31 →
      (64 < s.cw.dsp + 1 + (if y.live then 1 else 0) → exec (.rcv chain o) s = stackTrap) ∧
      (∀ p, y.live = false → s.cw.dsp < 64 → EntryAt s .write s.cw.dsp p → ∃ t, exec (.rcv chain o) s = .next t ∧
        TransferPending s t opened (s.cw.dsp + 1) ∧ wrote t [(p, frame)]) ∧
      (∀ p q, y.live = true → s.cw.dsp < 63 → EntryAt s .write s.cw.dsp p → EntryAt s .write (s.cw.dsp + 1) q →
        ∃ t, exec (.rcv chain o) s = .next t ∧ TransferPending s t opened (s.cw.dsp + 2) ∧
          wrote t [(q, frame), (p, parked)])) ∧
    ∀ es, StackHolds s es →
      follows (.join chain) (if k.rpc = BitVec.ofNat 32 s.pc ∧ k.rpc ≠ 0xFFFFFFFF#32
        then settledRegions { k.setPath x {} with rarr := k.rarr ||| s.mask } es
        else refilled 2 (k.setPath x stay) es) ∧
      (IsTaken s h tk → follows (.exit h) (if tk = 0#32 then refilled 2 (k.setPath x stay) es
        else
          let rest := s.mask &&& ~~~tk
          settledRegions { k.setPath x (if rest = 0#32 then {} else { live := true, pc := s.pc + 1, mask := rest }) with
            exited := k.exited ||| tk } es))

/-- R381, R383, R384: `trap` and `brk` stop the warp at their own group with SOFTWARE or BREAK and the number they
carry, unless the group runs with the pass flag; `svc` and `stop` come after their packet, whose transfer is pending
with them. -/
def Obligations.TrapWordResults : Prop :=
  ∀ (s : State) (h : Hdr) (a i : BitVec 6),
    let next : Ctl := s.cw.ctl.setPath s.cur.slotB { s.path with pc := s.pc + 1 }
    let number : Word := optional s a + BitVec.ofNat 64 (immediateU s.mic.pfx i)
    (s.taken h = false ∨ s.cw.pass = true → exec (.trap h a i) s = .next s ∧ exec (.brk h i) s = .next s) ∧
    (s.taken h = true → s.cw.pass = false →
      exec (.trap h a i) s = .next (s.takeTrap s.cur { cause := .software, taddr := number, waddr := s.myAddr, pass := true }) ∧
      exec (.brk h i) s = .next (s.takeTrap s.cur
        { cause := .break, taddr := BitVec.ofNat 64 (immediateU s.mic.pfx i), waddr := s.myAddr, pass := true })) ∧
    exec (.svc h a i) s = .next (s.pending next (if s.taken h then .svc number else .control)) ∧
    exec (.stop h) s = .next (s.pending next (if s.taken h then .stop else .control))

/-- R381, R383, R385: taking a trap stops the warp with its cause, trap address, word address and syndrome recorded and
its resume point at the first word of the group, begins a save of its block with reason trap, and leaves every
register, every other block's warps and every byte of memory as they were. -/
def Obligations.TrapEntry : Prop :=
  ∀ (s : State) (t : Turn) (i : TrapInfo), i.cause ≠ .poison →
    let w := s.warp t.warp
    let u := s.takeTrap t i
    (u.warp t.warp).stat = .stopped ∧
    (u.warp t.warp).cause = BitVec.ofNat 8 (i.cause.code + if i.rewritten then 0x80 else 0) ∧
    (u.warp t.warp).taddr = i.taddr ∧ (u.warp t.warp).waddr = i.waddr ∧ (u.warp t.warp).synd = i.synd ∧
    ((u.warp t.warp).micro t.slotB).word = (w.micro t.slotB).group ∧
    (w.block ∈ s.members w.block → (u.block w.block).saving = some .trap) ∧
    (∀ k, (u.warp k).regs = (s.warp k).regs ∧ (u.warp k).ctl = (s.warp k).ctl) ∧
    (∀ k, (s.warp k).block ∉ s.members w.block → k ≠ t.warp → u.warp k = s.warp k) ∧ SameBytes s u

/-- R49, R51, R102 to R104, R119: a `nop` changes nothing, and an `imx` keeps its payload for the word it attaches to;
waits, hints and the npr span act on the issuing warp alone, and a hint on its claim to an RE context. The agenda is the
model's own (log 3). -/
def Obligations.WaitAndHintResults : Prop :=
  ∀ (s : State) (h : Hdr) (a i : BitVec 6),
    (∀ c, exec (.nop c) s = .next s) ∧
    (∀ x, exec (.imx x) s = .next (s.setMic { s.mic with pfx := s.mic.pfx ++ [x] })) ∧
    (s.taken h = false → ∀ j ∈ [Instr.yield h, .sleep h a i, .hintPromote h, .hintDemote h, .nprOn h, .nprOff h],
      exec j s = .next s) ∧
    (s.taken h = true →
      (∃ t, exec (.yield h) s = .next t ∧ OnlyWarp s t ∧ t.cw.yielding = true) ∧
      (let n := min ((optional s a).toNat + immediateU s.mic.pfx i) (2 ^ 32 - 1)
       ∃ t, exec (.sleep h a i) s = .next t ∧ OnlyWarp s t ∧ t.cw.sleep = (if n = 0 then s.cw.sleep else n) ∧
        (n ≠ 0 → Instr.sleepExpire s.cur.warp ∈ t.agenda)) ∧
      (∃ t, exec (.hintPromote h) s = .next t ∧ OnlyWarp s t ∧
        (s.promotable s.cur.warp = true → s.cw.requested = false →
          t.cw.requested = true ∧ Instr.reContextGrant s.cur.warp ∈ t.agenda) ∧
        (s.promotable s.cur.warp = false ∨ s.cw.requested = true → t = s)) ∧
      (∃ t, exec (.hintDemote h) s = .next t ∧ OnlyWarp s t ∧ t.cw.requested = false ∧
        (s.cw.holds = [] → s.cw.trailing = [] → s.cw.sole = false → s.cw.engine = .re →
          t.cw.engine = .demoting ∧ Instr.demotionComplete s.cur.warp ∈ t.agenda)) ∧
      (∃ t, exec (.nprOn h) s = .next t ∧ OnlyWarp s t ∧ t.cw.npr = true ∧ (s.cw.npr = false → t.cw.nprCount = 0) ∧
        (s.cw.npr = true → t = s)) ∧
      (∃ t, exec (.nprOff h) s = .next t ∧ OnlyWarp s t ∧ t.cw.npr = false))

/-- R28, R29, R105, R106, R123, R146, R147: special registers and number-format registers. `sreg` of a number that names
none, `sregw` of one that may not be written, and `setnf` of an invalid descriptor trap. The cycle count and the
counters are those of the cycle in which the word's group has been dispatched; how far they have moved on by then the
model leaves free (log 4). -/
def Obligations.SpecialRegisterResults : Prop :=
  ∀ (s : State) (h : Hdr) (d a i : BitVec 6) (f : BitVec 2), s.taken h = true →
    let n := (optional s a).toNat + immediateU s.mic.pfx i
    (∀ e ∈ specialRegisters s, n = e.1 → WritesS (.sreg h d a i) s d.toNat (BitVec.ofNat 64 e.2)) ∧
    (IsCounter n → WritesS (.sreg h d a i) s d.toNat (Tab.get 0#64 (s.core s.here).counters n)) ∧
    (0x40 ≤ n → n ≤ 0x7F → ¬ IsCounter n → WritesS (.sreg h d a i) s d.toNat 0#64) ∧
    (0x14 < n ∧ n < 0x40 ∨ 0x7F < n → exec (.sreg h d a i) s = .next (s.trapHere .illegal)) ∧
    (n = 0x11 → exec (.sregw h d a i) s = .next (s.setCw { s.cw with cause := (s.rdS d.toNat).truncate 8 })) ∧
    (n = 0x12 → exec (.sregw h d a i) s = .next (s.setCw { s.cw with taddr := s.rdS d.toNat })) ∧
    (IsCounter n → ∃ t, exec (.sregw h d a i) s = .next t ∧ t.warps = s.warps ∧ SameBytes s t ∧
      ∀ m, Tab.get 0#64 (t.core s.here).counters m = if m = n then s.rdS d.toNat else Tab.get 0#64 (s.core s.here).counters m) ∧
    (0x40 ≤ n → n ≤ 0x7F → ¬ IsCounter n → exec (.sregw h d a i) s = .next s) ∧
    (n ≤ 0x10 ∨ (0x13 ≤ n ∧ n < 0x40) ∨ 0x7F < n → exec (.sregw h d a i) s = .next (s.trapHere .illegal)) ∧
    (i.toNat ≤ 20 → WritesNf (.setnfCode h f i) s f.toNat (Config.standardNf.getD i.toNat 0#64)) ∧
    (nfValid (s.rdS a.toNat) = true → WritesNf (.setnfReg h f a) s f.toNat (s.rdS a.toNat)) ∧
    (nfValid (s.rdS a.toNat) = false → exec (.setnfReg h f a) s = .next (s.trapHere .format))

/-- R107, R402: `icinv` takes the context's packets in a range of bytes, or all of them where the range has 2^32 bytes or
more, out of every core's instruction cache and out of the slots of every warp that hold such a packet of which no word
has issued; a length of 0 has no effect. Behind a release fence of `.dev` or `.dom` scope whose write is still to come it
completes that release first: the core's dirty lines go home, and the next write of those lanes is an ordinary one.
`ifence` drops the packets that the warp has fetched and of which no word has issued. -/
def Obligations.CodeModificationResults : Prop :=
  ∀ (s : State) (h : Hdr) (a b : BitVec 6), s.taken h = true →
    let start := (s.rdS a.toNat).toNat
    let len := (s.rdS b.toNat).toNat
    let gone (va : Nat) : Bool := decide (2 ^ 32 ≤ len ∨ (va < start + len ∧ start < va + 12))
    let place (u : State) (k : Nat) (x : Bool) : Nat :=
      (u.launch (u.block (u.warp k).block).launch).record.code + 12 * ((u.warp k).ctl.path x).pc
    let drops (u t : State) : Prop := t = { u with cores := t.cores, warps := t.warps } ∧
      (∀ c, t.core c = { u.core c with icache := (t.core c).icache } ∧ ∀ p, p ∈ (t.core c).icache ↔
        p ∈ (u.core c).icache ∧ ¬ (p.ctx = s.myCtx ∧ gone p.va = true)) ∧
      ∀ k, t.warp k = { u.warp k with ma := (t.warp k).ma, mb := (t.warp k).mb } ∧
        ∀ x : Bool,
          let m := (u.warp k).micro x
          (t.warp k).micro x = { m with
            pkt := if (u.launch (u.block (u.warp k).block).launch).ctx = s.myCtx ∧ m.word = 0 ∧ m.mid = false ∧
              gone (place u k x) = true then [] else m.pkt }
    let fenced := ∃ r ∈ s.cw.rel, 3 ≤ r.scope ∧ r.lanes &&& s.mask ≠ 0#32
    (len = 0 → exec (.icinv h a b) s = .next s) ∧
    (len ≠ 0 → ¬ fenced → ∃ t, exec (.icinv h a b) s = .next t ∧ drops s t) ∧
    (len ≠ 0 → fenced → ∃ t u, exec (.icinv h a b) s = .next t ∧ drops u t ∧
      (∀ l < 32, ∀ sc, (∃ r ∈ u.cw.rel, r.scope = sc ∧ r.lanes.getLsbD l = true) ↔
        (∃ r ∈ s.cw.rel, r.scope = sc ∧ r.lanes.getLsbD l = true) ∧ ¬ (3 ≤ sc ∧ s.inMask l = true)) ∧
      (QuietHome s → QuietScratch s → OrderedL1 s s.here → (∀ p, u.mem.byte p = coreByte s s.here p) ∧
        (∀ l ∈ (u.core s.here).l1, l.isDirty = false) ∧ ∀ k, (u.warp k).regs = (s.warp k).regs ∧ (u.warp k).ctl = (s.warp k).ctl)) ∧
    (∃ t, exec (.ifence h) s = .next t ∧ OnlyWarp s t ∧ t.cw = { s.cw with ma := t.cw.ma, mb := t.cw.mb } ∧
      ∀ x : Bool,
        let m := s.cw.micro x
        t.cw.micro x = { m with pkt := if m.word = 0 ∧ m.mid = false then [] else m.pkt })

namespace Sys2Proof.Claims

/-! ## Memory words (spec/12, spec/13) -/

/-- The address of a lane of a memory word: base, 32-bit index and prefix offset, then the swizzle (R47, R259). -/
def laneAddress (s : State) (x : BitVec 6) (k : BitVec 3) (z off : Int) (l : Nat) : Nat :=
  swizzle (s.rdS (48 + k.toNat) + BitVec.ofInt 64 (intField 0 32 (s.rdV x.toNat l) 0) + BitVec.ofInt 64 off).toNat z.toNat

/-- The word that bytes j to j + 7 of an n-byte access make, zero beyond its end, with byte i of it f i (R258). -/
def loadedWord (n : Nat) (f : Nat → Byte) (j : Nat) : Word := ofBytes fun i => if 8 * j + i < n then (f (8 * j + i)).toNat else 0

/-- Byte j of what lane l stores from `V[d]` upward (R258). -/
def storedByte (s : State) (d l j : Nat) : Byte := BitVec.ofNat 8 (field (s.rdV (d + j / 8) l) 8 (j % 8))

/-- The byte that the last of some n-byte writes leaves at an address, if any covers it (R257). -/
def lastWrite (n : Nat) (ws : List (Nat × Nat)) (data : Nat → Nat → Byte) (a : Nat) : Option Byte :=
  (ws.reverse.find? fun e => decide (e.2 ≤ a) && decide (a < e.2 + n)).map fun e => data e.1 (a - e.2)

/-- Registers d to d + m − 1 take f i l in the active lanes; every other register, the control state and every other
warp stay. -/
def LoadsGroup (s t : State) (h : Hdr) (d m : Nat) (f : Nat → Nat → Word) : Prop :=
  (∀ q l, l < 32 → vReg t q l = if d ≤ q ∧ q < d + m ∧ s.active h l = true then f (q - d) l else vReg s q l) ∧
    t.cw.regs.s = s.cw.regs.s ∧ t.cw.regs.p = s.cw.regs.p ∧ t.cw.regs.nf = s.cw.regs.nf ∧ t.cw.ctl = s.cw.ctl ∧
    t.cw.stat = s.cw.stat ∧ ∀ k, k ≠ s.cur.warp → t.warp k = s.warp k

/-- Lane-wise loads and stores of a scratchpad space with their spaces, widths and swizzles (R258). -/
def scratchRows (h : Hdr) (w : BitVec 2) (d x : BitVec 6) (z k : BitVec 3) : List (Instr × Instr × Space × Nat) :=
  [(.ldl h w d x z k, .stl h w d x z k, .l, z.toNat), (.ldc h w d x z k, .stc h w d x z k, .c, z.toNat),
   (.ldk h w d x k, .stk h w d x k, .k, 0)]

/-- The lane-wise words with their space, bytes and addresses, as R258 checks them. -/
def accessRows (s : State) (h : Hdr) (w : BitVec 2) (d x : BitVec 6) (z k : BitVec 3) :
    List (Instr × Space × Nat × (Nat → Nat)) :=
  let n := 4 * 2 ^ w.toNat
  let at_ (z : Nat) := laneAddress s x k z (prefixOffset s)
  let atom (z : Nat) := laneAddress s x k z 0
  let m := if bits (s.mic.pfx.headD 0#18).toNat 5 4 = 0 then 4 else 8
  [(.ldl h w d x z k, .l, n, at_ z.toNat), (.ldc h w d x z k, .c, n, at_ z.toNat), (.ldk h w d x k, .k, n, at_ 0),
   (.ldg h w d x k, .g, n, at_ 0), (.stl h w d x z k, .l, n, at_ z.toNat), (.stc h w d x z k, .c, n, at_ z.toNat),
   (.stk h w d x k, .k, n, at_ 0), (.stg h w d x k, .g, n, at_ 0), (.ldbD h d x k, .g, 8, at_ 0), (.ldbQ h d x k, .g, 16, at_ 0),
   (.atomg h d x k, .g, m, atom 0), (.atoml h d x z k, .l, m, atom z.toNat), (.atomc h d x z k, .c, m, atom z.toNat),
   (.redg h d x k, .g, m, atom 0), (.redc h d x z k, .c, m, atom z.toNat)]

end Sys2Proof.Claims

/-- R258: a lane-wise word whose lowest misaligned active lane has address a traps ALIGN at a; with all lanes aligned, a
scratchpad word whose lowest lane out of bounds has address a traps BOUNDS at a; nothing is loaded or stored. -/
def Obligations.AccessTraps : Prop :=
  ∀ (s : State) (h : Hdr) (w : BitVec 2) (d x : BitVec 6) (z k : BitVec 3),
    ∀ e ∈ accessRows s h w d x z k, ∀ l < 32, s.active h l = true →
      let n := e.2.2.1
      let a := e.2.2.2
      (a l % n ≠ 0 → (∀ j < l, s.active h j = true → a j % n = 0) → exec e.1 s = .next (s.memTrap ⟨.align, a l, 0#16⟩)) ∧
      ((∀ j < 32, s.active h j = true → a j % n = 0) → e.2.1 ≠ .g → s.placeOf s.myBlock e.2.1 (a l) n = none →
        (∀ j < l, s.active h j = true → s.placeOf s.myBlock e.2.1 (a j) n ≠ none) →
        exec e.1 s = .next (s.memTrap ⟨.bounds, a l, 0#16⟩))

/-- R30, R31, R258, R262: loads and stores of the block's scratchpad, the cluster window and the stack scratchpad. A load
brings the bytes of each active lane's place, zero-extended; a store writes them, the higher lane's standing where two
write one byte (R257), and every other byte stays. -/
def Obligations.ScratchpadAccesses : Prop :=
  ∀ (s : State) (h : Hdr) (w : BitVec 2) (d x : BitVec 6) (z k : BitVec 3), QuietScratch s → Unpoisoned s →
    ∀ e ∈ scratchRows h w d x z k, ∀ q : Nat → Place,
      let n := 4 * 2 ^ w.toNat
      let a := laneAddress s x k e.2.2.2 (prefixOffset s)
      (∀ l < 32, s.active h l = true → a l % n = 0 ∧ s.placeOf s.myBlock e.2.2.1 (a l) n = some (q l)) →
      let byte (l j : Nat) : Byte :=
        match q l with
        | .scratch b o => (s.block b).scratch.byte (o + j)
        | .stack k o => (s.stack k).bytes.byte (o + j)
        | .global _ => 0#8
      WritesGroup e.1 s d.toNat (if w.toNat < 2 then 1 else n / 8) (s.active h) (fun i l => loadedWord n (byte l) i) ∧
      (s.cw.rel = [] → s.myLaunch.record.audit = false → (s.block s.myBlock).replay = false →
        ∃ t, exec e.2.1 s = .next t ∧ t.warps = s.warps ∧ t.mem = s.mem ∧
          let ws (f : Place → Option Nat) : List (Nat × Nat) :=
            (s.activeLanes h).filterMap fun l => (f (q l)).map fun o => (l, o)
          (∀ b p, (t.block b).scratch.byte p = (lastWrite n
            (ws fun r => match r with | .scratch y o => if y = b then some o else none | _ => none)
            (storedByte s d.toNat) p).getD ((s.block b).scratch.byte p)) ∧
          ∀ b p, (t.stack b).bytes.byte p = (lastWrite n
            (ws fun r => match r with | .stack y o => if y = b then some o else none | _ => none)
            (storedByte s d.toNat) p).getD ((s.stack b).bytes.byte p))

/-- R264, R269: global loads, each lane's page in the core's TLB and the home slices at rest. `ldg` brings what the core
sees, from its L1 or from home; `ldb` brings what stands at home, whatever the L1 holds. -/
def Obligations.GlobalLoads : Prop :=
  ∀ (s : State) (h : Hdr) (w : BitVec 2) (d x : BitVec 6) (k : BitVec 3) (p : Nat → Nat), QuietHome s →
    (s.block s.myBlock).watch = [] → Unpoisoned s →
    let a := laneAddress s x k 0 (prefixOffset s)
    let reach (n : Nat) : Prop := ∀ l < 32, s.active h l = true → a l % n = 0 ∧ ReachesByTlb s .read (a l) n (p l)
    (OrderedL1 s s.here → reach (4 * 2 ^ w.toNat) → ∃ t, exec (.ldg h w d x k) s = .next t ∧ SameGlobal s t s.here ∧
      LoadsGroup s t h d.toNat (if w.toNat < 2 then 1 else 4 * 2 ^ w.toNat / 8)
        fun i l => loadedWord (4 * 2 ^ w.toNat) (fun j => coreByte s s.here (p l + j)) i) ∧
    (reach 8 → ∃ t, exec (.ldbD h d x k) s = .next t ∧ t.mem = s.mem ∧ t.cores = s.cores ∧
      LoadsGroup s t h d.toNat 1 fun i l => loadedWord 8 (fun j => s.mem.byte (p l + j)) i) ∧
    (reach 16 → ∃ t, exec (.ldbQ h d x k) s = .next t ∧ t.mem = s.mem ∧ t.cores = s.cores ∧
      LoadsGroup s t h d.toNat 2 fun i l => loadedWord 16 (fun j => s.mem.byte (p l + j)) i)

/-- R257, R264, R283: `stg` writes the core's L1: the core sees the stored bytes, the highest lane's where two write one
byte, and every other byte as before; a byte at home changes, if at all, to what the core held or holds, or to what a lane
has stored there. -/
def Obligations.GlobalStores : Prop :=
  ∀ (s : State) (h : Hdr) (w : BitVec 2) (d x : BitVec 6) (k : BitVec 3) (p : Nat → Nat), QuietHome s →
    OrderedL1 s s.here → (s.block s.myBlock).watch = [] → (s.block s.myBlock).replay = false → s.cw.rel = [] →
    s.myLaunch.record.audit = false → s.myLaunch.record.snap = false →
    let n := 4 * 2 ^ w.toNat
    let a := laneAddress s x k 0 (prefixOffset s)
    (∀ l < 32, s.active h l = true → a l % n = 0 ∧ ReachesByTlb s .write (a l) n (p l)) →
    ∃ t, exec (.stg h w d x k) s = .next t ∧ t.warps = s.warps ∧ t.blocks = s.blocks ∧
      ∀ b, coreByte t s.here b = (lastWrite n ((s.activeLanes h).map fun l => (l, p l)) (storedByte s d.toNat) b).getD
          (coreByte s s.here b) ∧
        (t.mem.byte b = s.mem.byte b ∨ t.mem.byte b = coreByte s s.here b ∨ t.mem.byte b = coreByte t s.here b ∨
          ∃ l < 32, s.active h l = true ∧ p l ≤ b ∧ b < p l + n ∧ t.mem.byte b = storedByte s d.toNat l (b - p l))

/-- R172, R173: `sld`, `sst` and `bufld` move one word of global memory for the warp; `bufld` of an index at or beyond
the pool's words traps BOUNDS, with the address that the index names as the trap address, which is the model's choice
(log 38). -/
def Obligations.UniformGlobalAccesses : Prop :=
  ∀ (s : State) (h : Hdr) (d x i : BitVec 6) (k : BitVec 3) (p : Nat), s.taken h = true →
    let a := (s.rdS (48 + k.toNat) + s.rdS x.toNat + BitVec.ofInt 64 (prefixOffset s)).toNat
    let r := s.myLaunch.record
    let j := (s.rdS x.toNat + BitVec.ofInt 64 (immediate s.mic.pfx i)).toNat
    let loads (e : Instr) : Prop := ∃ t, exec e s = .next t ∧ SameGlobal s t s.here ∧
      (∀ q, sReg t q = if q = d.toNat then loadedWord 8 (fun b => coreByte s s.here (p + b)) 0 else sReg s q) ∧
      t.cw.regs.v = s.cw.regs.v ∧ t.cw.regs.p = s.cw.regs.p ∧ t.cw.regs.nf = s.cw.regs.nf
    (r.poolwords ≤ j → exec (.bufld h d x i) s = .next (s.trap .bounds (BitVec.ofNat 64 (r.pool + 8 * j)))) ∧
    (a % 8 ≠ 0 → exec (.sld h d x k) s = .next (s.memTrap ⟨.align, a, 0#16⟩) ∧
      exec (.sst h d x k) s = .next (s.memTrap ⟨.align, a, 0#16⟩)) ∧
    (QuietHome s → OrderedL1 s s.here → (s.block s.myBlock).watch = [] → Unpoisoned s →
      (a % 8 = 0 → ReachesByTlb s .read a 8 p → loads (.sld h d x k)) ∧
      (j < r.poolwords → (r.pool + 8 * j) % 2 ^ 64 % 8 = 0 → ReachesByTlb s .read ((r.pool + 8 * j) % 2 ^ 64) 8 p →
        loads (.bufld h d x i)) ∧
      (a % 8 = 0 → ReachesByTlb s .write a 8 p → (s.block s.myBlock).replay = false → s.cw.rel = [] →
        r.audit = false → r.snap = false →
        ∃ t, exec (.sst h d x k) s = .next t ∧ t.warps = s.warps ∧
          ∀ b, coreByte t s.here b = (if p ≤ b ∧ b < p + 8 then BitVec.ofNat 8 (field (s.rdS d.toNat) 8 (b - p))
            else coreByte s s.here b) ∧
            (t.mem.byte b = s.mem.byte b ∨ t.mem.byte b = coreByte s s.here b ∨ t.mem.byte b = coreByte t s.here b)))

namespace Sys2Proof.Claims

/-! ## Atomics, fences, barriers, gathers, cards and exchanges (spec/09, spec/12 to spec/14) -/

/-- The new value of a word of w bits from its old value m and an operand v, or for `cas` e and n (R293). -/
def newValue (op w m v e n : Nat) : Nat :=
  let int (x : Nat) : Int := if 2 ^ (w - 1) ≤ x then (x : Int) - 2 ^ w else x
  let fmt : Nf := if w = 32 then fp32 else fp64
  match op with
  | 0 => (m + v) % 2 ^ w
  | 1 => if int v < int m then v else m
  | 2 => if int m < int v then v else m
  | 3 => min m v
  | 4 => max m v
  | 5 => m &&& v
  | 6 => m ||| v
  | 7 => m ^^^ v
  | 8 => v
  | 9 => if m = e then n else m
  | 10 => roundVal fmt (sumVals 0 [decodeElem fmt m, decodeElem fmt v])
  | 11 => roundSel fmt ((decodeElem fmt m).min (decodeElem fmt v))
  | _ => roundSel fmt ((decodeElem fmt m).max (decodeElem fmt v))

/-- The fields of the attribute prefix of an atomic (R50). -/
def attrOp (s : State) : Nat := (s.mic.pfx.headD 0#18).toNat % 16
def attrWidth (s : State) : Nat := (s.mic.pfx.headD 0#18).toNat / 16 % 4
def attrScope (s : State) : Nat := (s.mic.pfx.headD 0#18).toNat / 64 % 8
def attrOrder (s : State) : Nat := (s.mic.pfx.headD 0#18).toNat / 512 % 4
def attrBytes (s : State) : Nat := if attrWidth s = 0 then 4 else 8

/-- The word after lane l's operand (R294): v, or e and n of `cas`. -/
def laneUpdate (s : State) (d l m : Nat) : Nat :=
  let x := s.rdV d l
  let op := attrOp s
  if attrWidth s = 0 then newValue op 32 m (field x 32 0) (field x 32 0) (field x 32 1)
  else newValue op 64 m x.toNat x.toNat (s.rdV (d + 1) l).toNat

/-- The word at a place after the operands of the lanes listed, in order (R295). -/
def updatedBy (s : State) (d : Nat) (ls : List Nat) (m : Nat) : Nat := ls.foldl (fun m l => laneUpdate s d l m) m

/-- The n bytes at a place as its executing unit holds them. -/
def wordAt (s : State) (n : Nat) : Place → Nat
  | .scratch b o => (s.block b).scratch.num o n
  | .stack k o => (s.stack k).bytes.num o n
  | .global p => s.mem.num p n

/-- The core holds no dirty line, none that accumulates and no partial of a scratchpad. -/
def CleanL1 (s : State) (c : Nat) : Prop :=
  (s.core c).acc = [] ∧ (s.core c).redBuf = [] ∧ ∀ l ∈ (s.core c).l1, l.isDirty = false

/-- An active lane's place: through the core's TLB in global memory, or where R30 to R31 put it. -/
def AtPlace (s : State) (sp : Space) (a n : Nat) (q : Place) : Prop :=
  a % n = 0 ∧
    match sp with
    | .g => ∃ p, ReachesByTlb s .atomic a n p ∧ q = .global p
    | _ => s.placeOf s.myBlock sp a n = some q

/-- A byte lies in the n bytes of a place. -/
def Covers (n : Nat) (q r : Place) : Prop :=
  match q, r with
  | .scratch b o, .scratch c p => b = c ∧ o ≤ p ∧ p < o + n
  | .stack b o, .stack c p => b = c ∧ o ≤ p ∧ p < o + n
  | .global o, .global p => o ≤ p ∧ p < o + n
  | _, _ => False

/-- The word of a barrier object (R311), and the object after an update and its completion test (R312). -/
def objectWord (phase bytes arr count : Nat) : Nat := phase * 2 ^ 63 + bytes % 2 ^ 31 * 2 ^ 32 + arr * 2 ^ 16 + count
def testedWord (phase bytes arr count : Nat) : Nat :=
  if arr = 0 ∧ bytes % 2 ^ 31 = 0 then objectWord (1 - phase) 0 count count else objectWord phase bytes arr count

/-- Words of a waiting slot's group other than the one it waits at are still to execute (R44; log 53). -/
def MoreInGroup (m : Micro) : Prop := ∃ i ∈ m.acting, i ≠ m.word

/-- A slot's wait has ended and the slot stands behind its word; where other words of its group are still to execute it
stands at the first word of the group, and its word will find what has come of its wait. -/
def Resumed (m n : Micro) (x : Wake) : Prop :=
  n.wait = .none ∧ (¬ MoreInGroup m → n.word = m.word + 1) ∧
    (MoreInGroup m → m.mid = true → n.word = m.group ∧ Tab.get .none n.wakes m.word = x)

/-- Only a word of 8 bytes in one block's scratchpad has changed among all bytes, to n. -/
def OnlyScratchWord (s t : State) (b o n : Nat) : Prop :=
  t.mem = s.mem ∧ t.stackMem = s.stackMem ∧
    ∀ c p, (t.block c).scratch.byte p =
      if c = b ∧ o ≤ p ∧ p < o + 8 then BitVec.ofNat 8 (n / 256 ^ (p - o)) else (s.block c).scratch.byte p

end Sys2Proof.Claims

/-- R292 to R297: `atomg`, `atoml` and `atomc` apply the operands of the active lanes to each word, in ascending lane
order where they meet at one word, and give each lane the value its own operand met; no other byte changes. The core
holds no dirty line here, so that a release of any scope finds nothing to write back. -/
def Obligations.AtomicResults : Prop :=
  ∀ (s : State) (h : Hdr) (d x : BitVec 6) (z k : BitVec 3) (q : Nat → Place), QuietHome s → QuietScratch s →
    CleanL1 s s.here → s.cw.rel = [] → (s.block s.myBlock).watch = [] → (s.block s.myBlock).replay = false →
    s.myLaunch.record.audit = false → s.myLaunch.record.snap = false → attrWidth s ≤ 2 → attrOp s ≤ 12 →
    ∀ e ∈ [(Instr.atomg h d x k, Space.g, 0), (.atoml h d x z k, .l, z.toNat), (.atomc h d x z k, .c, z.toNat)],
      let n := attrBytes s
      let a := laneAddress s x k e.2.2 0
      (∀ l < 32, s.active h l = true → AtPlace s e.2.1 (a l) n (q l)) →
      (∀ l m, l < 32 → m < 32 → s.active h l = true → s.active h m = true → q l = q m → a l = a m) →
      let meeting (l bound : Nat) : List Nat := (s.activeLanes h).filter fun m => decide (m < bound ∧ q m = q l)
      ∃ t, exec e.1 s = .next t ∧
        (∀ r l, l < 32 → vReg t r l = if r = d.toNat ∧ s.active h l = true then
          BitVec.ofNat 64 (updatedBy s d.toNat (meeting l l) (wordAt s n (q l))) else vReg s r l) ∧
        t.cw.regs.s = s.cw.regs.s ∧ t.cw.regs.p = s.cw.regs.p ∧ t.cw.ctl = s.cw.ctl ∧
        (∀ l < 32, s.active h l = true →
          wordAt t n (q l) = updatedBy s d.toNat (meeting l 32) (wordAt s n (q l)) % 2 ^ (8 * n)) ∧
        ∀ r, (∀ l < 32, s.active h l = true → ¬ Covers n (q l) r) → wordAt t 1 r = wordAt s 1 r

/-- R284, R298, R299: a reduction of relaxed order, or a release of `.blk` scope, stays in its core, registered at the
word's home or target core, with every byte of memory as before; one that is a release of `.cls` scope or wider is
applied where the word lies, and so is a `redg` of a core without L1 ways. No register is written. Several lanes of a
reduction that stays lie here in one line or one 64-byte segment. The order in which partial results are combined later
is log 12's choice, and that a core without ways gathers nothing is log 10's. -/
def Obligations.ReductionResults : Prop :=
  ∀ (s : State) (h : Hdr) (d x : BitVec 6) (z k : BitVec 3) (q : Nat → Place), QuietHome s → QuietScratch s →
    CleanL1 s s.here → s.cw.rel = [] → (s.block s.myBlock).watch = [] →
    (s.block s.myBlock).replay = false → s.myLaunch.record.audit = false → s.myLaunch.record.snap = false →
    attrWidth s ≤ 1 → attrOp s ≤ 12 → attrOp s ≠ 9 → s.taken h = true →
    ∀ e ∈ [(Instr.redg h d x k, Space.g, 0), (.redc h d x z k, .c, z.toNat)],
      let n := attrBytes s
      let a := laneAddress s x k e.2.2 0
      (∀ l < 32, s.active h l = true → AtPlace s e.2.1 (a l) n (q l)) →
      let meeting (l : Nat) : List Nat := (s.activeLanes h).filter fun m => decide (q m = q l)
      let home := e.2.1 = .g ∧ (s.core s.here).carve.ways = 0
      let plain := attrOrder s = 0 ∨ (attrOrder s = 2 ∧ attrScope s = 0)
      ((attrOrder s = 2 ∧ attrScope s ≠ 0) ∨ (plain ∧ home) → ∃ t, exec e.1 s = .next t ∧ t.cw.regs = s.cw.regs ∧
        (∀ l < 32, s.active h l = true →
          wordAt t n (q l) = updatedBy s d.toNat (meeting l) (wordAt s n (q l)) % 2 ^ (8 * n)) ∧
        ∀ r, (∀ l < 32, s.active h l = true → ¬ Covers n (q l) r) → wordAt t 1 r = wordAt s 1 r) ∧
      (plain → ¬ home → ∀ l < 32, s.active h l = true →
        let parts (v : Nat) : List Nat → Nat := fun ls => updatedBy s d.toNat ls v
        let first (v : Nat) : Prop := ∃ j, (meeting l).head? = some j ∧
          v = if attrWidth s = 0 then field (s.rdV d.toNat j) 32 0 else (s.rdV d.toNat j).toNat
        (∀ p, q l = .global p → (∀ m < 32, s.active h m = true → ∃ p', q m = .global p' ∧ p' / 128 = p / 128) → ∃ t, exec e.1 s = .next t ∧ t.cw.regs = s.cw.regs ∧ SameBytes s t ∧
          s.here ∈ Tab.get [] t.holders (p / 128) ∧
          ∃ y ∈ (t.core s.here).acc, y.place = p / 128 ∧ y.op.toNat = attrOp s ∧ (y.wide = true ↔ attrWidth s ≠ 0) ∧
            ∃ v, first v ∧ Tab.get 0#64 y.words (p % 128) = BitVec.ofNat 64 (parts v (meeting l).tail)) ∧
        (∀ b o, q l = .scratch b o →
          (∀ m < 32, s.active h m = true → ∃ o', q m = .scratch b o' ∧ o' / 64 = o / 64) →
          ∃ t, exec e.1 s = .next t ∧ t.cw.regs = s.cw.regs ∧ SameBytes s t ∧
            s.here ∈ Tab.get [] (t.core (b / 16)).redHolders (b * 2 ^ 21 + o / 64 * 64) ∧
            ∃ y ∈ (t.core s.here).redBuf, y.place = b * 2 ^ 21 + o / 64 * 64 ∧ y.op.toNat = attrOp s ∧
              ∃ v, first v ∧ Tab.get 0#64 y.words (o % 64) = BitVec.ofNat 64 (parts v (meeting l).tail)))

/-- R287, R288, R301: an acquiring fence of `.cls` scope or wider leaves the core's L1 its dirty bytes alone; a
releasing fence makes the next write of each lane of the slot a release of its scope, or of the wider one that stood for
that lane already; `fence.sc` writes every dirty line back, and its release is eager. That a fence of `.blk` scope
invalidates nothing is the model's reading (log 28), and so is the wider of two scopes (log 36). -/
def Obligations.FenceResults : Prop :=
  ∀ (s : State) (h : Hdr) (sc : BitVec 3), s.taken h = true →
    let stands (u : State) (l : Nat) (scope : Nat) (eager : Bool) : Prop :=
      ∃ r ∈ u.cw.rel, r.lanes.getLsbD l = true ∧ r.scope = scope ∧ r.eager = eager
    let armed (t : State) (eager : Bool) : Prop := ∀ l < 32,
      (s.inMask l = false → ∀ n e, stands t l n e ↔ stands s l n e) ∧
      (s.inMask l = true → (∀ n e, ¬ stands s l n e) → ∀ n e, stands t l n e ↔ n = sc.toNat ∧ e = eager) ∧
      (s.inMask l = true → (∃ n e, stands s l n e) → ∀ n e, stands t l n e ↔
        ∃ n0 e0, stands s l n0 e0 ∧ n = max n0 sc.toNat ∧ e = (e0 || eager))
    let onlyDirty (t : State) : Prop := (∀ l ∈ (t.core s.here).l1, l.bytes ≠ [] ∧ ∀ e ∈ l.bytes, e.2.2 = true) ∧
      ∀ l ∈ (s.core s.here).l1, l.isDirty = true → ∃ m ∈ (t.core s.here).l1, m.line = l.line ∧
        m.bytes = l.bytes.filter fun e => e.2.2
    (∃ t, exec (.fenceAcq h sc) s = .next t ∧ t.warps = s.warps ∧ SameBytes s t ∧ (sc.toNat = 0 → t = s) ∧
      (sc.toNat ≠ 0 → onlyDirty t)) ∧
    (∃ t, exec (.fenceRel h sc) s = .next t ∧ armed t false ∧ OnlyWarp s t ∧ t.cores = s.cores) ∧
    (∃ t, exec (.fenceAr h sc) s = .next t ∧ armed t false ∧ SameBytes s t ∧ t.cw.regs = s.cw.regs ∧
      (sc.toNat ≠ 0 → onlyDirty t)) ∧
    (QuietHome s → QuietScratch s → OrderedL1 s s.here → ∃ t, exec (.fenceSc h sc) s = .next t ∧ armed t true ∧
      t.cw.regs = s.cw.regs ∧ (∀ p, t.mem.byte p = coreByte s s.here p) ∧ (t.core s.here).l1 = [])

/-- R311 to R315: the barrier-object words on an object in a scratchpad: an initialisation, an arrival, an expectation,
each followed by the completion test; a wait that returns or blocks; a read. Values they do not accept trap BOUNDS. An
update that ends a phase lets every slot go on that waits there for it (R312). A wait of a restored slot goes on with
the object, the token and the limit that were saved (R316), and one that is over gives its result. R317: an arrival at
a barrier of the block. While some participant that has not ended is missing, the slot waits there; the last arrival
lets every waiting slot go on behind its `bar`, and the barrier is free again. A mask that is empty, out of range,
without the warp itself or other than the phase's mask traps BOUNDS. A restored slot whose arrival was kept waits on,
or goes on where the phase is over (R320). The agenda is the model's own (log 3), and where a slot resumes inside its
group is log 53's reading. -/
def Obligations.BarrierResults : Prop :=
  (∀ (s : State) (h : Hdr) (d x : BitVec 6) (z : BitVec 2) (k : BitVec 3) (b o phase bytes arr count : Nat),
    QuietScratch s → CleanL1 s s.here → QuietHome s → s.cw.rel = [] → s.taken h = true → phase ≤ 1 → bytes < 2 ^ 31 →
    arr < 2 ^ 16 → count < 2 ^ 16 → (s.block b).scratch.num o 8 = objectWord phase bytes arr count →
    let a := (s.rdS (48 + k.toNat) + s.rdS x.toNat + BitVec.ofInt 64 (prefixOffset s)).toNat
    let v := (s.rdS d.toNat).toNat
    let lies (a : Nat) : Prop := a % 8 = 0 ∧ s.placeOf s.myBlock (if z.toNat % 2 = 0 then .l else .c) a 8 = some (.scratch b o)
    let gives (i : Instr) (w : Nat) (r : Option Nat) : Prop := ∃ t, exec i s = .next t ∧ OnlyScratchWord s t b o w ∧
      (∀ q, sReg t q = match r with
        | some y => if q = d.toNat then BitVec.ofNat 64 y else sReg s q
        | none => sReg s q) ∧ t.cw.regs.v = s.cw.regs.v ∧ t.cw.regs.p = s.cw.regs.p ∧ t.mic.wait = s.mic.wait
    let stops (i : Instr) : Prop := exec i s = .next (s.memTrap ⟨.bounds, a, 0#16⟩)
    let now := objectWord phase bytes arr count
    (lies a →
      (if v % 2 ^ 63 < 2 ^ 16 ∧ v % 2 ^ 16 ≠ 0 then
        gives (.boset h d x z k) (objectWord (v / 2 ^ 63) 0 (v % 2 ^ 16) (v % 2 ^ 16)) none
        else stops (.boset h d x z k)) ∧
      (if arr = 0 then stops (.bomark h d x z k)
        else gives (.bomark h d x z k) (testedWord phase bytes (arr - 1) count) (some phase)) ∧
      (if v < 2 ^ 31 then gives (.boadd h d x z k) (testedWord phase (bytes + v) arr count) none
        else stops (.boadd h d x z k)) ∧
      (if v < 2 then gives (.bopeek h d x z k) now (some (if phase = v then 0 else 1)) else stops (.bopeek h d x z k)) ∧
      (s.mic.wake = .none → 2 ≤ v % 2 ^ 32 → stops (.bowait h d x z k)) ∧
      ∀ r : Bool, s.mic.wake = .done r → gives (.bowait h d x z k) now (some (if r then 1 else 0))) ∧
    ∀ at_ tok limit, limit < 2 ^ 32 → lies at_ → s.mic.wake = .bowait at_ (decide (tok = 1)) limit ∨
        (s.mic.wake = .none ∧ at_ = a ∧ v = limit * 2 ^ 32 + tok) → tok < 2 →
      (phase ≠ tok → gives (.bowait h d x z k) now (some 1)) ∧
      (phase = tok → ∃ t, exec (.bowait h d x z k) s = .next t ∧ OnlyScratchWord s t b o now ∧ t.cw.regs = s.cw.regs ∧
        t.mic.wait = .bowait b o (decide (tok = 1)) limit d.toNat z ∧
        (limit ≠ 0 → Instr.bowaitExpire s.cur.warp s.cur.slotB ∈ t.agenda))) ∧
  (∀ (s : State) (h : Hdr) (d x : BitVec 6) (z : BitVec 2) (k : BitVec 3) (b o phase count : Nat), SettledScratch s →
    CleanL1 s s.here → QuietHome s → s.cw.rel = [] → s.taken h = true → phase ≤ 1 → count < 2 ^ 16 →
    (s.block b).scratch.num o 8 = objectWord phase 0 1 count →
    let a := (s.rdS (48 + k.toNat) + s.rdS x.toNat + BitVec.ofInt 64 (prefixOffset s)).toNat
    a % 8 = 0 → s.placeOf s.myBlock (if z.toNat % 2 = 0 then .l else .c) a 8 = some (.scratch b o) →
    ∃ t, exec (.bomark h d x z k) s = .next t ∧ OnlyScratchWord s t b o (testedWord phase 0 0 count) ∧
      ∀ (u : Turn) (limit r : Nat) (cls : BitVec 2), u.warp ≠ s.cur.warp → (s.warp u.warp).stat = .running →
        ((s.warp u.warp).ctl.path u.slotB).live = true →
        ((s.warp u.warp).micro u.slotB).wait = .bowait b o (decide (phase = 1)) limit r cls →
        Resumed ((s.warp u.warp).micro u.slotB) ((t.warp u.warp).micro u.slotB) (.done true) ∧
          (¬ MoreInGroup ((s.warp u.warp).micro u.slotB) → Tab.get 0#64 (t.warp u.warp).regs.s r = 1#64)) ∧
  (∀ (s : State) (h : Hdr) (a : BitVec 6) (i : BitVec 4), s.taken h = true →
    let b := s.myBlock
    let x := Tab.get {} (s.block b).bars i.toNat
    let v := (optional s a).toNat
    let good := (a = 0#6 ∨ (v < 2 ^ 32 ∧ v ≠ 0 ∧ v < 2 ^ (s.block b).warps ∧ v / 2 ^ s.cw.idx % 2 = 1)) ∧
      (x.fixed = true → x.mask.toNat = v)
    let missing := ∃ j < (s.block b).warps, j ≠ s.cw.idx ∧ (a = 0#6 ∨ v / 2 ^ j % 2 = 1) ∧ s.endedAt b j = false ∧
      x.arrived.getLsbD j = false
    (s.mic.wake = .bar i.toNat true → exec (.bar h a i) s = .next s) ∧
    (s.mic.wake = .bar i.toNat false → exec (.bar h a i) s = .next (s.waitFor (.bar i.toNat))) ∧
    (s.mic.wake = .none →
      (¬ good → exec (.bar h a i) s = .next (s.trapHere .bounds)) ∧
      (good → s.cw.idx < 32 → (s.block b).warps ≤ 32 → s.warpAt b s.cw.idx = some s.cur.warp →
        (missing → ∃ t, exec (.bar h a i) s = .next t ∧ t.mic.wait = .bar i.toNat ∧
          (Tab.get {} (t.block b).bars i.toNat).arrived.getLsbD s.cw.idx = true ∧
          (∀ k, (t.warp k).regs = (s.warp k).regs ∧ (t.warp k).ctl = (s.warp k).ctl) ∧ SameBytes s t) ∧
        (¬ missing → ∃ t, exec (.bar h a i) s = .next t ∧ Tab.get {} (t.block b).bars i.toNat = {} ∧
          (∀ u ∈ s.waiting b (fun w => decide (w = .bar i.toNat)),
            Resumed ((s.warp u.warp).micro u.slotB) ((t.warp u.warp).micro u.slotB) (.bar i.toNat true)) ∧
          (∀ k, (t.warp k).regs = (s.warp k).regs ∧ (t.warp k).ctl = (s.warp k).ctl) ∧ SameBytes s t))))

namespace Sys2Proof.Claims

/-- The card that 64 bytes make, the first least significant. -/
def cardOf (f : Nat → Byte) : BitVec 512 := BitVec.ofNat 512 (((List.range 64).map fun i => (f i).toNat * 256 ^ i).sum)

end Sys2Proof.Claims

/-- R270: `ldrag` reads each active lane's row entry, a base and a length, and the element of its column: the lanes
inside their rows get the element, zero-extended, and their row as key, the others 0 and a key of all ones; each lane
also gets the mask of the lanes that head a run of equal rows. An entry whose high word is not 0 traps BOUNDS. R271,
R272: `prf` traps nowhere and writes no register and no byte. Each line that its lanes name is asked for or dropped,
once, and counts as the one or the other; of target 0 only lines not there yet are asked for, each sets out for its
home, to be protected in the L1 where the warp is its block's urgent one (R112). That a full queue drops a line is left
free (log 10). -/
def Obligations.GatherResults : Prop :=
  (∀ (s : State) (h : Hdr) (d x : BitVec 6) (z k : BitVec 3) (pe pv : Nat → Nat), QuietHome s → OrderedL1 s s.here →
    (s.block s.myBlock).watch = [] → Unpoisoned s → z.toNat ≤ 3 →
    let nb := 2 ^ z.toNat
    let row (l : Nat) : Nat := field (s.rdV x.toNat l) 32 0
    let col (l : Nat) : Nat := field (s.rdV x.toNat l) 32 1
    let a (l : Nat) : Nat :=
      (s.rdS (48 + k.toNat) + BitVec.ofInt 64 (prefixOffset s) + BitVec.ofNat 64 (16 * row l)).toNat
    let seen (p n : Nat) : Nat := ((List.range n).map fun i => (coreByte s s.here (p + i)).toNat * 256 ^ i).sum
    let inside (l : Nat) : Prop := s.active h l = true ∧ col l < seen (pe l + 8) 4
    (∀ l < 32, s.active h l = true → a l % 16 = 0 ∧ ReachesByTlb s .read (a l) 16 (pe l)) →
    (∀ l < 32, s.active h l = true → seen (pe l + 12) 4 ≠ 0 →
      (∀ j < l, s.active h j = true → seen (pe j + 12) 4 = 0) →
      exec (.ldrag h d x z k) s = .next (s.memTrap ⟨.bounds, a l, 0#16⟩)) ∧
    ((∀ l < 32, s.active h l = true → seen (pe l + 12) 4 = 0) →
      (∀ l < 32, inside l → (seen (pe l) 8 + nb * col l) % 2 ^ 64 % nb = 0 ∧
        ReachesByTlb s .read ((seen (pe l) 8 + nb * col l) % 2 ^ 64) nb (pv l)) →
      ∃ t, ∃ head : W32, exec (.ldrag h d x z k) s = .next t ∧ SameGlobal s t s.here ∧
        (∀ l < 32, head.getLsbD l = true ↔ inside l ∧
          ∀ j < l, inside j → (∀ i, j < i → i < l → ¬ inside i) → row j ≠ row l) ∧
        ∃ f : Nat → Nat → Word, LoadsGroup s t h d.toNat 2 f ∧ ∀ l < 32, s.active h l = true →
          (inside l → f 0 l = loadedWord nb (fun j => coreByte s s.here (pv l + j)) 0 ∧
            f 1 l = BitVec.ofNat 64 (row l + head.toNat * 2 ^ 32)) ∧
          (¬ inside l → f 0 l = 0#64 ∧ f 1 l = BitVec.ofNat 64 (0xFFFFFFFF + head.toNat * 2 ^ 32)))) ∧
  (∀ (s : State) (h : Hdr) (c : BitVec 4) (g : BitVec 2) (x : BitVec 6) (k : BitVec 3) (p : Nat → Nat),
    let named : List Nat := (((List.range 32).filter (s.active h)).flatMap fun l => (List.range (c.toNat + 1)).map fun i =>
      (laneAddress s x k 0 (prefixOffset s) l / 128 * 128 + 128 * i) % 2 ^ 64).eraseDups
    let count (u : State) (code : Nat) : Word := Tab.get 0#64 (u.core s.here).counters code
    let there (line : Nat) : Prop :=
      (∃ f ∈ s.flights, f.line = line ∧ f.core = s.here) ∨ (s.core s.here).hits (128 * line) 128 = true
    let guard := if s.urgent s.cur.warp then some (s.myBlock, s.cur.warp) else none
    (∀ a ∈ named, ReachesByTlb s .read a 1 (p a)) →
    ∃ t, exec (.prf h c g x k) s = .next t ∧ t = { s with cores := t.cores, flights := t.flights, agenda := t.agenda,
                                                          fresh := t.fresh, l2 := t.l2, zeroLines := t.zeroLines,
                                                          corrected := t.corrected } ∧
      (∀ n, n ≠ s.here → t.core n = s.core n) ∧
      t.core s.here = { s.core s.here with counters := (t.core s.here).counters } ∧
      (∀ n, n ≠ 0x70 → n ≠ 0x71 → count t n = count s n) ∧
      ∃ asked : List Nat, count t 0x70 = count s 0x70 + BitVec.ofNat 64 asked.length ∧
        count t 0x70 + count t 0x71 = count s 0x70 + count s 0x71 + BitVec.ofNat 64 named.length ∧
        (∀ line ∈ asked, ∃ a ∈ named, line = p a / 128 ∧ (g = 0#2 → ¬ there line)) ∧
        (g = 0#2 → t.flights = s.flights ++ asked.map (fun line => { line := line, core := s.here, fill := true, guard := guard }) ∧
          (∀ line ∈ asked, Instr.homeRead s.here line ∈ t.agenda) ∧ t.l2 = s.l2) ∧
        (g ≠ 0#2 → t.flights = s.flights ∧ t.agenda = s.agenda ∧
          ∀ line, (t.l2Find line).isSome = true → (s.l2Find line).isSome = true ∨ line ∈ asked))

/-- R90 to R92: `post` in a task region. A card for a ring position whose queue has room joins it, with status 0, and
blackens the poster where the position lies before it; its bytes go to the slot of the card area that is next. A full
queue answers 1, and a region that has ended 2, with no card queued. A take of the block's own queue with a card, no slot
waiting ahead, brings the oldest to the address from its slot, with status 0, and waits where there is none. A position
keeps its queue when its block has exited. Outside a task region, with a selector that names no position, or with a
misaligned address, it traps. Which slot of the card area a card takes, and that the card itself stands for a slot that
cannot be read, is the model's choice (log 32), and the slots are accessed in the system context (log 56). -/
def Obligations.JobCardResults : Prop :=
  ∀ (s : State) (h : Hdr) (e f g : BitVec 6) (pos p : Nat), s.taken h = true →
    let sel := (s.rdS g.toNat).toNat
    let a := (s.rdS f.toNat).toNat
    let blk := s.block s.myBlock
    let l := s.myLaunch
    let mine := s.cardQueue blk.launch blk.lin
    let queue := s.cardQueue blk.launch pos
    (l.record.region = false → exec (.post h e f g) s = .next (s.trapHere .bounds)) ∧
    (l.record.region = true → s.postTarget sel = none → exec (.post h e f g) s = .next (s.trapHere .bounds)) ∧
    (l.record.region = true → s.postTarget sel = some pos →
      (a % 64 ≠ 0 → exec (.post h e f g) s = .next (s.trap .align (s.rdS f.toNat))) ∧
      (a % 64 = 0 → sel % 8 = 5 → mine.cards = [] → l.ended = false → blk.replay = false → s.cur.num ∉ blk.takers →
        ∃ t, exec (.post h e f g) s = .next t ∧ t.mic.wait = .take e.toNat (s.rdS f.toNat) ∧ t.cw.regs = s.cw.regs ∧
          (t.block s.myBlock).takers = blk.takers ++ [s.cur.num] ∧ SameBytes s t) ∧
      (a % 64 = 0 → sel % 8 = 5 → mine.cards = [] → l.ended = true → WritesS (.post h e f g) s e.toNat 2#64) ∧
      (a % 64 = 0 → PlainAccess s → l.record.audit = false → CleanL1 s s.here → sel % 8 ≠ 5 → l.ended = true →
        ∃ t, exec (.post h e f g) s = .next t ∧ sReg t e.toNat = 2#64 ∧ t.launches = s.launches ∧ t.blocks = s.blocks ∧
          (∀ q, q ≠ e.toNat → sReg t q = sReg s q) ∧ t.mem = s.mem) ∧
      (a % 64 = 0 → PlainAccess s → l.record.audit = false → CleanL1 s s.here → l.ended = false →
        (sel % 8 = 5 → ReachesByTlb s .write a 64 p → ∀ c cs, mine.cards = c :: cs →
          blk.takers.head?.all (fun n => n == s.cur.num) = true → l.record.cardarea % 64 = 0 →
          let place := l.record.cardarea + 64 * (blk.lin * l.record.cards + mine.slots.headD 0)
          let brings (card : Nat → Byte) : Prop := ∃ t, exec (.post h e f g) s = .next t ∧
            (t.cardQueue blk.launch blk.lin).cards = cs ∧ sReg t e.toNat = 0#64 ∧ (∀ q, q ≠ e.toNat → sReg t q = sReg s q) ∧
            ∀ i < 64, coreByte t s.here (p + i) = card i
          (s.cpXlate l.ctx place .read = none → brings fun i => BitVec.ofNat 8 (c.toNat / 256 ^ i)) ∧
          ∀ u q, s.cpXlate l.ctx place .read = some (u, q) → q + 64 ≤ 2 ^ 64 → brings fun i => s.mem.byte (q + i)) ∧
        (sel % 8 ≠ 5 → l.record.cards ≤ queue.cards.length →
          ∃ t, exec (.post h e f g) s = .next t ∧ sReg t e.toNat = 1#64 ∧ t.launches = s.launches ∧ t.blocks = s.blocks ∧
            (∀ q, q ≠ e.toNat → sReg t q = sReg s q) ∧ t.mem = s.mem) ∧
        (sel % 8 ≠ 5 → queue.cards.length < l.record.cards → ReachesByTlb s .read a 64 p →
          (∀ y, s.ringBlock blk.launch pos = some y → (s.block y).takers = []) →
          let card := cardOf fun i => coreByte s s.here (p + i)
          let place := l.record.cardarea + 64 * (pos * l.record.cards + queue.nextSlot l.record.cards)
          ∃ t, exec (.post h e f g) s = .next t ∧ sReg t e.toNat = 0#64 ∧ (∀ q, q ≠ e.toNat → sReg t q = sReg s q) ∧
            (t.cardQueue blk.launch pos).cards = queue.cards ++ [card] ∧
            (pos < blk.lin → (t.cardQueue blk.launch blk.lin).black = true) ∧
            (s.sysXlate l.ctx place = none → t.mem = s.mem) ∧
            ∀ u q, s.sysXlate l.ctx place = some (u, q) → q + 64 ≤ 2 ^ 64 → l.record.cardarea % 64 = 0 → ∀ b, t.mem.byte b =
              if q ≤ b ∧ b < q + 64 then BitVec.ofNat 8 (card.toNat / 256 ^ (b - q)) else s.mem.byte b)))

/-- R200, R201: `xswap` with a partner in another cluster that waits with the same tag exchanges the lanes active on
both sides, each side's source as it stood when its chain group began (R44), and lets both go on; with no partner there
yet it waits; a selector that names no warp of the grid, the warp itself or a warp that has ended, resident or saved,
traps BOUNDS, and so does a partner of the own cluster. Where a partner waits there already, with another tag or in the
own cluster, both sides trap. A group of several words takes the exchange up when it executes as a whole (log 53). -/
def Obligations.ExchangeResults : Prop :=
  ∀ (s : State) (h : Hdr) (d a b : BitVec 6) (lin idx tag : Nat), s.taken h = true →
    let n := (s.rdS b.toNat).toNat
    let blk := s.block s.myBlock
    let l := s.launch blk.launch
    let total := l.record.gridX * l.record.gridY * l.record.gridZ
    let ls := laneMask (s.active h)
    let bounds (w : Warp) (at_ : Word) : Prop :=
      w.stat = .stopped ∧ w.cause = BitVec.ofNat 8 Cause.bounds.code ∧ w.taddr = at_ ∧ w.waddr = at_
    (∀ both vals, s.mic.wake = .swapped both vals →
      WritesV (.xswap h d a b) s d.toNat both.getLsbD (fun j => vals.getD j 0#64)) ∧
    ((∀ both vals, s.mic.wake ≠ .swapped both vals) →
    (2 ^ 48 ≤ n ∨ n / 2 ^ 37 % 8 ≠ 0 ∨ total ≤ n % 2 ^ 32 ∨ l.record.warps ≤ n / 2 ^ 32 % 2 ^ 5 ∨
        (n % 2 ^ 32 = blk.lin ∧ n / 2 ^ 32 % 2 ^ 5 = s.cw.idx) ∨ n % 2 ^ 32 ∈ l.exited ∨
        (∃ e ∈ l.saved, e.lin = n % 2 ^ 32 ∧ ∃ q ∈ e.kept, q.idx = n / 2 ^ 32 % 2 ^ 5 ∧ q.ended = true) →
      exec (.xswap h d a b) s = .next (s.trapHere .bounds)) ∧
    (n = lin + idx * 2 ^ 32 + tag * 2 ^ 40 → lin < total → total ≤ 2 ^ 32 → idx < l.record.warps → idx < 32 → tag < 256 →
      (lin ≠ blk.lin ∨ idx ≠ s.cw.idx) → lin ∉ l.exited → (∀ e ∈ l.saved, e.lin = lin → ∀ q ∈ e.kept, q.idx = idx → q.ended = false) →
      (s.blockOf blk.launch lin = none ∨ (∃ y k, s.blockOf blk.launch lin = some y ∧ y / 16 / 4 ≠ s.here / 4 ∧
          s.warpAt y idx = some k ∧ s.liveWarp k = true ∧ s.partnerWait k blk.lin s.cw.idx = none) →
        ∃ t, exec (.xswap h d a b) s = .next t ∧ t.mic.wait = .xswap d.toNat a.toNat ls lin idx tag ∧
          t.cw.regs = s.cw.regs ∧ (∀ k, k ≠ s.cur.warp → t.warp k = s.warp k) ∧ SameBytes s t) ∧
      (∀ y, s.blockOf blk.launch lin = some y → y / 16 / 4 = s.here / 4 →
        (∀ k, s.warpAt y idx = some k → s.partnerWait k blk.lin s.cw.idx = none) →
        exec (.xswap h d a b) s = .next (s.trapHere .bounds)) ∧
      (∀ y k, s.blockOf blk.launch lin = some y → s.warpAt y idx = some k → s.liveWarp k = false →
        exec (.xswap h d a b) s = .next (s.trapHere .bounds)) ∧
      ∀ (y k : Nat) (u : Turn) (pd pa ptag : Nat) (pls : W32), s.blockOf blk.launch lin = some y →
        s.warpAt y idx = some k → k ≠ s.cur.warp → s.liveWarp k = true →
        s.partnerWait k blk.lin s.cw.idx = some (u, pd, pa, pls, ptag) →
        (ptag ≠ tag ∨ y / 16 / 4 = s.here / 4 → ∃ t, exec (.xswap h d a b) s = .next t ∧ bounds t.cw s.myAddr ∧
          bounds (t.warp k) (s.slotAddr u) ∧ (∀ j, (t.warp j).regs = (s.warp j).regs) ∧ SameBytes s t) ∧
        (ptag = tag → y / 16 / 4 ≠ s.here / 4 → ∃ t, exec (.xswap h d a b) s = .next t ∧
          Resumed ((s.warp k).micro u.slotB) ((t.warp k).micro u.slotB)
            (.swapped (ls &&& pls) ((List.range 32).map fun j => s.rdV a.toNat j)) ∧
          (∀ r j, j < 32 → vReg t r j = if r = d.toNat ∧ s.active h j = true ∧ pls.getLsbD j = true
            then Tab.get 0#64 ((s.warp k).micro u.slotB).src.v (32 * pa + j) else vReg s r j) ∧
          (MoreInGroup ((s.warp k).micro u.slotB) → (t.warp k).regs = (s.warp k).regs) ∧
          (¬ MoreInGroup ((s.warp k).micro u.slotB) → ∀ r j, j < 32 → Tab.get 0#64 (t.warp k).regs.v (32 * r + j) =
            if r = pd ∧ s.active h j = true ∧ pls.getLsbD j = true then s.rdV a.toNat j
            else Tab.get 0#64 (s.warp k).regs.v (32 * r + j)) ∧ SameBytes s t)))

namespace Sys2Proof.Claims

/-! ## The tile words, the baton and the rewrite stage's controls (spec/10, spec/11, spec/14) -/

/-- The tile words with their opcodes, their fields t1, t2 and t3, and which of them they read (R205, R217, R218, R235):
t1 as a pair, t2 as a pair, t3. -/
def tileRows (h : Hdr) (e f g : BitVec 6) : List (Instr × Nat × BitVec 6 × BitVec 6 × BitVec 6 × Bool × Bool × Bool) :=
  [(.cp h e f g, 0xF0, e, f, g, true, true, true), (.cpm h e f g, 0xF1, e, f, g, true, true, true),
   (.wld h e f, 0xF2, e, f, 0#6, true, false, false), (.wldt h e f, 0xF3, e, f, 0#6, true, false, false),
   (.mma h e f, 0xF4, e, f, 0#6, true, false, false), (.mmarx h f, 0xF5, 0#6, f, 0#6, false, false, false),
   (.aread h e f g, 0xF6, e, f, g, true, false, true), (.azero h f, 0xF7, 0#6, f, 0#6, false, false, false),
   (.ttr h e f g, 0xF8, e, f, g, true, true, true), (.tscl h f, 0xF9, 0#6, f, 0#6, false, false, false),
   (.tcvt h e f g, 0xFA, e, f, g, true, true, true), (.tfill h e f g, 0xFD, e, f, g, true, false, true)]

/-- A tile instruction as it is kept: its opcode and warp, the values that its word names (R235), and whether a resume has
it pass its watchpoint (R383). -/
def Keeps (s : State) (w : TileOp) (op : Nat) (e f g : BitVec 6) (one two three : Bool) : Prop :=
  let S (on : Bool) (r : Nat) : Word := if on then s.rdS r else 0#64
  let nf (on : Bool) (x : Word) : Word := if on then s.rdNf (x.toNat / 2 ^ 27 % 4) else 0#64
  w.op = op ∧ w.warp = s.cur.warp ∧ w.block = s.myBlock ∧ w.slotB = s.cur.slotB ∧ w.addr = s.myAddr ∧
    w.vals = [s.rdS e.toNat, S one (e.toNat + 1), s.rdS f.toNat, S two (f.toNat + 1), S three g.toNat] ∧
    w.f1 = nf one (s.rdS (e.toNat + 1)) ∧ w.f2 = nf two (s.rdS (f.toNat + 1)) ∧ w.pass = s.cw.pass ∧ w.entry = none

/-- Nothing has changed but one core and what stands on the agenda. -/
def OnlyCore (s t : State) (c : Nat) : Prop :=
  t = { s with cores := t.cores, agenda := t.agenda } ∧ ∀ k, k ≠ c → t.core k = s.core k

/-- Nothing has changed but one core, the issuing warp's place in its packet and the agenda. -/
def OnlyCoreAndPlace (s t : State) (c : Nat) : Prop :=
  t = { s with cores := t.cores, agenda := t.agenda, warps := t.warps } ∧ (∀ k, k ≠ c → t.core k = s.core k) ∧
    (∀ k, k ≠ s.cur.warp → t.warp k = s.warp k) ∧ t.cw.regs = s.cw.regs ∧ t.cw.ctl = s.cw.ctl ∧ t.cw.stat = s.cw.stat

/-- A tile word is a member of a chain (R217, R221). -/
def InChain (s : State) (op : Nat) (f : BitVec 6) : Prop :=
  op = 0xF5 ∨ (op = 0xF4 ∧ (s.rdS f.toNat).toNat / 2 ^ 54 % 4 ≠ 0)

/-- A tile word that its warp gives the window: no copy, of the baton's holder, on the IE (R230). -/
def ForWindow (s : State) (op : Nat) : Prop :=
  op ≠ 0xF0 ∧ op ≠ 0xF1 ∧ (s.core s.here).baton = some s.cur.warp ∧ s.cw.engine = .ie

/-- The word stands alone in its chain group, but for nops and prefixes. -/
def AloneInGroup (s : State) : Prop := (s.groupWords.filter fun w => decide (2 ≤ opOf w)).length ≤ 1

/-- The shape of a plain tile in space z: rows and row stride (R205). -/
def plainShape (z stride rows : Nat) : Word := BitVec.ofNat 64 (z * 2 ^ 32 + stride * 2 ^ 11 + (rows - 1))

end Sys2Proof.Claims

/-- R204, R215, R230, R235: a tile word of the baton's holder on the IE enters the rewrite window with the values its
fields name, its warp's control state and the place of its group; a full window has it wait. In a group with other
words it leaves the window with its entry (R232; the model's choice, log 29). Any other tile word is checked and joins
the end of the tile queue, traps with the failure that the checks find first, or waits for room; a member of a chain
waits for its rendezvous too (R221). A tile word that needs the baton and whose warp does not hold it traps BATON
(R213). A word whose wait has ended has had its effect, and its group goes on with the other words (R44; log 53). -/
def Obligations.TileWordResults : Prop :=
  ∀ (s : State) (h : Hdr) (e f g : BitVec 6), ∀ r ∈ tileRows h e f g, s.taken h = true →
    let c := s.core s.here
    let i := r.1
    let op := r.2.1
    let t1 := r.2.2.1
    let t2 := r.2.2.2.1
    let t3 := r.2.2.2.2.1
    let one := r.2.2.2.2.2.1
    let two := r.2.2.2.2.2.2.1
    let three := r.2.2.2.2.2.2.2
    (s.mic.wake = .met → exec i s = .next s) ∧
    (s.mic.wake ≠ .met → coreOfBlock s.myBlock = s.here →
    (ForWindow s op → s.cw.rel = [] →
      (c.window.length < 8 → ∃ w : HeldWord, Keeps s w.tile op t1 t2 t3 one two three ∧ w.group = s.mic.group ∧
        w.ctl = s.cw.ctl ∧ w.pend = s.cw.pend ∧
        let u := s.setCore s.here { c with window := c.window ++ [w] }
        (AloneInGroup s → exec i s = .next (u.later (.rewriteTimeout s.here))) ∧
        (¬ AloneInGroup s → exec i s = .next (s.flushEntered u s.here))) ∧
      (8 ≤ c.window.length → exec i s = .next (s.waitFor (.room .window)))) ∧
    (¬ ForWindow s op →
      let w := s.tileOf op t1 t2 t3
      Keeps s w op t1 t2 t3 one two three ∧
      (∀ x, s.checkTile w [] = .error x → exec i s = .next (s.memTrap x)) ∧
      (∀ u v, s.checkTile w [] = .ok (u, v) →
        (s.tileRoom v = false → exec i s = .next (s.waitFor (.room .queue))) ∧
        (s.tileRoom v = true → u.cw.rel = [] → ∃ t, exec i s = .next t ∧
          (t.core s.here).queue = (u.core s.here).queue ++ [v] ∧ t.mem = u.mem ∧
          (¬ InChain s op f → t.warps = u.warps) ∧ (InChain s op f → t.mic.wait = .chain true)))) ∧
    ((2 ≤ op - 0xF0 ∧ op - 0xF0 ≤ 7 ∨ op = 0xF9) → c.baton ≠ some s.cur.warp →
      exec i s = .next (s.memTrap ⟨.baton, s.myAddr.toNat, 0#16⟩)))

/-- R205, R206, R215, R304 to R306, R310: a copy between two plain tiles of the block's own scratchpad joins the tile
queue, and its two ranges the scoreboard, widened to 64 bytes; a multicast does so with its own core as the one receiver.
`mmarx` of the baton's holder on the RE joins the queue and waits for its rendezvous (R221). -/
def Obligations.CopyWordResults : Prop :=
  ∀ (s : State) (h : Hdr) (e f g : BitVec 6) (stride1 stride2 rows len : Nat), s.taken h = true →
    s.mic.wake ≠ .met → coreOfBlock s.myBlock = s.here → s.cw.rel = [] →
    let c := s.core s.here
    let a1 := (s.rdS e.toNat).toNat
    let a2 := (s.rdS f.toNat).toNat
    let size := (s.block s.myBlock).scratchSize
    let range (a stride : Nat) (dest : Bool) (w : TileOp) : Range :=
      { key := .pool s.myBlock, first := a / 64 * 64, last := (a + (rows - 1) * stride + len - 1) / 64 * 64 + 63,
        dest := dest, tile := w }
    (c.queue.length < 8 → c.ranges.length ≤ 14 → 1 ≤ rows → rows ≤ 2 ^ 11 → 0 < len → len < 2 ^ 16 → size ≤ 2 ^ 21 →
      (∀ n ∈ [stride1, stride2, len, a1, a2], n % 16 = 0) → stride1 < 2 ^ 16 → stride2 < 2 ^ 16 →
      a1 + (rows - 1) * stride1 + len ≤ size → a2 + (rows - 1) * stride2 + len ≤ size →
      s.rdS (f.toNat + 1) = plainShape 0 stride2 rows →
      let queued (i : Instr) (op : Nat) : Prop := ∃ t, ∃ w : TileOp, exec i s = .next t ∧ OnlyCore s t s.here ∧
        Keeps s w op e f g true true true ∧
        t.core s.here = { c with queue := c.queue ++ [w],
                                 ranges := c.ranges ++ [range a1 stride1 true w, range a2 stride2 false w] }
      (s.rdS (e.toNat + 1) = plainShape 0 stride1 rows → s.rdS g.toNat = BitVec.ofNat 64 len →
        queued (.cp h e f g) 0xF0) ∧
      (s.rdS (e.toNat + 1) = plainShape 1 stride1 rows → s.myLaunch.record.gang = 1 → a1 < 2 ^ 21 →
        s.rdS g.toNat = BitVec.ofNat 64 (2 ^ (24 + s.here % 4) + len) → queued (.cpm h e f g) 0xF1)) ∧
    let n := (s.rdS f.toNat).toNat
    (c.baton = some s.cur.warp → s.cw.engine ≠ .ie → c.queue.length < 8 → c.ranges.length ≤ 16 → n / 2 ^ 37 % 2 ^ 17 = 0 →
      n / 2 ^ 30 % 2 = 0 → n / 2 ^ 18 % 4 = 0 → ∃ t, ∃ w : TileOp, exec (.mmarx h f) s = .next t ∧
        OnlyCoreAndPlace s t s.here ∧ t.mic.wait = .chain true ∧ Keeps s w 0xF5 0#6 f 0#6 false false false ∧
        t.core s.here = { c with queue := c.queue ++ [w] })

/-- R212, R213, R214: the baton. A free one with no waiter goes to the warp that takes or tries it, with its context's
rule table, and to a holder of another context than the last with the engine emptied, once the tile queue is empty, as
to one whose saved engine is to come back with its instructions and their ranges; else a take waits in the queue and a try
answers 0. A take whose wait has ended has been granted it. The holder gives it up, and reads and clears the sticky bit;
another warp's give or ovf traps BATON. That a try answers 0 where the grant must wait is the model's choice (log 30). -/
def Obligations.BatonResults : Prop :=
  ∀ (s : State) (h : Hdr) (e : BitVec 6), s.taken h = true →
    let c := s.core s.here
    let mine := c.baton = some s.cur.warp
    let idle := c.queue = [] ∧ c.streamBusy = none ∧ c.loadBusy = none
    let free := c.baton = none ∧ c.batonQueue = [] ∧
      (c.batonCtx = s.myCtx ∨ idle) ∧ ∀ x, (c.savedEngines.find? fun e => e.holder == some s.cur.warp) = some x →
        idle ∧ c.ranges.length + (x.ops.flatMap s.rangesOf).length ≤ 16
    let holds (t : State) : Prop := (∀ k, k ≠ s.here → t.core k = s.core k) ∧
      (t.core s.here).baton = some s.cur.warp ∧ (t.core s.here).batonCtx = s.myCtx ∧
      (t.core s.here).table = s.tableKey s.myCtx ∧ (c.table ≠ s.tableKey s.myCtx → (t.core s.here).applied = []) ∧
      (if c.batonCtx = s.myCtx then
        (t.core s.here).bank0 = c.bank0 ∧ (t.core s.here).bank1 = c.bank1 ∧ (t.core s.here).accum = c.accum ∧
          (t.core s.here).badAccum = c.badAccum ∧ (t.core s.here).overflow = c.overflow
      else (t.core s.here).bank0 = {} ∧ (t.core s.here).bank1 = {} ∧ (t.core s.here).accum = [] ∧
        (t.core s.here).badAccum = [] ∧ (t.core s.here).overflow = false)
    let tells (t : State) (x : Word) : Prop := (∀ q, sReg t q = if q = e.toNat then x else sReg s q) ∧
      t.cw.regs.v = s.cw.regs.v ∧ t.cw.regs.p = s.cw.regs.p ∧ (∀ k, k ≠ s.cur.warp → t.warp k = s.warp k) ∧
      t = { s with cores := t.cores, warps := t.warps }
    let met := s.mic.wake = .met
    (mine ∨ met → exec (.batonTake h) s = .next s) ∧
    (¬ met → free → ∃ t, exec (.batonTake h) s = .next t ∧ holds t ∧ t = { s with cores := t.cores }) ∧
    (¬ met → ¬ mine → ¬ free → ∃ t, exec (.batonTake h) s = .next t ∧ OnlyCoreAndPlace s t s.here ∧ t.mic.wait = .baton ∧
      t.core s.here = { c with batonQueue := c.batonQueue ++ [s.cur.num] } ∧ Instr.batonGrant s.here ∈ t.agenda) ∧
    (mine → ∃ t, exec (.batonGive h) s = .next t ∧ OnlyCore s t s.here ∧ t.core s.here = { c with baton := none } ∧
      (c.batonQueue ≠ [] → Instr.batonGrant s.here ∈ t.agenda)) ∧
    (¬ mine → exec (.batonGive h) s = .next (s.trapHere .baton) ∧ exec (.batonOvf h e) s = .next (s.trapHere .baton)) ∧
    (mine → ∃ t, exec (.batonTry h e) s = .next t ∧ tells t 1#64 ∧ t.cores = s.cores) ∧
    (free → ∃ t, exec (.batonTry h e) s = .next t ∧ tells t 1#64 ∧ holds t) ∧
    (¬ mine → ¬ free → ∃ t, exec (.batonTry h e) s = .next t ∧ tells t 0#64 ∧ t.cores = s.cores) ∧
    (mine → ∃ t, exec (.batonOvf h e) s = .next t ∧ tells t (if c.overflow then 1#64 else 0#64) ∧
      (∀ k, k ≠ s.here → t.core k = s.core k) ∧ t.core s.here = { c with overflow := false })

/-- R249, R253: the rewrite stage's controls, with no word of the warp held, or after the flush of the holder's held
words: suspension, the class mask, the counters of the core's table, which only the holder clears. A mask without bit 0 or
beyond three bits, and a selector beyond seven bits, trap BOUNDS. Where a held word traps in the flush the control has no
effect, and where the flush finds no room the control waits. -/
def Obligations.RewriteControlResults : Prop :=
  ∀ (s : State) (h : Hdr) (d a : BitVec 6), s.taken h = true →
    let c := s.core s.here
    let still := c.baton ≠ some s.cur.warp ∨ (c.window = [] ∧ s.cw.skip = 0)
    let flushed := s.flushWindow s.here
    (¬ still → ∀ i ∈ [.rwctlFlush h, .rwctlOff h, .rwctlOn h, .rwctlMask h a, .rwctlCnt h d a, .rwctlClr h],
      (flushed.cw.stat ≠ s.cw.stat → exec i s = .next flushed) ∧
      (flushed.cw.stat = s.cw.stat → (flushed.core s.here).window ≠ [] → exec i s = .next (flushed.waitFor (.room .window)))) ∧
    ∀ u : State, (still ∧ u = s) ∨
        (¬ still ∧ u = flushed ∧ flushed.cw.stat = s.cw.stat ∧ (flushed.core s.here).window = []) →
      let x := (s.rdS a.toNat).toNat
      let k := u.core u.here
      let ours := k.table = u.tableKey u.myCtx
      let count : Word := if ours ∧ x % 64 < (u.rulesOf u.myCtx).length then
        Tab.get 0#64 (if x < 64 then k.applied else k.restarted) (x % 64) else 0#64
      exec (.rwctlFlush h) s = .next u ∧
      exec (.rwctlOff h) s = .next (u.setCw { u.cw with suspended := true }) ∧
      exec (.rwctlOn h) s = .next (u.setCw { u.cw with suspended := false }) ∧
      (x % 2 = 1 → x < 8 → exec (.rwctlMask h a) s =
        .next (u.setCw { u.cw with cmask := BitVec.ofNat 3 x })) ∧
      (x % 2 = 0 ∨ 8 ≤ x →
        exec (.rwctlMask h a) s = .next (u.trapHere .bounds)) ∧
      (128 ≤ x → exec (.rwctlCnt h d a) s = .next (u.trapHere .bounds)) ∧
      (x < 128 →
        exec (.rwctlCnt h d a) s = .next (u.putS d.toNat count) ∧ (u = s → WritesS (.rwctlCnt h d a) s d.toNat count)) ∧
      (ours ∧ k.baton = some u.cur.warp →
        exec (.rwctlClr h) s = .next (u.setCore u.here { k with applied := [], restarted := [] })) ∧
      (¬ (ours ∧ k.baton = some u.cur.warp) → exec (.rwctlClr h) s = .next u)

namespace Sys2Proof.Claims

/-! ## Rings, records and requests (spec/04, spec/17, spec/18) -/

/-- Bytes off to off + n − 1 of a run of bytes, the first least significant. -/
def numAt (f : Nat → Byte) (off n : Nat) : Nat := ((List.range n).map fun i => (f (off + i)).toNat * 256 ^ i).sum

/-- Bytes off to off + n − 1 of a run of bytes are zero. -/
def ZerosAt (f : Nat → Byte) (off n : Nat) : Prop := ∀ i < n, f (off + i) = 0#8

/-- Byte i of the record at the head of a queue (R75, R78). -/
def recordByte (s : State) (part queue i : Nat) : Byte :=
  let q := s.queue (64 * part + queue)
  s.mem.byte (q.base + 64 * ((q.head + i / 64) % q.size) + i % 64)

/-- From s to u reads at the homes have changed nothing but the tags of the L2 slices and which flawed cells they have met
(R266, R267, R405). -/
def TagsOnly (s u : State) : Prop := u = { s with l2 := u.l2, zeroLines := u.zeroLines, corrected := u.corrected }

/-- The vector of a queue's completion interrupt, or 0 for none (R77, R363). -/
def vectorOf (irq : Bool) (queue : Nat) : Nat := if irq then 1 + queue % 63 else 0

/-- A well-formed record of a type and length stands at the head of a queue that fetches, and is the last one fetched
so far (R77, R78). -/
def LastRecord (s : State) (part queue kind units : Nat) : Prop :=
  let q := s.queue (64 * part + queue)
  let f := recordByte s part queue
  q.bound = true ∧ q.hold = .free ∧ q.skip = 0 ∧ q.head < q.size ∧ units < q.size ∧ q.tail = (q.head + units) % q.size ∧
    numAt f 7 1 = 0 ∧ numAt f 3 1 ≤ 1 ∧ numAt f 2 1 = kind ∧ numAt f 1 1 = 0 ∧ 1 ≤ numAt f 0 1 ∧ numAt f 0 1 ≤ 3 ∧
    numAt f 4 1 = units ∧ units = if kind = 1 ∧ numAt f 0 1 = 3 then 2 else 1

/-- The body of a WAIT or SIGNAL record keeps R79. -/
def SemaphoreBody (f : Nat → Byte) : Prop := numAt f 8 8 % 8 = 0 ∧ numAt f 24 1 ≤ 1 ∧ ZerosAt f 25 39

/-- The fields that a launch record of any revision gives as they stand, with their offsets and sizes (R80, R82). -/
def launchFields (r : LaunchRec) : List (Nat × Nat × Nat) :=
  [(r.tag, 5, 2), (r.code, 8, 8), (r.pool, 16, 8), (r.entry, 24, 4), (r.poolwords, 28, 4), (r.gridX, 32, 4),
   (r.gridY, 36, 4), (r.gridZ, 40, 4), (r.warps, 44, 1), (r.regs, 45, 1), (r.l1min, 46, 1), (r.scratchL, 48, 4),
   (r.scratchK, 52, 4), (r.priv, 56, 4), (r.prio, 61, 1)]

/-- The fields that revision 3 adds, with their offsets and sizes (R80). -/
def launchFields3 (r : LaunchRec) : List (Nat × Nat × Nat) :=
  [(r.arena, 64, 8), (r.arenasize, 72, 8), (r.snappool, 80, 8), (r.snappages, 88, 4), (r.replays, 92, 1), (r.auditk, 93, 1),
   (r.cards, 94, 2), (r.cardarea, 96, 8), (r.phasewait, 104, 4)]

/-- A launch's record holds what the record f of a revision gives (R80, R82): its placement byte, its launch flags, its
rewrite mask with class E, and, from an older revision, the defaults of the partition x. -/
structure HoldsRecord (f : Nat → Byte) (rev : Nat) (x : Partition) (r : LaunchRec) : Prop where
  fields : ∀ e ∈ launchFields r, e.1 = numAt f e.2.1 e.2.2
  place : r.bpc = numAt f 62 1 / 4 % 32 ∧ r.gang = if rev = 1 then 1 else 2 ^ (numAt f 62 1 % 4)
  rwmask : r.rwmask = if rev = 1 then 1 else numAt f 47 1 / 2 * 2 + 1
  mmrev : r.mmrev = if rev = 1 then 1 else numAt f 60 1
  flags : (r.snap = true ↔ rev ≠ 1 ∧ numAt f 63 1 % 2 = 1) ∧ (r.ordered = true ↔ rev ≠ 1 ∧ numAt f 63 1 / 16 % 2 = 1) ∧
    (r.audit = true ↔ rev = 3 ∧ numAt f 63 1 / 2 % 2 = 1) ∧ (r.phwait = true ↔ rev = 3 ∧ numAt f 63 1 / 4 % 2 = 1) ∧
    (r.region = true ↔ rev = 3 ∧ numAt f 63 1 / 8 % 2 = 1)
  new : rev = 3 → ∀ e ∈ launchFields3 r, e.1 = numAt f e.2.1 e.2.2
  old : rev ≠ 3 → (r.arena = x.arena ∧ r.arenasize = x.arenasize ∧ r.snappool = x.snappool ∧ r.snappages = x.snappages) ∧
    r.replays = 1 ∧ r.auditk = 0 ∧ r.cards = 0 ∧ r.cardarea = 0 ∧ r.phasewait = 0

/-- A record header breaks its map (R77). -/
def BadHeader (f : Nat → Byte) : Prop :=
  numAt f 7 1 ≠ 0 ∨ 1 < numAt f 3 1 ∨ 3 < numAt f 2 1 ∨ numAt f 1 1 ≠ 0 ∨ numAt f 0 1 = 0 ∨ 3 < numAt f 0 1 ∨
    numAt f 4 1 ≠ if numAt f 2 1 = 1 ∧ numAt f 0 1 = 3 then 2 else 1

/-- The bytes of a completion entry (R369), the valid bit by the pass. -/
def entryByte (tag status source queue rollbacks head : Nat) (pass : Bool) (i : Nat) : Byte :=
  BitVec.ofNat 8 ((tag % 2 ^ 64 + status % 256 * 2 ^ 64 + source % 256 * 2 ^ 72 + queue % 256 * 2 ^ 80 +
    rollbacks % 256 * 2 ^ 88 + head % 2 ^ 16 * 2 ^ 96 + (if pass then 2 ^ 120 else 0)) / 256 ^ i)

/-- A ring that a partition page names keeps an entry outstanding (R368). -/
def Outstanding (x : Partition) (k : RingKind) : Prop :=
  (x.ring k).head ≠ (x.ring k).tail ∨ (k = .completion ∧ x.backlog ≠ [])

end Sys2Proof.Claims

/-- R363, R369: a completion. With room in its partition's configured ring the sixteen bytes are written at the tail,
which moves on, the valid bit changes with each pass, and the port signals vector 0, and the completion's own vector
where it has one; otherwise the completion waits, and nothing is lost. R76, R77, R83: a launch that completes releases
what it wrote if it has started and leaves the state done, its saved blocks and replays are forgotten, its stack
allocations freed, and its status goes to the completion ring with its tag, queue and rollbacks, the head behind its
record, and its queue's vector where its record asks for the interrupt. That a completion waits for a ring that is not
configured is the model's choice (log 39). -/
def Obligations.CompletionEntries : Prop :=
  (∀ (s : State) (p tag status source queue rollbacks head vector : Nat), QuietHome s →
    let x := s.part p
    let r := x.completion
    let t := s.complete p tag status source queue rollbacks head vector
    (x.backlog = [] → r.configured = true → (r.tail + 1) % r.size ≠ r.head →
      t = { s with mem := t.mem, l2 := t.l2, zeroLines := t.zeroLines, parts := t.parts, msix := t.msix } ∧
      t.part p = { x with completion :=
        { r with tail := (r.tail + 1) % r.size, pass := if (r.tail + 1) % r.size = 0 then !r.pass else r.pass } } ∧
      (∀ q, q ≠ p → t.part q = s.part q) ∧
      (∀ v, Tab.get 0 t.msix v = Tab.get 0 s.msix v + (if v = 64 * x.port then 1 else 0) +
        (if vector ≠ 0 ∧ v = 64 * x.port + vector then 1 else 0)) ∧
      ∀ a, t.mem.byte a = if r.base + 16 * r.tail ≤ a ∧ a < r.base + 16 * r.tail + 16 then
        entryByte tag status source queue rollbacks head r.pass (a - (r.base + 16 * r.tail)) else s.mem.byte a) ∧
    (r.configured = false ∨ (r.tail + 1) % r.size = r.head → ∃ e : List Byte, e.length = 15 ∧
      (∀ i < 15, e.getD i 0#8 = entryByte tag status source queue rollbacks head false i) ∧
      t = s.setPart p { x with backlog := x.backlog ++ [(e, vector)] })) ∧
  (∀ (s : State) (l status : Nat), (s.launch l).open = true →
    let x := s.launch l
    let u := if x.started then s.flushPart x.part else s
    ∃ t : State, s.endLaunch l status =
        t.complete x.part x.record.tag status 0 x.queue x.rollbacks x.nextAt (vectorOf x.record.irq x.queue) ∧
      t = { u with launches := t.launches, stackMem := t.stackMem } ∧
      t.launch l = { x with phase := .done, saved := [], replaying := [] } ∧ (∀ m, m ≠ l → t.launch m = u.launch m) ∧
      ∀ k, t.stack k = { u.stack k with allocs := (u.stack k).allocs.filter fun a => a.1 != l })

/-- R77 to R82: the records of a command queue, each the last one fetched. A NOP completes; a WAIT stops fetch until
its semaphore meets its condition, then completes; a SIGNAL waits for the earlier launches of its queue and then stores
or adds; a LAUNCH becomes a launch with the record's fields, as its revision reads them. A body or a header that breaks
its map completes with BAD_RECORD, as does a SIGNAL whose address does not translate; fetch goes on behind the units
that the header states, one where it states none, and what of them is not written yet is passed when it is (the last
two are the model's choice, log 39). A completion carries the head behind its record, and the interrupt that its record
asks for. The agenda is the model's own (log 3). -/
def Obligations.CommandRecordResults : Prop :=
  ∀ (s : State) (part queue : Nat), QuietHome s →
    let k := 64 * part + queue
    let q := s.queue k
    let f := recordByte s part queue
    let tag := numAt f 5 2
    let irq := decide (numAt f 3 1 = 1)
    let completes (t : State) (tag status head : Nat) (irq : Bool) : State :=
      t.complete part tag status 0 queue 0 head (vectorOf irq queue)
    let passes (i : Instr) (status : Nat) : Prop := ∃ u, TagsOnly s u ∧
      exec i s = .next (completes (u.setQueue k { q with head := q.tail }) tag status q.tail irq)
    (∀ port tail n m, part < s.layout → (s.part part).port = port → s.booted = true → queue < 64 →
      let u := s.readDispositions part
      let x := u.queue k
      let g := recordByte u part queue
      QuietHome u → x.bound = true → x.hold = .free → x.skip = 0 → x.head < x.size → tail < x.size → BadHeader g →
      n = max (numAt g 4 1) 1 → m = (tail + x.size - x.head) % x.size → 1 ≤ m → m ≤ n →
      ∃ v, TagsOnly u v ∧ exec (.queueDoorbell port part queue tail) s = .next (completes
        (v.setQueue k { x with head := tail, tail := tail, skip := n - m }) (numAt g 5 2) 5 tail
          (decide (numAt g 3 1 % 2 = 1)))) ∧
    (LastRecord s part queue 0 1 →
      (ZerosAt f 8 56 → passes (.nopRecord part queue) 0) ∧ (¬ ZerosAt f 8 56 → passes (.nopRecord part queue) 5)) ∧
    (LastRecord s part queue 2 1 →
      (SemaphoreBody f → ∃ u, TagsOnly s u ∧ exec (.waitRecord part queue) s = .next ((u.setQueue k { q with
        head := q.tail, hold := .wait (numAt f 8 8) (numAt f 16 8) (decide (numAt f 24 1 = 1)) tag irq }).later
          (.waitProceed part queue))) ∧
      (¬ SemaphoreBody f → passes (.waitRecord part queue) 5)) ∧
    (∀ addr value tag eq irq u bs, q.hold = .wait addr value eq tag irq → q.head = q.tail →
      s.cpRead q.ctx 1 addr 8 = some (u, bs) → (if eq then leNat bs = value else value ≤ leNat bs) →
        exec (.waitProceed part queue) s = .next (completes (u.setQueue k { q with hold := .free }) tag 0 q.head irq)) ∧
    (LastRecord s part queue 3 1 →
      (SemaphoreBody f → ∃ u, TagsOnly s u ∧ exec (.signalRecord part queue) s = .next ((u.setQueue k { q with
        head := q.tail
        signals := q.signals ++ [{ addr := numAt f 8 8, value := numAt f 16 8, add := decide (numAt f 24 1 = 1), tag := tag,
                                   irq := irq, head := q.tail, launches := s.openOf part queue }] }).later (.signalUpdate part queue))) ∧
      (¬ SemaphoreBody f → passes (.signalRecord part queue) 5)) ∧
    (∀ g : Signal, q.signals = [g] →
      let taken := s.setQueue k { q with signals := [] }
      ((∃ l ∈ g.launches, (s.launch l).phase ≠ .done) → exec (.signalUpdate part queue) s = .next s) ∧
      ((∀ l ∈ g.launches, (s.launch l).phase = .done) →
        (taken.cpXlate q.ctx g.addr .atomic = none → exec (.signalUpdate part queue) s = .next (completes taken g.tag 5 g.head g.irq)) ∧
        ∀ u p, taken.cpXlate q.ctx g.addr .atomic = some (u, p) → QuietHome u → ∃ v, TagsOnly u v ∧
          exec (.signalUpdate part queue) s = .next (completes (v.homeWrite p
            (leBytes (if g.add then (u.mem.num p 8 + g.value) % 2 ^ 64 else g.value) 8)) g.tag 0 g.head g.irq))) ∧
    ∀ units, LastRecord s part queue 1 units → ∀ h r, h = headerOf (numAt f 0 8) →
      r = launchOf h ((List.range (64 * units)).map f) (s.part part) →
      let good := mapOk h ((List.range (64 * units)).map f) r = true ∧ recordOk r (s.coresOf part).length = true
      (¬ good → passes (.launchRecord part queue) 5) ∧
      (good → HoldsRecord f (numAt f 0 1) (s.part part) r ∧ r.irq = irq ∧ ∃ u, ∃ x : Launch, TagsOnly s u ∧
        exec (.launchRecord part queue) s =
          .next ({ (u.setLaunch s.launchCount x) with launchCount := s.launchCount + 1 }.setQueue k { q with head := q.tail }) ∧
        x.phase = .waiting ∧ x.part = part ∧ x.queue = queue ∧ x.ctx = q.ctx ∧ x.record = r ∧ x.recordAt = q.head ∧
        x.nextAt = q.tail)

/-- R363, R365, R367, R368: what a host's accesses do. Only the port of a partition reaches its page. Status clears as
it is read; a ring takes its base and size unless an entry is outstanding; head and mailbox registers are stored; the
aperture reads and writes device memory inside the partition's windows. R368, R369, R387: a doorbell of the port's own
partition, the images started. A tail beyond the ring, or an unconfigured ring, sets the doorbell error. Otherwise the
queue or ring takes the tail, and what stands up to it is fetched: a record's event, or a request's event in the order
of the ring, which remembers the head behind it for its completion. The agenda is the model's own (log 3), and a
register write is an aligned write of 8 bytes (log 18). -/
def Obligations.HostAccessResults : Prop :=
  (∀ (s : State) (port part : Nat) (k : RingKind) (n : Nat), QuietHome s → part < 4 →
    let x := s.part part
    let m := s.mailbox
    let r := x.ring k
    let size := ∃ j, 6 ≤ j ∧ j ≤ 16 ∧ n = 2 ^ j
    let owner := part < s.layout ∧ x.port = port
    let entry : Nat := match k with | .completion => 16 | .event => 16 | .control => 32 | .admin => 64
    let page (o : Nat) : Nat := 0x10000 * (part + 1) + o
    let baseAt : Nat := match k with | .completion => 0x00 | .event => 0x10 | .control => 0x20 | .admin => 0x30
    let inWindow (a m : Nat) : Prop := ∃ w ∈ x.win0 ++ x.win1, w.1 ≤ a ∧ a + m ≤ w.1 + w.2
    (¬ owner → ∀ v, ∀ e ∈ [Instr.statusRead port part, .ringSizeWrite port part k n, .completionHeadWrite port part n,
      .queueDoorbell port part n v, .controlDoorbell port part n, .adminDoorbell port part n,
      .registerWrite port (page baseAt) v, .registerWrite port (page 0x58) v], exec e s = .next s) ∧
    (owner →
      exec (.statusRead port part) s = .next (s.setPart part { x with
        doorbellError := false, eventsLostBit := false, outsideWindow := false, refusedRing := false }) ∧
      (¬ size ∨ (r.configured = true ∧ Outstanding x k) →
        exec (.ringSizeWrite port part k n) s = .next (s.setPart part { x with refusedRing := true })) ∧
      (size → ¬ (r.configured = true ∧ Outstanding x k) → (k = .completion → x.backlog = []) →
        (inWindow r.base (n * entry) → exec (.ringSizeWrite port part k n) s = .next (s.setPart part
          (x.setRing k { base := r.base, size := n, configured := true }))) ∧
        (¬ inWindow r.base (n * entry) → exec (.ringSizeWrite port part k n) s = .next (s.setPart part
          ({ x with outsideWindow := true }.setRing k { base := r.base, size := n })))) ∧
      (n < x.completion.size → x.backlog = [] → exec (.completionHeadWrite port part n) s =
        .next (s.setPart part { x with completion := { x.completion with head := n } })) ∧
      (r.configured = false → exec (.registerWrite port (page baseAt) n) s =
        .next (s.setPart part (x.setRing k { r with base := n % 2 ^ 64 }))) ∧
      (r.configured = true → Outstanding x k → exec (.registerWrite port (page baseAt) n) s =
        .next (s.setPart part { x with refusedRing := true })) ∧
      (n < x.event.size → exec (.registerWrite port (page 0x58) n) s =
        .next (s.setPart part { x with event := { x.event with head := n } })) ∧
      ∀ a bs, inWindow a bs.length →
        (∃ t, exec (.apertureBarAccess port false a bs) s = .next t ∧ TagsOnly s t) ∧
        ∃ t, exec (.apertureBarAccess port true a bs) s = .next t ∧
          t = { s with mem := t.mem, l2 := t.l2, zeroLines := t.zeroLines } ∧
          ∀ b, t.mem.byte b = if a ≤ b ∧ b < a + bs.length then bs.getD (b - a) 0#8 else s.mem.byte b) ∧
    ((m.command / 2 ^ 31 % 2 = 0 → exec (.registerWrite 0 0xF0000 n) s = .next { s with mailbox :=
        { m with command := n % 256 + n / 2 ^ 31 % 2 * 2 ^ 31, result := m.result % 256 } }) ∧
      (m.command / 2 ^ 31 % 2 = 1 → exec (.registerWrite 0 0xF0000 n) s = .next s) ∧
      exec (.registerWrite 0 0xF0010 n) s = .next { s with mailbox := { m with argument := n % 2 ^ 64 } } ∧
      (∀ o, 0x100 ≤ o → o + 8 ≤ 0x1000 → ∃ d, exec (.registerWrite 0 (0xF0000 + o) n) s =
        .next { s with mailbox := { m with data := d } } ∧ ∀ b, d.byte b =
          if o - 0x100 ≤ b ∧ b < o - 0x100 + 8 then BitVec.ofNat 8 (n / 256 ^ (b - (o - 0x100))) else m.data.byte b) ∧
      ∀ o, o < 0x1000 → exec (.registerWrite 1 (0xF0000 + o) n) s = .next s)) ∧
  (∀ (s : State) (port part queue tail : Nat), part < s.layout → (s.part part).port = port → s.booted = true → queue < 64 →
    let u := s.readDispositions part
    let x := u.part part
    let q := u.queue (64 * part + queue)
    let wrong : Out := .next (u.setPart part { x with doorbellError := true })
    let v := u.setQueue (64 * part + queue) { q with tail := tail }
    (q.bound = false ∨ q.size ≤ tail → exec (.queueDoorbell port part queue tail) s = wrong) ∧
    (x.control.configured = false ∨ x.control.size ≤ tail → exec (.controlDoorbell port part tail) s = wrong) ∧
    (x.admin.configured = false ∨ x.admin.size ≤ tail → exec (.adminDoorbell port part tail) s = wrong) ∧
    (QuietHome u →
      (q.bound = true → tail < q.size → (tail = q.head ∨ q.hold ≠ .free → exec (.queueDoorbell port part queue tail) s = .next v) ∧
        ∀ kind units, LastRecord v part queue kind units → kind ≤ 3 → ∃ v', TagsOnly v v' ∧
          exec (.queueDoorbell port part queue tail) s = .next (v'.later (match kind with
            | 0 => .nopRecord part queue | 1 => .launchRecord part queue
            | 2 => .waitRecord part queue | _ => .signalRecord part queue))) ∧
      (x.control.configured = true → tail < x.control.size → tail = (x.control.head + 1) % x.control.size →
        x.control.head ≠ tail →
        let f (i : Nat) : Byte := u.mem.byte (x.control.base + 32 * x.control.head + i)
        let ctx := numAt f 2 2
        ∃ v, TagsOnly u v ∧
        let r := x.control
        let w := v.setPart part { x with control := { r with head := tail, tail := tail, heads := r.heads ++ [(numAt f 24 8, tail)] } }
        let refused := (v.setPart part { x with control := { r with head := tail, tail := tail } }).complete part (numAt f 24 8) 5 1 0 0 tail 0
        let ok := numAt f 1 1 = 0 ∧ numAt f 4 4 = 0 ∧ (∃ c, u.context ctx = some c ∧ c.part = part) ∧
          (numAt f 0 1 ≠ 3 → numAt f 8 8 % 65536 = 0 ∧ numAt f 16 8 % 65536 = 0)
        (ok → ∀ e ∈ [(1, Instr.inval part ctx (numAt f 8 8) (numAt f 16 8) (numAt f 24 8)),
            (2, .invalFlush part ctx (numAt f 8 8) (numAt f 16 8) (numAt f 24 8)), (3, .invalCtx part ctx (numAt f 24 8))],
          numAt f 0 1 = e.1 → exec (.controlDoorbell port part tail) s = .next { w with agenda := w.agenda ++ [e.2] }) ∧
        (¬ ok ∨ numAt f 0 1 = 0 ∨ 3 < numAt f 0 1 →
          (∀ e ∈ r.heads, e.1 ≠ numAt f 24 8) → exec (.controlDoorbell port part tail) s = .next refused)) ∧
      (x.admin.configured = true → tail < x.admin.size → tail = (x.admin.head + 1) % x.admin.size → x.admin.head ≠ tail →
        let f (i : Nat) : Byte := u.mem.byte (x.admin.base + 64 * x.admin.head + i)
        let tag := numAt f 8 8
        ∃ v, TagsOnly u v ∧
        let r := x.admin
        let w := v.setPart part { x with admin := { r with head := tail, tail := tail, heads := r.heads ++ [(tag, tail)] } }
        let refused := (v.setPart part { x with admin := { r with head := tail, tail := tail } }).complete part tag 5 2 0 0 tail 0
        let requests := [(1, Instr.installContext part (numAt f 16 8) tag, [(24, 40)]),
            (2, .removeContext part (numAt f 24 2) tag, [(16, 8), (26, 38)]),
            (3, .bindQueue part (numAt f 24 2) (numAt f 26 2) (numAt f 32 8) (numAt f 40 8) tag, [(16, 8), (28, 4), (48, 16)]),
            (4, .cancelLaunch part (numAt f 24 2) (numAt f 26 2) tag, [(16, 8), (28, 36)]),
            (5, .powerLimit part (numAt f 24 4) tag, [(16, 8), (28, 36)]),
            (6, .attest part (numAt f 16 8) (numAt f 32 32) tag, [(24, 8)])]
        let keeps (e : Nat × Instr × List (Nat × Nat)) : Prop :=
          ZerosAt f 1 7 ∧ numAt f 0 1 = e.1 ∧ ∀ z ∈ e.2.2, ZerosAt f z.1 z.2
        (∀ e ∈ requests, keeps e → exec (.adminDoorbell port part tail) s =
          .next { w with agenda := w.agenda ++ [e.2.1] }) ∧
        ((∀ e ∈ requests, ¬ keeps e) →
          (∀ e ∈ r.heads, e.1 ≠ tag) → exec (.adminDoorbell port part tail) s = .next refused))))

namespace Sys2Proof.Claims

/-- The core holds a byte of global memory dirty in its L1 (R264). -/
def DirtyAt (s : State) (c a : Nat) : Prop :=
  ∃ l ∈ (s.core c).l1, l.line = a / 128 ∧ ∃ e ∈ l.bytes, e.1 = a % 128 ∧ e.2.2 = true

/-- A request of a ring is answered (R369): its completion gives the head behind it, which the ring remembers from its
fetch on until then. -/
def answered (t : State) (part : Nat) (k : RingKind) (tag status : Nat) : State :=
  let x := t.part part
  let r := x.ring k
  let behind := ((r.heads.find? fun e => e.1 == tag).map (·.2)).getD r.head
  (t.setPart part (x.setRing k { r with heads := r.heads.eraseP fun e => e.1 == tag })).complete part tag status
    (if k = .control then 1 else 2) 0 0 behind 0

/-- From s to t the entries of a context whose pages meet a test have left every TLB, and every entry of the context the
walk caches; nothing else has changed (R358). -/
def Dropped (s t : State) (ctx : Nat) (meets : TlbEntry → Bool) : Prop :=
  let keep (e : TlbEntry) : Bool := !(e.ctx == ctx && meets e)
  t = { s with cores := t.cores, clusters := t.clusters, stackMem := t.stackMem } ∧
    (∀ c, t.core c = { s.core c with tlb := (s.core c).tlb.filter keep }) ∧
    (∀ c, t.cluster c = { s.cluster c with tlb := (s.cluster c).tlb.filter keep }) ∧
    ∀ k, t.stack k = { s.stack k with
      tlb := (s.stack k).tlb.map fun r => (r.1, r.2.filter keep)
      walkCache := (s.stack k).walkCache.filter fun w => w.ctx != ctx }

/-- From s to t every core of a partition has written back what it held dirty and emptied its L1, and no line is on its
way into one (R358). -/
def Emptied (s t : State) (part : Nat) : Prop :=
  (∀ p, t.part p = { s.part p with memUsed := (t.part p).memUsed }) ∧ t.contexts = s.contexts ∧ t.launches = s.launches ∧ (∀ c ∈ s.coresOf part, (t.core c).l1 = []) ∧
    (∀ f ∈ t.flights, f.fill = true → f.core ∉ s.coresOf part) ∧
    (QuietHome s → (∀ c ∈ s.coresOf part, (s.core c).redBuf = []) → t.warps = s.warps ∧ t.blocks = s.blocks ∧
      (∀ c, c ∉ s.coresOf part → t.core c = s.core c) ∧ ((∀ c ∈ s.coresOf part, OrderedL1 s c) → ∀ a,
      ((∀ c ∈ s.coresOf part, ¬ DirtyAt s c a) → t.mem.byte a = s.mem.byte a) ∧
      ∀ c ∈ s.coresOf part, DirtyAt s c a → (∀ d ∈ s.coresOf part, d ≠ c → ¬ DirtyAt s d a) →
        t.mem.byte a = coreByte s c a))

/-- A launch ends with a status of its own: an abort's, or that of a rollback that restores nothing (R371, R387, R408). -/
def KeepsStatus (x : Launch) : Prop :=
  (x.ending ≠ none ∧ x.ending ≠ some 9) ∨ (x.undoing = true ∧ (x.record.snap = false ∨ x.unprotected = true))

end Sys2Proof.Claims

/-- R357, R358: INVAL drops the entries of its range, INVAL_FLUSH empties the L1s of the partition too, and INVAL_CTX
does so for every page of the context; each waits while a copy or tile uses a page of the range, one that a save has
recorded among them, and then completes. R345, R346, R370, R371, R377, R378: the admin requests. A context is installed
from its record and removed once it is idle; an idle queue is bound; the oldest open launch of a tag is cancelled, but
for one that ends with a status of its own (log 44); the port's power limit is set; a report is written. A request that
breaks a rule completes refused and changes nothing else. -/
def Obligations.RequestResults : Prop :=
  (∀ (s : State) (part ctx va len tag : Nat),
    let meets (e : TlbEntry) : Bool := decide (e.va < va + len) && decide (va < e.va + e.size)
    let done (t : State) : State := answered t part .control tag 0
    (s.pagesInUse ctx va len = true →
      exec (.inval part ctx va len tag) s = .next s ∧ exec (.invalFlush part ctx va len tag) s = .next s) ∧
    (s.pagesInUse ctx 0 (2 ^ 64) = true → exec (.invalCtx part ctx tag) s = .next s) ∧
    (s.pagesInUse ctx va len = false →
      (∃ t, exec (.inval part ctx va len tag) s = .next (done t) ∧ Dropped s t ctx meets) ∧
      ∃ t u, exec (.invalFlush part ctx va len tag) s = .next (done u) ∧ Dropped s t ctx meets ∧ Emptied t u part) ∧
    (s.pagesInUse ctx 0 (2 ^ 64) = false → ∃ t u, exec (.invalCtx part ctx tag) s = .next (done u) ∧
      Dropped s t ctx (fun _ => true) ∧ Emptied t u part)) ∧
  (∀ (s : State) (part addr n queue ctx base tag : Nat), QuietHome s →
    let x := s.part part
    let done (t : State) : State := answered t part .admin tag 0
    let refused : Out := .next (answered s part .admin tag 5)
    let f (i : Nat) : Byte := s.mem.byte (addr + i)
    let inWindow (a m : Nat) : Prop := ∃ w ∈ x.win0 ++ x.win1, w.1 ≤ a ∧ a + m ≤ w.1 + w.2
    let ours := ∃ c, s.context ctx = some c ∧ c.part = part
    (¬ inWindow addr 64 → exec (.installContext part addr tag) s = refused) ∧
    (inWindow addr 64 → s.contextOk part (s.mem.read addr 64) = false → ∃ u, TagsOnly s u ∧
      exec (.installContext part addr tag) s = .next (answered u part .admin tag 5)) ∧
    (inWindow addr 64 → s.contextOk part (s.mem.read addr 64) = true → ∃ u, ∃ c : Context, TagsOnly s u ∧
      exec (.installContext part addr tag) s = .next (done (u.setContext (numAt f 0 2) (some c))) ∧
      c.part = numAt f 2 1 ∧ (c.solo = true ↔ numAt f 3 1 = 1) ∧ c.root = BitVec.ofNat 64 (numAt f 8 8) ∧
      c.cbud = numAt f 40 4 ∧
      c.ibud = (List.range 6).map (fun i => if numAt f (32 + i) 1 = 0xFF then 32 else numAt f (32 + i) 1) ∧
      c.rtab = numAt f 16 8 ∧ (numAt f 16 8 = 0 ∨ ¬ inWindow (numAt f 16 8) (numAt f 24 4) → c.table = none) ∧
      (numAt f 16 8 ≠ 0 → inWindow (numAt f 16 8) (numAt f 24 4) → numAt f 24 4 ≤ 128 + 256 * 64 →
        c.table = tableAt (s.mem.read (numAt f 16 8) (numAt f 24 4)))) ∧
    (¬ ours → exec (.removeContext part ctx tag) s = refused) ∧
    (ours → s.contextIdle ctx = false → exec (.removeContext part ctx tag) s = .next s) ∧
    (ours → s.contextIdle ctx = true → ∃ t, exec (.removeContext part ctx tag) s = .next (done t) ∧
      t.context ctx = none ∧ (∀ i, i ≠ ctx → t.context i = s.context i) ∧
      ∀ c, (∀ e ∈ (t.core c).tlb, e.ctx ≠ ctx) ∧ ∀ e ∈ (t.core c).icache, e.ctx ≠ ctx) ∧
    (let q := s.queue (64 * part + queue)
     let good := queue < 64 ∧ ours ∧ (∃ j, 4 ≤ j ∧ j ≤ 16 ∧ n = 2 ^ j) ∧ inWindow base (64 * n) ∧ q.head = q.tail ∧
      q.hold = .free ∧ q.signals = [] ∧ s.openOf part queue = [];
     (good → exec (.bindQueue part queue ctx base n tag) s = .next (done
        (s.setQueue (64 * part + queue) { bound := true, ctx := ctx, base := base, size := n }))) ∧
      (¬ good → exec (.bindQueue part queue ctx base n tag) s = refused)) ∧
    ((∀ l ∈ s.openOf part queue, (s.launch l).record.tag ≠ n) → exec (.cancelLaunch part queue n tag) s = refused) ∧
    (∀ l, (s.openOf part queue).find? (fun l => (s.launch l).record.tag == n) = some l → (s.launch l).ending = none →
      (s.launch l).open = true → ¬ KeepsStatus (s.launch l) → ∃ t, exec (.cancelLaunch part queue n tag) s = .next (done t) ∧
        let x := s.launch l
        (s.residents l = [] → x.undoing = false → (t.launch l).phase = .done) ∧
          (s.residents l ≠ [] ∨ x.undoing = true → t.launch l = { x with ending := some 9 })) ∧
    (∀ l, (s.openOf part queue).find? (fun l => (s.launch l).record.tag == n) = some l →
      (KeepsStatus (s.launch l) → exec (.cancelLaunch part queue n tag) s = refused) ∧
      ((s.launch l).ending = some 9 → ¬ KeepsStatus (s.launch l) →
        exec (.cancelLaunch part queue n tag) s = .next (done s))) ∧
    (300 ≤ n ∧ n ≤ 2000 → exec (.powerLimit part n tag) s =
      .next (done { s with powerLimits := Tab.put s.powerLimits x.port n })) ∧
    (n < 300 ∨ 2000 < n → exec (.powerLimit part n tag) s = refused) ∧
    (¬ inWindow addr 1344 → exec (.attest part addr n tag) s = refused) ∧
    (inWindow addr 1344 → ∃ t, exec (.attest part addr n tag) s = .next (done t) ∧
      t = { s with mem := t.mem, l2 := t.l2, zeroLines := t.zeroLines } ∧
      (∀ a, a < addr ∨ addr + 1344 ≤ a → t.mem.byte a = s.mem.byte a) ∧
      (∀ i < 32, t.mem.byte (addr + 8 + i) = BitVec.ofNat 8 (n / 256 ^ i)) ∧
      numAt (fun i => t.mem.byte (addr + i)) 0 8 % 2 ^ 56 = 0x41 + 0x54 * 2 ^ 8 + 0x54 * 2 ^ 16 + 2 ^ 32 + part % 256 * 2 ^ 48))

/-- A device physical address in the form of R368, of memory that the device has (R350). -/
def Sys2Proof.Claims.DeviceAddress (a : Nat) : Prop :=
  a / 2 ^ 41 % 2 ^ 19 = 0 ∧ (a / 2 ^ 63 % 2 = 0 ∨ a / 2 ^ 60 % 8 = 0) ∧
    a % 2 ^ 60 < if a / 2 ^ 63 % 2 = 0 then Config.hbmBytes else Config.lpddrBytes

/-- R364 to R366, R372, R373: the mailbox's requests, while one waits; with none of its op each does nothing, which is
the model's choice (log 19). A configuration record that breaks its map is refused, as is one that changes a partition
with a context installed; a good one sets the layout and the partitions and empties every TLB. The configuration in
force is read back; the device number is set; an image is staged or refused; an op the mailbox does not know is
refused; a module reset starts the machine anew over its memory, each core's logical rows on its safe rows by code and
then by number (R126), the capacity table says what the codes give (R129), and the staged images are in their places,
verified in their order. That memory stands over a module reset is the model's choice (log 1), and so is which of a
staged image's checks fail: its length and its check are left open (log 14). -/
def Obligations.MailboxResults : Prop :=
  ∀ s : State,
    let m := s.mailbox
    let going := m.command / 2 ^ 31 % 2 = 1
    let op := m.command % 256
    (∀ e ∈ [(1, Instr.setConfiguration), (2, .readConfiguration), (3, .setDeviceNumber), (4, .stageImage)],
      ¬ (going ∧ op = e.1) → exec e.2 s = .next s) ∧
    (¬ (going ∧ (op = 0 ∨ 4 < op)) → exec .mailboxUnknownOp s = .next s) ∧
    (going →
    let answer (t : State) (r : Nat) : State := { t with mailbox := { t.mailbox with command := op, result := r + 256 } }
    let bs := m.data.read 0 1296
    let inUse := ∃ i ∈ s.installed, ((s.context i).map (·.part)).getD 0 ∈ s.touched bs
    (op = 1 →
      (configOk bs = false → exec .setConfiguration s = .next (answer s 1)) ∧
      (configOk bs = true → inUse → exec .setConfiguration s = .next (answer s 2)) ∧
      (configOk bs = true → ¬ inUse → ∃ t, exec .setConfiguration s = .next (answer t 0) ∧
        t = { s with layout := t.layout, parts := t.parts, cores := t.cores, clusters := t.clusters, stackMem := t.stackMem } ∧
        t.layout = (m.data.byte 6).toNat ∧
        (∀ p < t.layout, p ∉ s.touched bs → t.part p = s.part p) ∧
        (∀ p < t.layout, p ∈ s.touched bs →
          let f (off n : Nat) : Nat := numAt (fun i => m.data.byte (16 + 320 * p + i)) off n
          let x := t.part p
          x.port = f 0 1 ∧ x.group = f 1 1 ∧ x.inj = f 4 4 ∧ x.mem = f 8 4 ∧ x.arena = f 16 8 ∧ x.arenasize = f 24 8 ∧
            x.snappool = f 32 8 ∧ x.snappages = f 40 4 ∧ (∀ i < 8, x.win0.getD i (0, 0) = (f (48 + 16 * i) 8, f (56 + 16 * i) 8) ∧
              x.win1.getD i (0, 0) = (f (176 + 16 * i) 8, f (184 + 16 * i) 8)) ∧
            x.completion = (s.part p).completion ∧ x.event = (s.part p).event) ∧
        (∀ c, t.core c = { s.core c with tlb := [] }) ∧ (∀ c, t.cluster c = { s.cluster c with tlb := [] }) ∧
        ∀ k, t.stack k = { s.stack k with tlb := [], walkCache := [] })) ∧
    (op = 2 → ∃ d, exec .readConfiguration s = .next (answer { s with mailbox := { m with data := d } } 0) ∧
      d.read 0 1296 = s.configBytes ∧ ∀ a, 1296 ≤ a → d.byte a = m.data.byte a) ∧
    (op = 3 →
      (64 ≤ m.argument → exec .setDeviceNumber s = .next (answer s 1)) ∧
      (m.argument < 64 → s.installed ≠ [] → exec .setDeviceNumber s = .next (answer s 2)) ∧
      (m.argument < 64 → s.installed = [] → exec .setDeviceNumber s = .next (answer { s with device := m.argument } 0))) ∧
    (op = 4 →
      (¬ DeviceAddress m.argument → exec .stageImage s = .next (answer s 1)) ∧
      (DeviceAddress m.argument → QuietHome s →
        let d := Config.sm3 (s.mem.read m.argument (Config.imageBytes s.fresh))
        ∃ u, TagsOnly s u ∧
          (Config.stagedVerifies d = true → exec .stageImage s = .next (answer
            { u with fresh := s.fresh + 1, staged := Tab.put s.staged (Config.stagedKind d % 4) d } 0)) ∧
          (Config.stagedVerifies d = false → exec .stageImage s = .next (answer { u with fresh := s.fresh + 1 } 3)))) ∧
    (op = 0 ∨ 4 < op → exec .mailboxUnknownOp s = .next (answer s 4))) ∧
    (Tab.sorted s.cores = true → ∃ t, exec .moduleReset s = .next t ∧
      t = { State.reset with fresh := t.fresh, mem := s.mem, poison := s.poison, cores := t.cores,
                             staged := s.staged, images := s.staged, bootResult := t.bootResult,
                             capTable := t.cores.map fun e => (e.1, e.2.published) } ∧
      (∀ c, ((s.core c).codes = [] → t.core c = {}) ∧ ((s.core c).codes ≠ [] →
        t.core c = { codes := (s.core c).codes, rows := (s.core c).rowsAt 3, remap := (t.core c).remap } ∧
        ∀ r < (t.core c).rows, (t.core c).physRow r = ((s.core c).spares 3 0 []).getD r r)) ∧
      t.booted = false ∧ (t.bootResult.testBit 2 = true → t.bootResult.testBit 1 = true) ∧
      (t.bootResult.testBit 1 = true ∨ t.bootResult.testBit 3 = true → t.bootResult.testBit 0 = true))

namespace Sys2Proof.Claims

/-! ## Launches, blocks and saves (spec/04, spec/19) -/

/-- A warp as its block starts it (R27, R81): every register zero but s62, which points behind the fixed 4 KiB of its
private region; all lanes in slot A at the entry packet. -/
def FreshWarp (w : Warp) (b idx entry pbase : Nat) : Prop :=
  w = { stat := .running, block := b, idx := idx, regs := { s := [(62, BitVec.ofNat 64 (pbase + 4096))] },
        ctl := { a := { live := true, pc := entry, mask := 0xFFFFFFFF#32 } }, pbase := BitVec.ofNat 64 pbase }

/-- All blocks of a launch have exited, its replays have ended and nothing of it is resident (R76, R411). -/
def AllExited (s : State) (l : Nat) : Prop :=
  let x := s.launch l
  x.open = true ∧ x.started = true ∧ x.exited.length = x.record.gridX * x.record.gridY * x.record.gridZ ∧ x.replaying = [] ∧
    s.residents l = []

/-- A launch waits for the placement of its next block (R76, R84). -/
def Placing (s : State) (l : Nat) : Prop :=
  let x := s.launch l
  x.open = true ∧ x.undoing = false ∧ x.ending = none ∧ x.next < x.record.gridX * x.record.gridY * x.record.gridZ ∧
    s.mayBegin l = true

/-- A block save entry of a launch names the block and its slot, and says whether a stop or an eviction saved it (R387,
R391, R135). -/
def SavedAs (e : Saved) (x : Block) : Prop :=
  e.lin = x.lin ∧ e.slot = x.slot ∧ (e.stopped = true ↔ x.saving = some .trap ∨ x.saving = some .step) ∧
    (e.evicted = true ↔ x.saving = some .evict)

end Sys2Proof.Claims

/-- R27, R81, R84, R86, R88 to R90: a placement. The capacity test finds a block that needs more rows than a core can
have TOO_LARGE, a gang or region that no set of cores could hold at FULL NO_PLACE, and one that no core, or no set of a
gang, can hold now CAPACITY, unless its launch waits for a phase. A first placement that fails the test ends the launch
with the status or, where it waits for a phase, holds it; otherwise the next block of a plain launch takes a free slot
of a core that fits it, and its warps start. The unit of a gang or a region is placed on all its cores. A launch behind
another that can be placed, or behind a saved unit that can be restored, waits for its turn. Which core is tried is an
operand of the event (log 3), an event whose condition fails has no effect (log 19), and which free slots a block takes
is log 57's: the model's choices. -/
def Obligations.PlacementResults : Prop :=
  (∀ (s : State) (l : Nat),
    let x := s.launch l
    let r := x.record
    let need := r.warps * r.regs + r.scratchL / 256 + 128 * r.l1min
    let total := r.gridX * r.gridY * r.gridZ
    let now (c : Nat) : Bool := !(s.core c).offline (s.die (c / 64)).phase && decide (need ≤ (s.core c).rows - 256)
    let ever (c : Nat) : Bool := !(s.core c).offline 3 && decide (need ≤ (s.core c).rowsAt 3 - 256)
    let stack (ok : Nat → Bool) : Prop := ∃ k ∈ s.stacksOf x.part,
      total ≤ (((List.range 64).map (64 * k + ·)).filter ok).length
    let gang (ok : Nat → Bool) : Prop := ∃ c ∈ s.coresOf x.part, c % r.gang = 0 ∧ ∀ j < r.gang, ok (c + j) = true
    let fitsOn (ok : Nat → Bool) : Prop := (r.region = true → stack ok) ∧ (r.region = false → gang ok)
    let single := (r.region = true ∧ total ≤ 1) ∨ (r.region = false ∧ r.gang ≤ 1)
    let short := (∀ c ∈ s.coresOf x.part, now c = false) ∨ (r.region = false ∧ ¬ gang now)
    (5888 < need → s.verdict l = .refuse 6) ∧
    (need ≤ 5888 → ¬ single → ¬ fitsOn ever → s.verdict l = .refuse 8) ∧
    (need ≤ 5888 → single ∨ fitsOn ever → short → s.verdict l = if r.phwait then .waits else .refuse 1) ∧
    (need ≤ 5888 → single ∨ fitsOn ever → ¬ short → s.verdict l = .fits)) ∧
  ∀ (s : State) (l c : Nat), Placing s l →
    let x := s.launch l
    let r := x.record
    (x.started = false → s.verdict l = .waits → x.phase = .held → exec (.blockPlace l c) s = .next s) ∧
    (∀ st, x.started = false → s.verdict l = .refuse st → exec (.blockPlace l c) s = .next (s.endLaunch l st)) ∧
    (x.started = false → s.verdict l = .waits → x.phase ≠ .held → ∃ t, exec (.blockPlace l c) s = .next t ∧
      t = { s.setLaunch l { x with phase := .held } with agenda := t.agenda } ∧
      (r.phasewait ≠ 0 → Instr.phaseTimeout l ∈ t.agenda)) ∧
    (x.started = true ∨ s.verdict l = .fits →
      (s.unitCores l c = none ∨ s.slotsFor l r.unit = false ∨ s.turnOf l = false → exec (.blockPlace l c) s = .next s) ∧
      (∀ cs, s.unitCores l c = some cs → s.slotsFor l r.unit = true → s.turnOf l = true →
        exec (.blockPlace l c) s = .next (s.placeUnit l cs) ∧
        ((s.placeUnit l cs).launch l).next = x.next + r.unit ∧ ((s.placeUnit l cs).launch l).phase = .running) ∧
      (r.region = false → r.gang = 1 → r.scratchK = 0 → c ∈ s.coresOf x.part → s.coreTakes l c = true →
        s.coreMatches r c = true → s.slotsFor l 1 = true → s.turnOf l = true → (s.core c).carve.slots ≤ 16 → ∃ t, ∃ b,
        exec (.blockPlace l c) s = .next t ∧ b / 16 = c ∧ (s.block b).used = false ∧
          t.block b = { used := true, launch := l, lin := x.next, warps := r.warps, regs := r.regs,
                        scratchSize := r.scratchL, slot := s.freeSlot l } ∧
          (∀ y, y ≠ b → t.block y = s.block y) ∧
          t.launch l = { x with next := x.next + 1, phase := .running, started := true, aged := false } ∧
          (∀ i < r.warps, ∃ k, k / 48 = c ∧ (s.warp k).stat = .absent ∧
            FreshWarp (t.warp k) b i r.entry (s.regionBase l k)) ∧
          (∀ k, (s.warp k).stat ≠ .absent → t.warp k = s.warp k) ∧ t.mem = s.mem))

/-- R76, R83, R84, R87, R88, R92, R101: a launch that waits for its next block ages; a core is marked draining for the
head of the order, and carved once it is empty for the launch that caused it, or for the head where that waits no more,
as an open empty core is for a waiting launch, with as many block slots as fit; a line whose rows stay a way keeps
them, and any other leaves the L1 with its dirty bytes written back. A held launch that fits at its time limit waits
on, and any other ends. The comet goes on from an idle holder, which turns white; back at position 0 it ends the region
where it and its round were white, and begins a new round where not. A block whose warps have ended and whose units are
clear leaves its core, a replay that has met poison without being compared (R411); and a launch whose blocks have all
exited completes, with the status of an abort or a cancel that has been accepted. That an event whose condition fails
has no effect is the model's choice (log 19), and the agenda is its own (log 3). -/
def Obligations.LaunchLifeResults : Prop :=
  ∀ (s : State) (l c b : Nat),
    let x := s.launch l
    let r := x.record
    let total := r.gridX * r.gridY * r.gridZ
    (x.open = true → x.next < total → exec (.launchAge l) s = .next (s.setLaunch l { x with aged := true })) ∧
    (s.headOf x.part = some l → s.drainChoice l = some c → exec (.coreDrain l c) s =
      .next (s.setCore c { s.core c with draining := some l })) ∧
    (s.headOf x.part ≠ some l ∨ s.drainChoice l ≠ some c → exec (.coreDrain l c) s = .next s) ∧
    (∀ v, (∀ y, y / 16 = c → (s.block y).used = false) → c ∈ s.coresOf x.part →
      (let ls := s.waitingIn (s.partOfStack (c / 64))
       ((s.core c).draining = some l ∧ l ∈ ls) ∨ (∃ m, (s.core c).draining = some m ∧ m ∉ ls ∧
          s.headOf (s.partOfStack (c / 64)) = some l) ∨
        ((s.core c).draining = none ∧ s.coreOpen c = true ∧ l ∈ s.waitingLaunches)) → (s.die (c / 64)).step = none →
      r.carve ((s.core c).rows - 256) = some v →
      let k := (s.core c).carve
      let rowOf (k : Carve) (w : Nat) : Nat := 256 + k.slots * (k.regRows + k.scratchRows) + 128 * w
      let stays (w : Nat) : Prop := ∃ u < v.ways, rowOf v u = rowOf k w
      (∃ t, exec (.coreCarve l c) s = .next t ∧ (t.core c).carve = v ∧ (t.core c).draining = none ∧ t.warps = s.warps ∧
        t.blocks = s.blocks ∧ (QuietHome s → OrderedL1 s c →
          (∀ x, (∃ m ∈ (t.core c).l1, m.line = x) ↔ ∃ m ∈ (s.core c).l1, m.line = x ∧ stays m.way) ∧
          (∀ m ∈ (s.core c).l1, stays m.way → ∃ n ∈ (t.core c).l1, n.line = m.line ∧ n.bytes = m.bytes ∧
            rowOf v n.way = rowOf k m.way) ∧
          ∀ a, let gone := ∃ m ∈ (s.core c).l1, m.line = a / 128 ∧ ¬ stays m.way
            (gone → t.mem.byte a = coreByte s c a) ∧ (¬ gone → t.mem.byte a = s.mem.byte a))) ∧
      let rows := r.warps * r.regs + r.scratchL / 256
      v.regRows = r.warps * r.regs ∧ v.scratchRows = r.scratchL / 256 ∧ 1 ≤ v.slots ∧ v.slots ≤ 16 ∧
        v.slots * rows + 128 * r.l1min ≤ (s.core c).rows - 256 ∧ v.slots * r.warps ≤ 48 ∧
        (r.bpc = 0 ∨ v.slots ≤ r.bpc) ∧ v.ways = ((s.core c).rows - 256 - v.slots * rows) / 128 ∧
        ∀ n, v.slots < n → n ≤ 16 → (r.bpc = 0 ∨ n ≤ r.bpc) →
          (s.core c).rows - 256 < n * rows + 128 * r.l1min ∨ 48 < n * r.warps) ∧
    (x.phase = .held → (s.verdict l = .fits → exec (.phaseTimeout l) s = .next (s.setLaunch l { x with phase := .waiting })) ∧
      (s.verdict l ≠ .fits → r.phasewait ≠ 0 → exec (.phaseTimeout l) s = .next (s.endLaunch l 7))) ∧
    (x.open = true → r.region = true → x.started = true → x.ended = false → s.idleAt l x.comet = true →
      ¬ (x.comet = 0 ∧ x.cometBack = true) → ∃ t, exec (.cometForward l) s = .next t ∧
        (t.launch l).comet = (x.comet + 1) % total ∧
        (t.launch l).cometBlack = (x.cometBlack || s.blackAt l x.comet) ∧
        (t.launch l).cometBack = decide ((x.comet + 1) % total = 0) ∧ t.blackAt l x.comet = false ∧ t.warps = s.warps ∧
        Instr.cometForward l ∈ t.agenda) ∧
    (x.open = true → r.region = true → x.started = true → x.ended = false → s.idleAt l 0 = true → x.comet = 0 →
      x.cometBack = true → x.cometBlack = false → s.blackAt l 0 = false → (∀ y, (s.block y).takers = []) →
      exec (.cometForward l) s = .next (s.setLaunch l { x with ended := true })) ∧
    (x.open = true → r.region = true → x.started = true → x.ended = false → s.idleAt l 0 = true → x.comet = 0 →
      x.cometBack = true → x.cometBlack = true ∨ s.blackAt l 0 = true → ∃ t, exec (.cometForward l) s = .next t ∧
        (t.launch l).ended = false ∧ (t.launch l).comet = 1 % total ∧ (t.launch l).cometBlack = false ∧
        (t.launch l).cometBack = false ∧ t.blackAt l 0 = false ∧ t.warps = s.warps ∧ Instr.cometForward l ∈ t.agenda) ∧
    ((s.block b).used = true → (∀ k ∈ s.warpsOf b, (s.warp k).stat = .ended) → s.unitsClear b = true →
      (s.block b).launch = l → ∃ t, exec (.blockExit b) s = .next t ∧ t.block b = {} ∧
        (∀ k ∈ s.warpsOf b, t.warp k = {}) ∧
        ((s.block b).replay = false → (s.block b).lin ∈ (t.launch l).exited ∧
          (r.audit = false → (t.launch l).replaying = x.replaying)) ∧
        ((s.block b).replay = true → (s.block b).saving ≠ some .trap →
          Instr.auditReplayComplete l (s.block b).lin (b / 16) (s.blockSigs b) ∈ t.agenda) ∧
        ((s.block b).replay = true → (s.block b).saving = some .trap →
          (t.launch l).replaying = x.replaying.filter (fun i => decide (i ≠ (s.block b).lin)))) ∧
    (AllExited s l → exec (.launchComplete l) s =
      .next (s.endLaunch l (x.ending.getD (if x.mismatch then 4 else 0))) ∧ ∀ st, ((s.endLaunch l st).launch l).phase = .done) ∧
    (¬ AllExited s l → exec (.launchComplete l) s = .next s)

namespace Sys2Proof.Claims

/-- The in-field test of a cluster in which one of the blocks stands is due and has not begun (R413). -/
def TestDueOn (s : State) (bs : List Nat) : Prop := ∃ y ∈ bs, (s.cluster (y / 64)).testDue = true ∧ (s.cluster (y / 64)).testing = false

/-- The blocks make room for a launch that fits on no core; no core needs fewer to give way, or as few of lower
priority; and no block of the partition is being saved (R388). -/
def FewestFor (s : State) (l : Nat) (vs : List Nat) : Prop :=
  let p := (s.launch l).part
  s.wantsRoom l = true ∧ s.savingIn p = false ∧ (∃ c ∈ s.coresOf p, s.victims l c = some vs) ∧
    ∀ c ∈ s.coresOf p, ∀ us, s.victims l c = some us → s.cost vs ≤ s.cost us

end Sys2Proof.Claims

/-- R388, R389, R391, R393, R397, R403: pre-emption and saves. A request marks a block that can be pre-empted and the
members saved with it, where it is one of the fewest, of lowest priority, that make room for the head of the order, or
its cluster's test is due; a forced one takes the block of a core where a launch that has aged would fit and no
pre-emption can make room, and runs to its deadline; a block that can be saved leaves its core for its slot, and an
evicted one counts for the step of its die (R141); in its turn a saved block is restored: an invalid image ends the
launch FAULTED, once the warps of its other blocks have stopped, one with poison in its registers has it rolled back,
and a valid one brings the block back with the registers it holds. What the model keeps beside an image is log 13's,
where a poisoned image is judged log 59's, the agenda is its own (log 3), and an event whose condition fails has no
effect (log 19): the model's choices. -/
def Obligations.SaveResults : Prop :=
  ∀ (s : State) (b l c : Nat),
    let ms := s.members b
    let x := s.launch l
    let p := s.partOfStack (b / 1024)
    (ms.all s.preemptible = true → (s.block b).saving = none →
      (TestDueOn s ms ∨ ∃ m vs, s.headOf p = some m ∧ (s.launch m).part = p ∧ FewestFor s m vs ∧ b ∈ vs) →
      ∃ t, exec (.preempt b) s = .next t ∧
        ∀ y ∈ ms, (t.block y).saving = some ((s.block y).saving.getD .preempt) ∧ Instr.blockSave y ∈ t.agenda) ∧
    (ms.all s.preemptible = false ∨ (s.block b).saving ≠ none → exec (.preempt b) s = .next s) ∧
    (¬ TestDueOn s ms → s.headOf p = none → exec (.preempt b) s = .next s) ∧
    (s.waitingIn p = [] → exec (.forcedPreempt b) s = .next s) ∧
    (∀ m c, (s.block b).used = true → (s.block b).saving = none → m ∈ s.waitingIn p → (s.launch m).part = p →
      (s.launch m).aged = true → s.wantsRoom m = true → s.victimSets m = [] → c ∈ s.coresOf p → b / 16 = c →
      (s.launch m).record.region = false → (s.launch m).record.gang = 1 → (∀ y, y / 16 = c → (s.block y).used = true → y ≠ b → (s.block y).launch = m) →
      (s.block b).launch ≠ m → ((s.lacking [b]).unitCores m c).isSome = true →
      ∃ t, exec (.forcedPreempt b) s = .next t ∧ Instr.preemptDeadline b ∈ t.agenda ∧
        ∀ y ∈ ms, (t.block y).saving = some ((s.block y).saving.getD .forced) ∧ Instr.blockSave y ∈ t.agenda) ∧
    ((s.block b).saving = some .forced → ∃ t, exec (.preemptDeadline b) s = .next t ∧
      ∀ y ∈ ms, t.block y = { s.block y with deadline := true }) ∧
    (s.savable b = true → ms = [b] → (s.block b).replay = false → (s.block b).launch = l →
      ∃ t, ∃ e : Saved, exec (.blockSave b) s = .next t ∧ t.block b = {} ∧ (t.launch l).saved = x.saved ++ [e] ∧
        SavedAs e (s.block b) ∧ (∀ k ∈ s.warpsOf b, t.warp k = {}) ∧
        (∀ p, e.evicted = true → (s.die (b / 1024)).step = some p →
          (t.die (b / 1024)).step = some { p with evicted := p.evicted + 1 })) ∧
    (x.runs = false ∨ s.unitReady l b = false ∨ s.turnToRestore l b = false → exec (.blockRestore l b c) s = .next s) ∧
    (∀ e u bs, x.open = true → x.undoing = false → x.ending = none → x.record.unit = 1 → s.savedUnit l b = [e] →
      b ∉ x.exited → e.stopped = false → (∀ k ∈ e.kept, k.reply = none) → s.turnToRestore l b = true →
      s.unitCores l c = some [c] → s.readImage l e = (u, bs) →
      (imageBad bs x.record = true →
        (s.residents l = [] → ∃ v : State, exec (.blockRestore l b c) s = .next (v.endLaunch l 2) ∧
          v.launch l = { x with saved := [], replaying := [] }) ∧
        (s.residents l ≠ [] → ∃ t, exec (.blockRestore l b c) s = .next t ∧ (t.launch l).ending = some 2)) ∧
      let kept := (u.savedPoison l e bs.length).all (poisonKept x.record)
      (imageBad bs x.record = false → kept = false → ∃ v : State, exec (.blockRestore l b c) s = .next (v.undo l) ∧
        v.ecc.length = u.ecc.length + 1 ∧ v.launches = u.launches) ∧
      (imageBad bs x.record = false → kept = true → numAt (fun i => bs.getD i 0#8) 15 1 / 4 % 2 = 0 → s.coreMatches x.record c = true →
        (s.core c).carve.slots ≤ 16 → ∃ t y, exec (.blockRestore l b c) s = .next t ∧ y / 16 = c ∧
          (t.block y).used = true ∧ (t.block y).launch = l ∧ (t.block y).lin = e.lin ∧ (t.block y).slot = e.slot ∧
          ∀ i < x.record.warps, ∃ k, k / 48 = c ∧ (t.warp k).idx = i ∧ (t.warp k).block = y ∧
            let at_ := 256 + i * (768 + 256 * x.record.regs + x.record.sz)
            let f (off n : Nat) : Nat := numAt (fun j => bs.getD (at_ + j) 0#8) off n
            (∀ q < 64, q ≠ 62 → (Tab.get 0#64 (t.warp k).regs.s q).toNat = f (192 + 8 * q) 8) ∧
            (∀ q < 8, q ≠ 0 → (Tab.get 0#32 (t.warp k).regs.p q).toNat = f (160 + 4 * q) 4) ∧
            (∀ q < 32 * x.record.regs, (Tab.get 0#64 (t.warp k).regs.v q).toNat = f (768 + 8 * q) 8) ∧
            (t.warp k).npr = decide (f 3 1 / 4 % 2 = 1) ∧ (t.warp k).dsp = f 35 1 ∧
            (t.warp k).ctl.a.pc = f 48 4 % 2 ^ 31))

namespace Sys2Proof.Claims

/-! ## Events of warps, budgets and tile units (spec/05, spec/09 to spec/11, spec/14, spec/17) -/

/-- Every warp but one is as before. -/
def OtherWarps (s t : State) (k : Nat) : Prop := ∀ j, j ≠ k → t.warp j = s.warp j

/-- The byte address of a word of the packet that a slot of a warp stands at (R41, R80). -/
def placeOfSlot (s : State) (k : Nat) (x : Bool) (word : Nat) : Word :=
  BitVec.ofNat 64 ((s.launch (s.block (s.warp k).block).launch).record.code + 12 * ((s.warp k).ctl.path x).pc + 4 * word)

/-- The engine is open to a warp's grant at once: it was last used by the warp's context, or the tile queue is empty,
as it is for an engine that a save recorded and that comes back with this grant, whose instructions find room (R213,
R214). -/
def EngineOpen (s : State) (g : Core) (ctx k : Nat) : Prop :=
  let idle := g.queue = [] ∧ g.streamBusy = none ∧ g.loadBusy = none
  (g.batonCtx = ctx ∨ idle) ∧ ∀ e, (g.savedEngines.find? fun y => y.holder == some k) = some e →
    idle ∧ g.ranges.length + (e.ops.flatMap s.rangesOf).length ≤ 16

/-- A slot's wait for the baton has ended and the slot goes on; where it did not wait so, it is as before. -/
def GoesOn (m n : Micro) : Prop := if m.wait = .baton then Resumed m n .met else n = m

end Sys2Proof.Claims

/-- R102, R104, R110, R119 to R121, R212 to R214, R309, R313, R316, R361, R362: the ends of sleeps, yields, spans and
waits, the grants of the baton and of run-ahead contexts, and the renewals of budgets, less what holds of the last
period reach into the next; each does nothing where its time has passed already or has not come. A warp that waits for
a context takes a free one, or displaces one of a higher class unless as many contexts are being left already as warps
stand ahead of it and with it. It goes over to the RE at a packet boundary, demotes at once where it has been displaced
or has lost its trigger meanwhile, and leaves the RE at a packet boundary. That an event whose condition fails has no
effect is the model's choice (log 19), and the agenda is its own (log 3). -/
def Obligations.TimerResults : Prop :=
  ∀ (s : State) (k c n : Nat),
    let w := s.warp k
    exec (.sleepExpire k) s = .next (s.setWarp k { w with sleep := 0 }) ∧
    exec (.yieldEnd k) s = .next (s.setWarp k { w with yielding := false }) ∧
    (w.npr = false ∨ w.stat ≠ .running ∨ w.nprCount < 16384 → exec (.nprOverrun k) s = .next s) ∧
    (w.npr = true → w.stat = .running → 16384 ≤ w.nprCount → (s.core (k / 48)).window = [] →
      (∀ x ∈ (s.core (k / 48)).queue, x.back = none) →
      let m := w.micro w.stopSlot
      ∃ t, exec (.nprOverrun k) s = .next t ∧ (t.warp k).stat = .stopped ∧ (t.warp k).cause = 0x0B#8 ∧
        (t.warp k).npr = false ∧ (t.warp k).taddr = placeOfSlot s k w.stopSlot (if m.mid then m.group else m.word) ∧
        (t.warp k).regs = w.regs ∧ SameBytes s t) ∧
    (∀ x b o tok limit d cls, (w.micro x).wait = .bowait b o tok limit d cls →
      let done := (s.block b).scratch.num o 8 / 2 ^ 63 ≠ if tok then 1 else 0
      (w.stat ≠ .running ∨ (limit = 0 ∧ ¬ done) → exec (.bowaitExpire k x) s = .next s) ∧
      (w.stat = .running → limit ≠ 0 ∨ done → ∃ t, exec (.bowaitExpire k x) s = .next t ∧
        (¬ MoreInGroup (w.micro x) → ∀ q, Tab.get 0#64 (t.warp k).regs.s q =
          if q = d then (if done then 1#64 else 0#64) else Tab.get 0#64 w.regs.s q) ∧
        (MoreInGroup (w.micro x) → (t.warp k).regs = w.regs) ∧
        Resumed (w.micro x) ((t.warp k).micro x) (.done (decide done)) ∧ OtherWarps s t k ∧ SameBytes s t)) ∧
    (let g := s.core c
     let ctx := (s.launch (s.block w.block).launch).ctx;
     ∀ x rest, g.baton = none → g.batonQueue = x :: rest → x / 2 = k →
      (¬ EngineOpen s g ctx k → exec (.batonGrant c) s = .next s) ∧
      (EngineOpen s g ctx k → (∀ e ∈ g.savedEngines, e.holder ≠ some k) → ∃ t, exec (.batonGrant c) s = .next t ∧
          (t.core c).baton = some k ∧ (t.core c).table = s.tableKey ctx ∧
          (t.core c).batonQueue = rest.filter (fun y => y / 2 != k) ∧ OtherWarps s t k ∧
          (t.warp k).regs = w.regs ∧ (t.warp k).ctl = w.ctl ∧ (∀ b, GoesOn (w.micro b) ((t.warp k).micro b)) ∧
          (g.batonCtx = ctx → (t.core c).bank0 = g.bank0 ∧ (t.core c).bank1 = g.bank1 ∧ (t.core c).accum = g.accum) ∧
          (g.batonCtx ≠ ctx → (t.core c).bank0 = {} ∧ (t.core c).bank1 = {} ∧ (t.core c).accum = [] ∧
            (t.core c).overflow = false)) ∧
      (∀ e, g.savedEngines.find? (fun y => y.holder == some k) = some e → (∀ o ∈ e.ops, coreOfBlock o.block = c) →
        EngineOpen s g ctx k → ∃ t, exec (.batonGrant c) s = .next t ∧ (t.core c).baton = some k ∧ (t.core c).bank0 = e.bank0 ∧
          (t.core c).bank1 = e.bank1 ∧ (t.core c).accum = e.accum ∧ (t.core c).overflow = e.overflow ∧
          (t.core c).queue = e.ops)) ∧
    (let g := s.core (k / 48)
     let eligible := w.engine = .ie ∧ w.granted = false ∧ w.stat = .running ∧ w.cls ≠ none ∧ s.promotable k = true
     let waits := if k ∈ g.reWaiting then g.reWaiting else g.reWaiting ++ [k]
     let asked := s.setCore (k / 48) { g with reWaiting := waits }
     let ahead := waits.filter fun j => s.eligible j && decide ((s.warp j).turnOf ≤ w.turnOf);
     (¬ eligible → exec (.reContextGrant k) s = .next s) ∧
     (eligible → g.reWarps.length < 4 → (∀ j ∈ g.reWaiting, j ≠ k → s.eligible j = false) →
        ∃ t, exec (.reContextGrant k) s = .next t ∧ (t.core (k / 48)).reWarps = g.reWarps ++ [k] ∧
        (t.core (k / 48)).reWaiting = g.reWaiting.filter (fun j => decide (j ≠ k)) ∧ t.warp k = { w with granted := true } ∧
        OtherWarps s t k ∧ Instr.promotionComplete k ∈ t.agenda ∧ SameBytes s t) ∧
     (eligible → w.cls = some n → 4 ≤ g.reWarps.length →
        (ahead.length ≤ (s.leaving (k / 48)).length ∨ s.displaced (k / 48) n = none →
          exec (.reContextGrant k) s = .next asked) ∧
        ∀ j, (s.leaving (k / 48)).length < ahead.length → s.displaced (k / 48) n = some j →
          ((s.warp j).engine = .promoting → exec (.reContextGrant k) s =
            .next (asked.setWarp j { s.warp j with displaced := true })) ∧
          ((s.warp j).engine = .re → ∃ t, exec (.reContextGrant k) s = .next t ∧ (t.core (k / 48)).reWaiting = waits ∧
            t.warp j = { s.warp j with engine := .demoting, displaced := false, latch := .invalid } ∧ OtherWarps s t j ∧
            Instr.demotionComplete j ∈ t.agenda)) ∧
     (w.granted = true → w.atBoundary = false → exec (.promotionComplete k) s = .next (s.later (.promotionComplete k))) ∧
     (w.granted = true → w.atBoundary = true → w.stat = .running → g.window = [] → ∃ t,
        exec (.promotionComplete k) s = .next t ∧ t.warp k = { w with
          engine := .promoting, granted := false, latch := .invalid, skip := if g.baton = some k then 0 else w.skip } ∧
        OtherWarps s t k ∧ Instr.promotionComplete k ∈ t.agenda ∧ SameBytes s t) ∧
     (w.granted = false → w.engine = .promoting →
        (w.displaced = false → w.triggered = true → exec (.promotionComplete k) s =
          .next (s.setWarp k { w with engine := .re })) ∧
        (w.displaced = true ∨ w.triggered = false → ∃ t, exec (.promotionComplete k) s = .next t ∧
          t.warp k = { w with engine := .demoting, displaced := false, latch := .invalid } ∧ OtherWarps s t k ∧
          Instr.demotionComplete k ∈ t.agenda)) ∧
     (w.granted = false → w.engine ≠ .promoting → exec (.promotionComplete k) s = .next s) ∧
     (w.engine ≠ .demoting → exec (.demotionComplete k) s = .next s) ∧
     (w.engine = .demoting → w.drained = false → exec (.demotionComplete k) s = .next (s.later (.demotionComplete k))) ∧
     (w.engine = .demoting → w.drained = true → ∃ t, exec (.demotionComplete k) s = .next t ∧
        t.warp k = { w with engine := .ie, cooling := 4, latch := .invalid, ma := w.ma.asksAgain, mb := w.mb.asksAgain } ∧
        OtherWarps s t k ∧ (t.core (k / 48)).reWarps = g.reWarps.filter (fun j => decide (j ≠ k)) ∧ SameBytes s t ∧
        ((t.warp k).cls ≠ none → Instr.reContextGrant k ∈ t.agenda) ∧
        (t.contextWaiters (k / 48) ≠ [] → ∃ i ∈ t.contextWaiters (k / 48), Instr.reContextGrant i ∈ t.agenda ∧
          ∀ j ∈ t.contextWaiters (k / 48), (t.warp i).turnOf ≤ (t.warp j).turnOf))) ∧
    (∃ t, exec (.issueBudgetPeriod c) s = .next t ∧ t = { s with warps := t.warps, cores := t.cores, agenda := t.agenda } ∧
      t.core c = { s.core c with reUsed := (s.core c).reCarry, reCarry := [] } ∧
      ∀ j, t.warp j = if j / 48 = c then { s.warp j with cooling := (s.warp j).cooling - 1 } else s.warp j) ∧
    (∃ t, exec (.copyBudgetPeriod c) s = .next t ∧ OnlyCore s t c ∧ t.core c = { s.core c with copied := [] } ∧
      ((s.core c).copy0 ≠ none → Instr.copyPiece c 0 ∈ t.agenda) ∧ ((s.core c).copy1 ≠ none → Instr.copyPiece c 1 ∈ t.agenda)) ∧
    exec (.injectionBudgetPeriod c) s = .next (s.setCluster c { s.cluster c with injected := 0 }) ∧
    exec (.memoryBudgetPeriod c) s = .next (s.setPart c { s.part c with memUsed := 0 })

namespace Sys2Proof.Claims

/-- A plain tile of a block's scratchpad: its rows and row stride, with every byte of its rows inside (R205, R206). -/
structure PlainTile (s : State) (b : Nat) (base shape : Word) (z stride rows len : Nat) : Prop where
  size : (s.block b).scratchSize ≤ 2 ^ 21
  form : ∃ nf < 4, shape = BitVec.ofNat 64 (z * 2 ^ 32 + nf * 2 ^ 27 + stride * 2 ^ 11 + (rows - 1))
  some_ : 1 ≤ rows ∧ rows ≤ 2 ^ 11 ∧ stride < 2 ^ 16
  inside : base.toNat + (rows - 1) * stride + len ≤ (s.block b).scratchSize

/-- Byte i of row r of a plain tile. -/
def tileByte (s : State) (b : Nat) (base : Word) (stride r i : Nat) : Byte :=
  (s.block b).scratch.byte (base.toNat + r * stride + i)

/-- The rows of a plain tile hold the bytes g r i, and every other byte of every scratchpad is as before. -/
def RowsWritten (s t : State) (b : Nat) (base : Word) (stride rows len : Nat) (g : Nat → Nat → Byte) : Prop :=
  (∀ r < rows, ∀ i < len, tileByte t b base stride r i = g r i) ∧
    ∀ c a, (c ≠ b ∨ ∀ r < rows, ∀ i < len, a ≠ base.toNat + r * stride + i) →
      (t.block c).scratch.byte a = (s.block c).scratch.byte a

/-- The requests of an instruction cost no budget: its data does not travel, or its partition has none (R361, R362). -/
def Untaxed (s : State) (x : TileOp) : Prop :=
  (∀ e ∈ x.sides, e.d.space = 0) ∨
    ((s.part (s.launch (s.block x.block).launch).part).inj = 0 ∧ (s.part (s.launch (s.block x.block).launch).part).mem = 0)

/-- No word of a core's accumulators and weight banks is poisoned (R403). -/
def CleanEngine (k : Core) : Prop := k.badAccum = [] ∧ k.bank0.poison = [] ∧ k.bank1.poison = []

/-- An accumulator element after a row of a floating pair has passed a bank (R210): of the format fa, the row's bytes,
without scales, its old value or 0. -/
def passed (b : Bank) (fa : Nf) (col : Nat) (row : Nat → Byte) (x0 : Nat) : W32 :=
  BitVec.ofNat 32 (accFloat fa (nfOf b.fmt) (matrixElem fa.width fun i => (if i < 384 then row i else 0#8).toNat)
    (matrixElem (nfOf b.fmt).width fun i => (Tab.get 0#8 b.bytes (384 * col + i)).toNat)
    (fun _ => 127) (fun k => (Tab.get 127#8 b.scales (24 * col + k)).toNat) x0)

/-- A unit's instruction has finished: the unit is free and holds it no longer. -/
def UnitFree (t : State) (core : Nat) (u : TileUnit) : Prop :=
  match u with
  | .stream => (t.core core).streamBusy = none
  | .load => (t.core core).loadBusy = none

end Sys2Proof.Claims

/-- R204, R216, R219 to R227, R303: the two tile units. A unit that is free starts the head of its part of the queue
once nothing it depends on is under way and its partition's budgets admit its requests (R361, R362), a chain at its
rendezvous (R221) and a copy in the copy engine (R303). As an instruction finishes, its effect is made on a plain tile
of the scratchpad: a bank is loaded by rows or transposed, rows are multiplied into the accumulators, of every core of
a chain with its own `mmarx`, accumulators are read, cleared or scaled, a tile is filled, transposed or converted. The
agenda is the model's own (log 3), and so is that an instruction's whole effect happens in the step that finishes it
(log 58). -/
def Obligations.TileUnitResults : Prop :=
  ∀ (s : State) (c : Nat) (x : TileOp) (stride rows : Nat), QuietScratch s → coreOfBlock x.block = c →
    let g := s.core c
    let b := x.block
    let f := nfOf x.f1
    let n := (x.val 2).toNat
    let row0 := n % 2 ^ 10
    let count := n / 2 ^ 20 % 2 ^ 10 + 1
    let bank (k : Core) : Bank := if n / 2 ^ 32 % 2 = 0 then k.bank0 else k.bank1
    let acc (k : Core) (r col : Nat) : W32 := Tab.get 0#32 k.accum (64 * r + col)
    let tile (rows len : Nat) : Prop := PlainTile s b (x.val 0) (x.val 1) 0 stride rows len
    (∀ u : TileUnit, s.startable c (decide (u = .stream)) = some x → UnitFree s c u → x.chained = false → isCopy x.op = false →
      ∃ t, exec (.tileUnitStart c u) s = .next t ∧ (Untaxed s x → OnlyCore s t c) ∧ Instr.tileUnitFinish c u ∈ t.agenda ∧
        t = { s with cores := t.cores, agenda := t.agenda, clusters := t.clusters, parts := t.parts, fresh := t.fresh } ∧
        t.core c = { g with
          queue := dropFirst (decide (u = .stream)) g.queue
          streamBusy := if u = .stream then some x else g.streamBusy
          loadBusy := if u = .stream then g.loadBusy else some x }) ∧
    (s.startable c true = some x → g.streamBusy = none → x.chained = true →
      exec (.tileUnitStart c .stream) s = .next (s.later (.chainRendezvous c))) ∧
    (s.startable c false = some x → g.loadBusy = none → isCopy x.op = true →
      exec (.tileUnitStart c .load) s = .next (s.later (.copyStart c))) ∧
    (g.streamBusy = some x → x.op = 0xF7 → ∃ t, exec (.tileUnitFinish c .stream) s = .next t ∧ UnitFree t c .stream ∧
      OnlyCore s t c ∧
      ∀ r col, col < 64 → acc (t.core c) r col = if row0 ≤ r ∧ r < row0 + count then 0#32 else acc g r col) ∧
    (g.streamBusy = some x → x.op = 0xF9 → n / 2 ^ 31 % 2 = 0 → ∃ t, exec (.tileUnitFinish c .stream) s = .next t ∧
      UnitFree t c .stream ∧ OnlyCore s t c ∧ (t.core c).accum = g.accum ∧ (bank (t.core c)).bytes = (bank g).bytes ∧
      ∀ col k, col < 64 → k < 24 → (Tab.get 127#8 (bank (t.core c)).scales (24 * col + k)).toNat =
        let e := (Tab.get 127#8 (bank g).scales (24 * col + k)).toNat
        if e = 255 then 255 else (max 0 (min 254 ((e : Int) + (BitVec.ofNat 8 (n / 2 ^ 10)).toInt))).toNat) ∧
    (g.streamBusy = some x → x.op = 0xF9 → n / 2 ^ 31 % 2 = 1 → CleanEngine g → ∃ t,
      exec (.tileUnitFinish c .stream) s = .next t ∧ UnitFree t c .stream ∧ OnlyCore s t c ∧
      ∀ r col, col < 64 → acc (t.core c) r col = if row0 ≤ r ∧ r < row0 + count then BitVec.ofNat 32 (roundVal fp32
        ((decodeElem fp32 (acc g r col).toNat).shift (BitVec.ofNat 8 (n / 2 ^ 10)).toInt)) else acc g r col) ∧
    (g.loadBusy = some x → x.op = 0xF2 → tile rows 384 → rows ≤ 64 → n / 2 ^ 53 % 2 = 0 →
      ∃ t, exec (.tileUnitFinish c .load) s = .next t ∧ UnitFree t c .load ∧ SameBytes s t ∧ t.warps = s.warps ∧
        (t.core c).accum = g.accum ∧ (bank (t.core c)).loaded = true ∧ (bank (t.core c)).fmt = x.f1 ∧
        ∀ col i, col < 64 → i < 384 → Tab.get 0#8 (bank (t.core c)).bytes (384 * col + i) =
          if col < rows then tileByte s b (x.val 0) stride col i else 0#8) ∧
    (g.loadBusy = some x → x.op = 0xF3 → f.width = 8 ∨ f.width = 16 → tile rows (8 * f.width) → rows ≤ 3072 / f.width →
      n / 2 ^ 53 % 2 = 0 →
      ∃ t, exec (.tileUnitFinish c .load) s = .next t ∧ UnitFree t c .load ∧ SameBytes s t ∧ t.warps = s.warps ∧
        (t.core c).accum = g.accum ∧ (bank (t.core c)).loaded = true ∧ (bank (t.core c)).fmt = x.f1 ∧
        let m := f.width / 8
        ∀ col i, col < 64 → i < 384 → Tab.get 0#8 (bank (t.core c)).bytes (384 * col + i) =
          if i / m < rows then tileByte s b (x.val 0) stride (i / m) (m * col + i % m) else 0#8) ∧
    (g.streamBusy = some x → x.op = 0xF4 → tile rows 384 → n / 2 ^ 54 % 4 = 0 → (nfOf (bank g).fmt).isInt = false →
      CleanEngine g →
      ∃ t, exec (.tileUnitFinish c .stream) s = .next t ∧ UnitFree t c .stream ∧ SameBytes s t ∧ t.warps = s.warps ∧
        (t.core c).overflow = g.overflow ∧ (t.core c).bank0 = g.bank0 ∧ (t.core c).bank1 = g.bank1 ∧
        ∀ r col, col < 64 → acc (t.core c) r col =
          if row0 ≤ r ∧ r < row0 + rows then passed (bank g) f col (tileByte s b (x.val 0) stride (r - row0))
            (if n / 2 ^ 33 % 2 = 1 then (acc g r col).toNat else 0)
          else acc g r col) ∧
    (∀ i m, g.streamBusy = some x → x.op = 0xF4 → tile rows 384 → (∀ j < 4, CleanEngine (s.core (c + j))) →
      i < n / 2 ^ 54 % 4 → (s.core (c + 1 + i)).streamBusy = some m →
      let k := s.core (c + 1 + i)
      let o := (m.val 2).toNat
      let w := if o / 2 ^ 32 % 2 = 0 then k.bank0 else k.bank1
      (nfOf w.fmt).isInt = false → ∃ t, exec (.tileUnitFinish c .stream) s = .next t ∧ UnitFree t c .stream ∧
        UnitFree t (c + 1 + i) .stream ∧ SameBytes s t ∧ t.warps = s.warps ∧
        ∀ r col, col < 64 → acc (t.core (c + 1 + i)) r col =
          if o % 2 ^ 10 ≤ r ∧ r < o % 2 ^ 10 + rows then
            passed w f col (tileByte s b (x.val 0) stride (r - o % 2 ^ 10))
              (if o / 2 ^ 33 % 2 = 1 then (acc k r col).toNat else 0)
          else acc k r col) ∧
    (g.streamBusy = some x → x.op = 0xF6 → tile rows (8 * f.cont) → 8 * f.cont ≤ stride ∨ rows = 1 →
      (x.val 4).toNat / 2 ^ 31 % 2 = 0 → n / 2 ^ 35 % 2 = 0 → n / 2 ^ 36 % 2 = 0 → CleanEngine g →
      ∃ t, exec (.tileUnitFinish c .stream) s = .next t ∧ UnitFree t c .stream ∧ t.mem = s.mem ∧ t.warps = s.warps ∧
        RowsWritten s t b (x.val 0) stride rows (8 * f.cont) (fun r i => (regRow f.cont (fun col => roundVal f
          ((decodeElem fp32 (acc g (row0 + r) col).toNat).shift (BitVec.ofNat 8 (n / 2 ^ 10)).toInt)) 64).getD i 0#8) ∧
        ∀ r col, col < 64 → acc (t.core c) r col =
          if row0 ≤ r ∧ r < row0 + rows ∧ n / 2 ^ 34 % 2 = 1 then 0#32 else acc g r col) ∧
    (g.loadBusy = some x → x.op = 0xFD →
      let len := (x.val 4).toNat % 2 ^ 11
      tile rows len → len ≤ stride ∨ rows = 1 → (x.val 4).toNat / 2 ^ 31 % 2 = 0 →
      ∃ t, exec (.tileUnitFinish c .load) s = .next t ∧ UnitFree t c .load ∧ t.mem = s.mem ∧ t.warps = s.warps ∧
        RowsWritten s t b (x.val 0) stride rows len (fun _ i => BitVec.ofNat 8 (field (x.val 2) 8 (i % 8)))) ∧
    (∀ stride2 rows2, g.loadBusy = some x → x.op = 0xF8 → f.width = 8 ∨ f.width = 16 →
      let m := f.width / 8
      tile rows (rows2 * m) → PlainTile s b (x.val 2) (x.val 3) 0 stride2 rows2 (rows * m) →
      rows2 * m ≤ stride ∨ rows = 1 → (x.val 4).toNat / 2 ^ 31 % 2 = 0 →
      ∃ t, exec (.tileUnitFinish c .load) s = .next t ∧ UnitFree t c .load ∧ t.mem = s.mem ∧ t.warps = s.warps ∧
        RowsWritten s t b (x.val 0) stride rows (rows2 * m)
          (fun j i => tileByte s b (x.val 2) stride2 (i / m) (m * j + i % m))) ∧
    ∀ stride2, g.loadBusy = some x → x.op = 0xFA →
      let from_ := nfOf x.f2
      let elems := (x.val 4).toNat % 2 ^ 11
      let packed (y : Nf) : Bool := decide ((x.val 4).toNat / 2 ^ 16 % 2 = 1) && (y.width == 4 || y.width == 6)
      let len (y : Nf) : Nat := if packed y then 384 else elems * y.cont / 8
      let bytes (r i : Nat) : Nat := (if i < len from_ then tileByte s b (x.val 2) stride2 r i else 0#8).toNat
      let elem (r j : Nat) : Nat :=
        (if packed from_ then matrixElem from_.width (bytes r) j else regElem from_.cont (bytes r) j) % 2 ^ from_.width
      let out (r j : Nat) : Nat := convElem x.f2 x.f1 (elem r j)
      tile rows (len f) → PlainTile s b (x.val 2) (x.val 3) 0 stride2 rows (len from_) → len f ≤ stride ∨ rows = 1 →
      (x.val 4).toNat / 2 ^ 31 % 2 = 0 →
      ∃ t, exec (.tileUnitFinish c .load) s = .next t ∧ UnitFree t c .load ∧ t.mem = s.mem ∧ t.warps = s.warps ∧
        RowsWritten s t b (x.val 0) stride rows (len f) (fun r i =>
          (if packed f then matrixRow f.width (out r) else regRow f.cont (out r) elems).getD i 0#8)

/-- R216, R221, R231, R303, R305, R306, R309: a chain starts once its participants have all arrived; the rewrite
stage's limit flushes its window, and the flush goes on where the tile queue has no room (R231); a copy takes a free
descriptor slot and moves on piece by piece, each piece to its destination, until its last piece frees the slot. That
an event whose condition fails has no effect is the model's choice (log 19), and the agenda is its own (log 3). -/
def Obligations.CopyAndChainEvents : Prop :=
  ∀ (s : State) (c : Nat) (x : TileOp),
    let g := s.core c
    (∀ ms, s.chainReady c = some (x, ms) → x.core = c → (∀ m ∈ ms, m.core ≠ c) → (∀ m ∈ ms, s.memberFault x m = none) →
      ∃ t, exec (.chainRendezvous c) s = .next t ∧ (t.core c).streamBusy = some x ∧ Instr.tileUnitFinish c .stream ∈ t.agenda ∧
        (∀ m ∈ x :: ms, ∀ own, ((t.warp m.warp).micro m.slotB).wait ≠ .chain own) ∧ (∀ k, (t.warp k).regs = (s.warp k).regs) ∧
        SameBytes s t) ∧
    exec (.rewriteTimeout c) s = .next (if g.window = [] then s else s.flushWindow c) ∧
    (∀ h u v, g.window = [h] → ((s.warp h.tile.warp).micro h.tile.slotB).wait ≠ .chain false →
      (s.decideWindow c true matches .deliver) = true → s.checkTile h.tile [] = .ok (u, v) → v.core = c →
      ∃ t, exec (.rewriteTimeout c) s = .next t ∧
        (s.tileRoom v = false → (t.core c).window = [h] ∧ (t.core c).flushing = true ∧ (t.core c).queue = g.queue) ∧
        (s.tileRoom v = true → (t.core c).window = [] ∧ (t.core c).flushing = false ∧ (v.chained = false →
          (t.core c).queue = (u.core c).queue ++ [v]))) ∧
    (s.startable c false = some x → isCopy x.op = true → g.loadBusy = none →
      (g.copy0 = none → ∃ t y, exec (.copyStart c) s = .next t ∧ OnlyCore s t c ∧ y.tile = x ∧ y.row = 0 ∧ y.offset = 0 ∧
        t.core c = { g with queue := dropFirst false g.queue, copy0 := some y } ∧ Instr.copyPiece c 0 ∈ t.agenda) ∧
      (g.copy0 ≠ none → g.copy1 = none → ∃ t y, exec (.copyStart c) s = .next t ∧ OnlyCore s t c ∧ y.tile = x ∧ y.row = 0 ∧
        y.offset = 0 ∧ t.core c = { g with queue := dropFirst false g.queue, copy1 := some y } ∧
        Instr.copyPiece c 1 ∈ t.agenda) ∧
      (g.copy0 ≠ none → g.copy1 ≠ none → exec (.copyStart c) s = .next s)) ∧
    ∀ y stride1 stride2 rows len, g.copy0 = some y → y.tile = x → y.before = [] → coreOfBlock x.block = c → QuietScratch s →
      s.copyBudget x = 0 → x.op = 0xF0 → x.val 4 = BitVec.ofNat 64 len → 0 < len → len < 2 ^ 16 → y.row < rows →
      y.offset < len → PlainTile s x.block (x.val 0) (x.val 1) 0 stride1 rows len →
      PlainTile s x.block (x.val 2) (x.val 3) 0 stride2 rows len →
      let n := min 64 (len - y.offset)
      let src (i : Nat) : Byte := tileByte s x.block (x.val 2) stride2 y.row (y.offset + i)
      let dst := (x.val 0).toNat + y.row * stride1 + y.offset
      ∃ t, exec (.copyPiece c 0) s = .next t ∧ t.mem = s.mem ∧ t.warps = s.warps ∧
        (∀ k a, (t.block k).scratch.byte a =
          if k = x.block ∧ dst ≤ a ∧ a < dst + n then src (a - dst) else (s.block k).scratch.byte a) ∧
        (y.offset + n < len → (t.core c).copy0 = some { y with offset := y.offset + n }) ∧
        (y.offset + n = len → y.row + 1 < rows → (t.core c).copy0 = some { y with row := y.row + 1, offset := 0 }) ∧
        (y.offset + n = len → y.row + 1 = rows → (t.core c).copy0 = none)

namespace Sys2Proof.Claims

/-! ## Phases, core samples and the capacity table (spec/04, spec/06) -/

/-- A core's plan for a lower phase (R131): the slots and ways it keeps of its carve, the rows it moves, each from a
physical row that is not safe there to one that is, and how many of them it copies. -/
def PlanFor (c : Core) (phase : Nat) (p : EvacPlan) : Prop :=
  let n := c.rowsAt phase
  let br := c.carve.regRows + c.carve.scratchRows
  let room (b : Nat) : Prop := 256 + b * br + 512 ≤ n
  (c.offline phase = true → p.slots = 0 ∧ p.ways = 0) ∧
    (c.offline phase = false →
      (room c.carve.slots → p.slots = c.carve.slots ∧ p.ways = min c.carve.ways ((n - 256 - c.carve.slots * br) / 128)) ∧
      (¬ room c.carve.slots → (p.slots = 0 ∨ room p.slots) ∧ (∀ b, p.slots < b → b < c.carve.slots → ¬ room b) ∧
        (0 < p.slots → p.slots < c.carve.slots ∧ p.ways = (n - 256 - p.slots * br) / 128))) ∧
    (∀ e ∈ p.moves, e.1 < n ∧ phase < c.code (c.physRow e.1) ∧ c.code e.2 ≤ phase) ∧
    p.copied = ((List.range n).filter fun r =>
      decide (phase < c.code (c.physRow r)) && decide (r < 256 + p.slots * br)).length

/-- Cores of die k have given their notice for a phase: capacity, plans, and the blocks that no longer fit (R130,
R131). -/
def Noticed (s t : State) (k phase : Nat) : Prop :=
  (∀ c, c / 64 = k → (t.core c).rows = (s.core c).rowsAt phase ∧ ∃ p, (t.core c).plan = some p ∧ PlanFor (s.core c) phase p ∧
    (t.core c).carve = { (s.core c).carve with ways := if p.slots = (s.core c).carve.slots then p.ways else 0 } ∧
    ∀ b, b / 16 = c → (s.block b).used = true → p.slots ≤ b % 16 → (s.block b).saving ≠ some .trap →
      (s.block b).saving ≠ some .step → (t.block b).saving = some .evict) ∧
    Instr.rowMapSwitch k ∈ t.agenda ∧ ∀ j, (t.warp j).regs = (s.warp j).regs ∧ (t.warp j).ctl = (s.warp j).ctl

/-- A row map changed by moves of rows: rows that none of them names stay where they were, and a lone move takes its row
to the place it names (R131). -/
def RowsMoved (a b : Core) (moves : Tab Nat) : Prop :=
  (∀ r, (∀ e ∈ moves, e.1 ≠ r) → b.physRow r = a.physRow r) ∧ ∀ r q, moves = [(r, q)] → b.physRow r = q

/-- The steps that waited on a die are requested anew (R137). -/
def WaitingAgain (t : State) (k : Nat) (waiting : List (Bool × Nat)) : Prop :=
  (t.die k).waiting = [] ∧ ∀ r ∈ waiting, (if r.1 then Instr.phaseStepUp k r.2 else .phaseStepDown k r.2) ∈ t.agenda

end Sys2Proof.Claims

/-- R130 to R132, R136 to R139, R141: phase steps. A downward request gives the notice; a lower one restarts the plan;
behind the switch of the row map, beside another step or under a containment reset a request waits. The row map
switches once every eviction is done and the clock stops; it restarts at the target, where an upward step adds rows and
ways; the completion posts the record, an upward one ends the hold of each launch that fits, and what waited is
requested anew. That an event whose condition fails has no effect is the model's choice (log 19), and the agenda is its
own (log 3). -/
def Obligations.PhaseStepResults : Prop :=
  ∀ (s : State) (k phase : Nat), k < 4 → phase < 4 →
    let d := s.die k
    (s.dieResetting k = true →
      exec (.phaseStepDown k phase) s = .next (s.setDie k { d with waiting := d.waiting ++ [(false, phase)] }) ∧
      exec (.phaseStepUp k phase) s = .next (s.setDie k { d with waiting := d.waiting ++ [(true, phase)] })) ∧
    (s.dieResetting k = false →
      (d.step = none →
        (phase < d.phase → ∃ t, exec (.phaseStepDown k phase) s = .next t ∧ Noticed s t k phase ∧ t.die k = { d with
          step := some { target := phase, source := d.phase, stage := 1, evicted := 0, copied := 0 } }) ∧
        (d.phase ≤ phase → exec (.phaseStepDown k phase) s = .next s) ∧
        (phase ≤ d.phase → exec (.phaseStepUp k phase) s = .next s) ∧
        (d.phase < phase → exec (.phaseStepUp k phase) s = .next ((s.setDie k { d with
          step := some { target := phase, source := d.phase, stage := 5, evicted := 0, copied := 0 }
          clockStopped := true }).later (.clockRestart k)))) ∧
      ∀ x, d.step = some x →
        exec (.phaseStepUp k phase) s = .next (s.setDie k { d with waiting := d.waiting ++ [(true, phase)] }) ∧
        (x.stage ≠ 1 →
          exec (.phaseStepDown k phase) s = .next (s.setDie k { d with waiting := d.waiting ++ [(false, phase)] })) ∧
        (x.stage = 1 → x.target ≤ phase → exec (.phaseStepDown k phase) s = .next s) ∧
        (x.stage = 1 → phase < x.target → ∃ t, exec (.phaseStepDown k phase) s = .next t ∧ Noticed s t k phase ∧
          t.die k = { d with step := some { x with target := phase } })) ∧
    (d.step = none → ∀ e ∈ [Instr.rowMapSwitch k, .clockRestart k, .phaseStepComplete k], exec e s = .next s) ∧
    (∀ x, d.step = some x →
      (x.stage = 1 → s.evacuated k = true → ∃ t n, exec (.rowMapSwitch k) s = .next t ∧
        t = { s with cores := t.cores, dies := t.dies, agenda := t.agenda } ∧ Instr.clockRestart k ∈ t.agenda ∧
        t.die k = { d with step := some { x with stage := 5, copied := n }, clockStopped := true } ∧
        (∀ c, c / 64 ≠ k → t.core c = s.core c) ∧
        ∀ c, c / 64 = k → (t.core c).plan = none ∧
          ((s.core c).plan = none → RowsMoved (s.core c) (t.core c) ((s.core c).moves x.target) ∧ t.core c =
            { s.core c with carve := {}, rows := (s.core c).rowsAt x.target, remap := (t.core c).remap }) ∧
          ∀ p, (s.core c).plan = some p → RowsMoved (s.core c) (t.core c) p.moves ∧
            (p.slots = 0 → (s.core c).carve.slots ≠ 0 → (t.core c).carve = {}) ∧
            (p.slots ≠ 0 → (t.core c).carve = { (s.core c).carve with slots := p.slots, ways := p.ways })) ∧
      (x.stage ≠ 1 ∨ s.evacuated k = false → exec (.rowMapSwitch k) s = .next s) ∧
      (d.clockStopped = false → exec (.clockRestart k) s = .next s) ∧
      (d.clockStopped = true →
        let after : Die := { d with phase := x.target, clockStopped := false, step := some { x with stage := 6 } };
        (x.target ≤ d.phase → exec (.clockRestart k) s = .next ((s.setDie k after).later (.phaseStepComplete k))) ∧
        (d.phase < x.target → ∃ t, exec (.clockRestart k) s = .next t ∧
          t = { s with cores := t.cores, dies := t.dies, agenda := t.agenda } ∧ t.die k = after ∧
          Instr.phaseStepComplete k ∈ t.agenda ∧ (∀ c, c / 64 ≠ k → t.core c = s.core c) ∧
          ∀ c, c / 64 = k → let v := (s.core c).carve
            (t.core c).rows = (s.core c).rowsAt x.target ∧ (t.core c).carve.slots = v.slots ∧
            (v.slots ≠ 0 → (t.core c).carve.ways =
              ((s.core c).rowsAt x.target - 256 - v.slots * (v.regRows + v.scratchRows) - 128 * v.ways) / 128 + v.ways) ∧
            ∀ r < (s.core c).rows, (t.core c).physRow r = (s.core c).physRow r)) ∧
      (x.stage ≠ 6 → exec (.phaseStepComplete k) s = .next s) ∧
      (x.stage = 6 → ∃ t, exec (.phaseStepComplete k) s = .next t ∧
        t.die k = { d with step := none, waiting := [] } ∧ WaitingAgain t k d.waiting ∧
        let p := s.partOfStack k
        (x.source < x.target → ∀ l, (s.launch l).part = p → (s.launch l).phase = .held →
          (t.verdict l = .fits → (t.launch l).phase = .waiting) ∧
          (t.verdict l ≠ .fits → (t.launch l).phase = .held)) ∧
        let r := (s.part p).event
        QuietHome s → r.configured = true → (r.tail + 1) % r.size ≠ r.head →
          (t.part p).event.tail = (r.tail + 1) % r.size ∧
          let f (i : Nat) : Byte := t.mem.byte (r.base + 16 * r.tail + i)
          f 0 = 1#8 ∧ f 1 = BitVec.ofNat 8 k ∧ f 2 = BitVec.ofNat 8 x.source ∧ f 3 = BitVec.ofNat 8 x.target ∧
            numAt f 4 2 = x.evicted % 2 ^ 16 ∧ numAt f 6 2 = x.copied % 2 ^ 16 ∧ numAt f 12 4 = 0))

/-- R85, R129: what the power manager samples of a core, its droop events, the end of their exclusion, and the
published capacity table, which lists of each core what holds at every phase. How much time passes is left free (log
4). -/
def Obligations.CoreSampleResults : Prop :=
  ∀ (s : State) (c n : Nat),
    let x := s.core c
    let timed (t : State) : Prop :=
      t = { s with cores := t.cores, micros := t.micros, fresh := t.fresh, agenda := t.agenda } ∧
        s.micros ≤ t.micros ∧ ∀ j, j ≠ c → t.core j = s.core j
    (∃ t, exec (.coreSample c n) s = .next t ∧ timed t ∧
      let out := decide (5 ≤ (x.droops.filter fun u => decide (t.micros < u + 1000)).length)
      (out = true → Instr.droopExclusionEnd c ∈ t.agenda) ∧ (out = false → t.agenda = s.agenda) ∧
      t.core c = { x with
        hot := if 95 < n then true else if n < 88 then false else x.hot
        droops := x.droops.filter fun u => decide (t.micros < u + 2000)
        droopOut := x.droopOut || out }) ∧
    (∃ t, exec (.droopEvent c) s = .next t ∧ timed t ∧ t.agenda = s.agenda ∧
      t.core c = { x with droops := x.droops ++ [t.micros] }) ∧
    (∃ t, exec (.droopExclusionEnd c) s = .next t ∧ timed t ∧
      ((∃ u ∈ x.droops, t.micros < u + 2000) → t.core c = x ∧ (x.droopOut = true → Instr.droopExclusionEnd c ∈ t.agenda)) ∧
      ((∀ u ∈ x.droops, u + 2000 ≤ t.micros) → t.core c = { x with droopOut := false, droops := [] } ∧
        t.agenda = s.agenda)) ∧
    (∃ t, exec .capacityTableUpdate s = .next t ∧ t.generation = s.generation + 1 ∧
      (∀ e ∈ s.cores, ∃ flags, (∀ i < 4, flags.testBit i = e.2.offline (3 - i)) ∧
        (e.1, [flags, e.2.rowsAt 3, e.2.rowsAt 2, e.2.rowsAt 1, e.2.rowsAt 0, 6528 - e.2.safeRows 3]) ∈ t.capTable) ∧
      t.capTable.length = s.cores.length ∧ t.warps = s.warps)

namespace Sys2Proof.Claims

/-! ## Errors, links, rollback, audit, containment and in-field tests (spec/20) -/

/-- Where a log entry places a device physical address (R266, R405): the stack and channel of HBM, or the channel of
LPDDR 6. -/
def channelPlace (p : Nat) : Nat :=
  let a := p % 2 ^ 60
  if p / 2 ^ 63 % 2 = 0 then
    256 * (p / 2 ^ 60 % 8) + 8 * ((a / 2 ^ 7 % 4) ^^^ (a / 2 ^ 16 % 4)) + ((a / 2 ^ 9 % 8) ^^^ (a / 2 ^ 20 % 8))
  else 16 * ((a / 2 ^ 12 % 4) ^^^ (a / 2 ^ 22 % 4)) + ((a / 2 ^ 8 % 16) ^^^ (a / 2 ^ 24 % 16))

/-- From s to t one entry was added to the transfer log, with the time of the I/O die. -/
def LogsXfer (s t : State) (e : XferEntry) : Prop := t.xfer = s.xfer ++ [{ e with time := t.micros }]

/-- The transfer entry of a burst (R405). -/
def busEntry (s : State) (burst kind attempts lane spares : Nat) : XferEntry :=
  { kind := kind, path := 64 * burst / 2 ^ 63 % 2, place := channelPlace (64 * burst), attempts := attempts, lane := lane,
    spares := spares, part := s.partAt (64 * burst), addr := 64 * burst, time := 0 }

/-- The transfer entry of a link (R405). -/
def linkEntry (kind attempts lane : Nat) : LinkId → XferEntry
  | .dieToDie k l => { kind := kind, path := 3, place := 256 * k + l, attempts := attempts, lane := lane, spares := 0,
                       part := 0xFF, addr := 0, time := 0 }
  | .domain l => { kind := kind, path := 4, place := l, attempts := attempts, lane := lane, spares := 0, part := 0xFF,
                   addr := 0, time := 0 }

/-- The array-ECC entry of half h of a burst (R405). -/
def arrayEntry (s : State) (burst h kind syndrome time : Nat) : EccEntry :=
  { kind := kind, unit := 7 + 64 * burst / 2 ^ 63 % 2, place := channelPlace (64 * burst + 32 * h),
    part := s.partAt (64 * burst + 32 * h), repeats := 0, syndrome := syndrome, addr := 64 * burst + 32 * h, time := time }

/-- Words first to first + n − 1 at home are poisoned, and no other word is newly so. -/
def Poisons (s t : State) (first n : Nat) : Prop := ∀ w, w ∈ t.poison ↔ w ∈ s.poison ∨ (first ≤ w ∧ w < first + n)

/-- No partition has an event ring: the event of a log entry is lost and writes no memory (R368). -/
def NoEventRing (s : State) : Prop := ∀ k, (s.part k).event.configured = false

/-- Everything of a launch that stands on the device is gone: its blocks without a save, its stack allocations, and the
lines of the L1s of its partition; the launch itself stands as it did (R408). -/
def Undone (s u : State) (l : Nat) : Prop :=
  (∀ b, (s.block b).used = true → (s.block b).launch = l → u.block b = {}) ∧
    (∀ k, ∀ a ∈ (u.stack k).allocs, a.1 ≠ l) ∧ (∀ c ∈ s.coresOf (s.launch l).part, (u.core c).l1 = []) ∧
    (u.launch l).phase = (s.launch l).phase ∧ (u.launch l).record = (s.launch l).record ∧ (u.launch l).saved = []

/-- The two routes of each stack towards the stack that it has no link to share 64 units by the costs of the links they
take, the cheaper route its rounding (R15, R414, R415; log 43). -/
def CrossesBy (t : State) : Prop :=
  ∀ k < 4, ∃ a b, Tab.get [] t.crossings k = [(0, a), (1, b)] ∧ a + b = 64 ∧
    let c0 := (t.link (linkKey (.dieToDie k 0))).cost + (t.link (linkKey (.dieToDie (k ^^^ 1) 1))).cost
    let c1 := (t.link (linkKey (.dieToDie k 1))).cost + (t.link (linkKey (.dieToDie (k ^^^ 2) 0))).cost
    (c0 = c1 → a = 32) ∧ (0 < c0 → c0 < c1 → b = (128 * c0 + (c0 + c1)) / (2 * (c0 + c1))) ∧
      (0 < c1 → c1 < c0 → a = (128 * c1 + (c0 + c1)) / (2 * (c0 + c1)))

/-- The in-field test of a cluster is due and may start (R413). -/
def TestReady (s : State) (u : Nat) : Prop :=
  (s.cluster u).testDue = true ∧ (s.cluster u).testing = false ∧ (s.die (u / 16)).step = none

/-- A live warp of the cluster is inside an npr span or holds a lock (R413). -/
def TestHolder (s : State) (u : Nat) : Prop :=
  ∃ b k, b / 64 = u ∧ (s.block b).used = true ∧ k ∈ s.warpsOf b ∧ s.liveWarp k = true ∧
    ((s.warp k).npr = true ∨ (s.warp k).holds ≠ [])

end Sys2Proof.Claims

/-- R15, R266, R267, R403, R405, R406, R407, R414, R415: a DRAM transfer that is clean, corrected, uncorrectable or
fails its bus; none completes on a channel that repeats one; a flawed cell is corrected at every read until the scrub
of its line; the retries of a burst to the fifth, the lane located and swapped, the poison where nothing helps; link
retries, a lane lost, its retraining and the return to full width, whose costs reach the routes; each with its log
entry; and an error in a pool row, which counts towards the row's retirement where it is corrected and otherwise
poisons its word of a scratchpad (R407). Choices of the model's are the events' operands (log 18), that an event whose
condition fails has no effect (log 19), what log 26 says of fields of log entries, the rounding of weights (log 43), and
which row of a block a scratchpad's word stands in (log 59). -/
def Obligations.ReliabilityResults : Prop :=
  ∀ (s : State) (burst k n : Nat) (ok : Bool) (y : Nat) (link : LinkId),
    let made := Tab.get 0 s.attempts burst
    let left := s.sparesAt (64 * burst)
    let open_ := ∀ e ∈ s.attempts, channelKey (64 * e.1) ≠ channelKey (64 * burst)
    let flawed := s.cells.filter fun e => e.1 / 2 == burst
    let again (t : State) (m : Nat) : Prop := Tab.get 0 t.attempts burst = m ∧
      (m < 5 → ∃ b, Instr.busRetry burst b ∈ t.agenda) ∧ (5 ≤ m → ∃ x b, Instr.laneSwap burst x b ∈ t.agenda)
    let ends (i : Instr) (kind m lane spares : Nat) : Prop := ∃ t, exec i s = .next t ∧ Tab.get 0 t.attempts burst = 0 ∧
      t.sparesAt (64 * burst) = spares ∧ LogsXfer s t (busEntry s burst kind m lane spares) ∧
      (NoEventRing s → t.mem = s.mem ∧ if kind = 3 then Poisons s t (8 * burst) 8 else t.poison = s.poison)
    let logged (i : Instr) (e : XferEntry) : Prop := ∃ t, exec i s = .next t ∧ LogsXfer s t e ∧ t.links = s.links
    (¬ open_ → ∀ o, exec (.dramTransferComplete burst o) s = .next s) ∧
    (open_ →
      (∃ t, exec (.dramTransferComplete burst (.busFailed n)) s = .next t ∧ again t 1 ∧ SameBytes s t) ∧
      (∃ t, exec (.dramTransferComplete burst .clean) s = .next t ∧ t.cells = s.cells ∧
        (NoEventRing s → t.poison = s.poison ∧ SameBytes s t) ∧
        (s.corrected = [] → flawed = [] → t.ecc = s.ecc ∧ SameBytes s t ∧
          (burst / 2 < 2 ^ 57 → (burst / 2 ∈ t.zeroLines ↔ ∀ i < 128, s.mem.byte (128 * (burst / 2) + i) = 0#8))) ∧
        ∀ c z, s.corrected = [] → flawed = [(c, z)] → s.ecc = [] → s.suppressed = [] →
          t.ecc = [arrayEntry s burst (c % 2) 1 z t.micros]) ∧
      (∃ t, exec (.dramTransferComplete burst (.corrected n y)) s = .next t ∧ t.cells = Tab.put s.cells (2 * burst + n % 2) y ∧
        (s.ecc = [] → s.suppressed = [] → t.ecc = [arrayEntry s burst (n % 2) 1 y t.micros])) ∧
      ∃ t, exec (.dramTransferComplete burst (.uncorrectable n y)) s = .next t ∧
        t.ecc = s.ecc ++ [arrayEntry s burst (n % 2) 2 y t.micros] ∧
        (NoEventRing s → Poisons s t (8 * burst + 4 * (n % 2)) 4)) ∧
    (made = 0 ∨ 5 ≤ made → exec (.busRetry burst ok) s = .next s) ∧
    (1 ≤ made → made < 5 → ends (.busRetry burst true) 1 (made + 1) 0xFF left ∧
      ∃ t, exec (.busRetry burst false) s = .next t ∧ again t (made + 1) ∧ SameBytes s t) ∧
    (made ≠ 5 → ∀ x, exec (.laneSwap burst x ok) s = .next s) ∧
    (made = 5 → ends (.laneSwap burst none true) 1 6 0xFF left ∧ ends (.laneSwap burst none false) 3 6 0xFF left ∧
      (left = 0 → ends (.laneSwap burst (some k) ok) 3 5 0xFF 0) ∧
      (0 < left → ends (.laneSwap burst (some k) true) 2 6 k (left - 1) ∧
        ends (.laneSwap burst (some k) false) 3 6 k (left - 1))) ∧
    (∃ t, exec (.patrolScrub n) s = .next t ∧ t = { s with cells := t.cells } ∧
      ∀ c, c ∈ t.cells ↔ c ∈ s.cells ∧ c.1 / 4 ≠ n) ∧
    (let x := s.link (linkKey link)
     let lanes := match link with
       | .dieToDie _ _ => 64
       | .domain _ => 16
     (link.ok = false ∨ lanes ≤ k → exec (.laneLoss link k) s = .next s) ∧
     (link.ok = true → k < lanes → ∃ t, exec (.laneLoss link k) s = .next t ∧ LogsXfer s t (linkEntry 4 1 k link) ∧
        t.link (linkKey link) = { x with half := true, retraining := true, window := 128, weight := 1 } ∧
        Instr.linkRetrainComplete link ∈ t.agenda) ∧
      (x.retraining = true → ∃ t, exec (.linkRetrainComplete link) s = .next t ∧
        t = { s.setLink (linkKey link) { x with retraining := false, cost := 32 } with crossings := t.crossings } ∧
        CrossesBy t) ∧
      (x.retraining = false → exec (.linkRetrainComplete link) s = .next s) ∧
      (x.half = true → ∃ t, exec (.fullWidthRestored link) s = .next t ∧ LogsXfer s t (linkEntry 5 1 0xFF link) ∧
        t.link (linkKey link) = { half := false, retraining := false, cost := 16, window := 256, weight := 2 } ∧
        CrossesBy t) ∧
      (x.half = false → exec (.fullWidthRestored link) s = .next s)) ∧
    (∀ e ∈ [(FlitPath.dieToDie k n, LinkId.dieToDie k n), (.domain n, .domain n)],
      (e.2.ok = true → 1 ≤ y → y ≤ 6 → logged (.linkLevelRetry e.1 y true) (linkEntry 1 y 0xFF e.2)) ∧
      (e.2.ok = false ∨ y = 0 ∨ 6 < y → exec (.linkLevelRetry e.1 y true) s = .next s) ∧
      exec (.linkLevelRetry e.1 y false) s = .next s) ∧
    (∀ r layer port u, let e (kind m : Nat) : XferEntry :=
        { kind := kind, path := 2, place := 4096 * port + 256 * k + 2 * r + layer, attempts := m, lane := 0xFF, spares := 0,
          part := s.partOfStack k, addr := 0, time := 0 }
      let i (passes : Bool) : Instr := .linkLevelRetry (.mesh k r layer port u) y passes
      let here := k < 4 ∧ r < 16 ∧ layer < 2 ∧ port < 16 ∧ (∀ v, u = some v → v < 64) ∧ 1 ≤ y ∧ y ≤ 5
      (here → logged (i true) (e 1 y)) ∧ (here → y < 5 → exec (i false) s = .next s) ∧
      (here → y = 5 → logged (i false) (e 3 5) ∧
        ∀ v, u = some v → ∃ t, exec (i false) s = .next t ∧ Instr.containmentReset v ∈ t.agenda) ∧
      (¬ here → exec (i ok) s = .next s)) ∧
    (NoEventRing s → ∀ c row byte, c < 256 → row < (s.core c).rows → byte < 256 →
      let t (fixed : Bool) : State := s.strike { unit := 0, place := c, addr := 256 * row + byte, fixed := fixed, syndrome := y }
      let g := (s.core c).carve
      let p := (s.core c).physRow row
      Tab.get 0 ((t true).core c).corrections p = Tab.get 0 (s.core c).corrections p + 1 ∧
      ∀ j q, j < g.slots → q < g.scratchRows → row = 256 + j * (g.regRows + g.scratchRows) + g.regRows + q →
        (s.block (16 * c + j)).used = true → ∀ w, w ∈ ((t false).block (16 * c + j)).poison ↔
          w ∈ (s.block (16 * c + j)).poison ∨ w = (256 * q + byte) / 8)

/-- R408, R409, R411: a rollback waits until the launch's warps have stopped, discards all it has on the device, and
ends it FAULTED without snapshots, ROLLED_BACK when its replays are used up, with the status of an abort or a cancel
that came meanwhile, or places it again; a piece goes back from its pool page; a snapshot records a piece once, while
the pool has room; an audit replay compares its signatures. Choices of the model's are that an event whose condition
fails has no effect (log 19) and that the launch keeps its place in the order (log 44). -/
def Obligations.RollbackResults : Prop :=
  ∀ (s : State) (l n c : Nat) (sigs : List Word),
    let x := s.launch l
    let p := n / 2 ^ 16 * 2 ^ 16
    (x.open = false ∨ x.undoing = false ∨ s.launchStill l = false → exec (.rollback l) s = .next s) ∧
    (x.open = true → x.undoing = true → s.launchStill l = true →
      (x.record.snap = false ∨ x.unprotected = true →
        ∃ u : State, exec (.rollback l) s = .next (u.endLaunch l (x.ending.getD 2)) ∧ Undone s u l ∧
          (u.launch l).rollbacks = x.rollbacks + (if x.record.snap then 1 else 0)) ∧
      (x.record.snap = true → x.unprotected = false → x.snaps = [] →
        (x.ending.isSome ∨ x.record.replays ≤ x.rollbacks → ∃ u : State,
          exec (.rollback l) s = .next (u.endLaunch l (x.ending.getD 3)) ∧ Undone s u l ∧
          (u.launch l).rollbacks = x.rollbacks + 1) ∧
        (x.ending = none → x.rollbacks < x.record.replays → ∃ t, exec (.rollback l) s = .next t ∧
          ((t.launch l).phase = .done ∨ ∃ r, t.launch l =
            { phase := .waiting, part := x.part, queue := x.queue, ctx := x.ctx, record := r, recordAt := x.recordAt,
              nextAt := x.nextAt, order := x.order, rollbacks := x.rollbacks + 1 })))) ∧
    (∀ j u src v dst, s.cpXlate x.ctx (x.record.snappool + 2 ^ 16 * (j + 1)) .read = some (u, src) →
      u.sysXlate x.ctx n = some (v, dst) → QuietHome v → dst + 2 ^ 16 ≤ 2 ^ 64 → (s.restorePiece l j n).2 = true ∧
        ∀ a, (s.restorePiece l j n).1.mem.byte a =
          if dst ≤ a ∧ a < dst + 2 ^ 16 then v.mem.byte (src + (a - dst)) else v.mem.byte a) ∧
    (x.open = false ∨ x.record.snap = false → exec (.snapshotCopy l n) s = .next s) ∧
    (x.open = true → x.record.snap = true →
      (p ∈ x.snaps → exec (.snapshotCopy l n) s = .next s) ∧
      (p ∉ x.snaps → min 8192 (x.record.snappages - 1) ≤ x.snaps.length →
        exec (.snapshotCopy l n) s = .next (s.setLaunch l { x with unprotected := true })) ∧
      (p ∉ x.snaps → x.snaps.length < min 8192 (x.record.snappages - 1) →
        let j := x.snaps.length
        let v := s.setLaunch l { x with snaps := x.snaps ++ [p] }
        (v.cpRead x.ctx 3 p (2 ^ 16) = none → exec (.snapshotCopy l n) s = .next v) ∧
        ∀ u bs, v.cpRead x.ctx 3 p (2 ^ 16) = some (u, bs) → exec (.snapshotCopy l n) s =
          let page := x.record.snappool + 2 ^ 16 * (j + 1)
          let bad := (u.cpPoisoned x.ctx 3 p (2 ^ 16)).map fun w => w - p / 8 + page / 8
          .next (((u.cpWrite x.ctx 3 page bs).cpPoison x.ctx bad).cpWrite x.ctx 3
            (x.record.snappool + 8 * j) (leBytes (p + 1) 8)))) ∧
    (x.open = false ∨ n ∉ x.replaying → exec (.auditReplayComplete l n c sigs) s = .next s) ∧
    (x.open = true → n ∈ x.replaying → ∃ t, exec (.auditReplayComplete l n c sigs) s = .next t ∧
      let old := (Tab.get (c, []) x.signatures n).2
      (t.launch l).replaying = x.replaying.filter (fun b => decide (b ≠ n)) ∧ (∀ m, m ≠ l → t.launch m = s.launch m) ∧
        ((t.launch l).mismatch = true ↔ x.mismatch = true ∨ old ≠ sigs) ∧ t.warps = s.warps ∧
        (old.length = sigs.length → t.ecc.length = s.ecc.length + (old.zip sigs).countP fun e => decide (e.1 ≠ e.2)))

/-- R137, R412: a containment reset of a cluster that is not under one empties its cores and discards their blocks,
whose launches are to be rolled back; packets to its cores are dropped and a self-check follows, which waits for a
downward step of the die to switch its row maps; after it the cores return, but for those that failed, and steps that
waited proceed. A cluster that retires nothing while a warp of it is ready is reset. That an event whose condition
fails has no effect is the model's choice (log 19), and the agenda is its own (log 3). -/
def Obligations.ContainmentResults : Prop :=
  ∀ (s : State) (u : Nat) (failed : List Nat),
    let x := s.cluster u
    (64 ≤ u ∨ (∀ k, k / 192 = u → (s.warp k).ready = false) → exec (.clusterStallTimeout u) s = .next s) ∧
    (u < 64 → (∃ k, k / 192 = u ∧ (s.warp k).ready = true) →
      exec (.clusterStallTimeout u) s = .next (s.later (.containmentReset u))) ∧
    (64 ≤ u ∨ x.resetting = true → exec (.containmentReset u) s = .next s) ∧
    (u < 64 → x.resetting = false → ∃ t, exec (.containmentReset u) s = .next t ∧
      t.cluster u = { x with testDue := false, testing := false, resetting := true, tlb := [] } ∧
      (∀ c, c / 4 = u → ∃ y, t.core c = y ∧ y.l1 = [] ∧ y.acc = [] ∧ y.tlb = [] ∧ y.icache = [] ∧ y.accum = [] ∧
        y.baton = none ∧ y.batonQueue = [] ∧ y.queue = [] ∧ y.streamBusy = none ∧ y.loadBusy = none ∧ y.copy0 = none ∧
        y.copy1 = none ∧ y.window = [] ∧ y.ranges = [] ∧ y.reWarps = [] ∧ y.plan = none ∧ y.carve = {} ∧
        y.rows = (s.core c).rows ∧ y.codes = (s.core c).codes) ∧
      (∀ b, b / 64 = u → (s.block b).used = true → t.block b = {} ∧ (t.launch (s.block b).launch).undoing = true ∧
        Instr.rollback (s.block b).launch ∈ t.agenda) ∧
      (∀ f ∈ t.flights, f.core / 4 ≠ u) ∧
      ∃ cs, (∀ c ∈ cs, c / 4 = u) ∧ Instr.selfCheckComplete u cs ∈ t.agenda) ∧
    let plans := ∃ p, (s.die (u / 16)).step = some p ∧ (p.stage = 1 ∨ (p.stage = 5 ∧ p.target < p.source))
    (x.resetting = false → exec (.selfCheckComplete u failed) s = .next s) ∧
    (x.resetting = true → plans →
      exec (.selfCheckComplete u failed) s = .next (s.later (.selfCheckComplete u failed))) ∧
    (x.resetting = true → ¬ plans → ∃ t, exec (.selfCheckComplete u failed) s = .next t ∧
      t = { s with clusters := t.clusters, cores := t.cores, dies := t.dies, agenda := t.agenda } ∧
      t.cluster u = { x with resetting := false } ∧
      (∀ c, t.core c = { s.core c with failed := (s.core c).failed || (decide (c / 4 = u) && failed.contains c) }) ∧
      ((s.die (u / 16)).step = none → (∀ v, v / 16 = u / 16 → v ≠ u → (s.cluster v).resetting = false) →
        WaitingAgain t (u / 16) (s.die (u / 16)).waiting))

/-- R137, R389, R407, R413: an in-field test falls due on one cluster of a stack at a time; it starts once no warp of
the cluster is inside an npr span or holds a lock and no phase step runs, or is forced at its deadline; its blocks are
saved, and at its end row codes have risen, worn rows are retired and the cluster returns. That an event whose
condition fails has no effect is the model's choice (log 19), and the agenda is its own (log 3). -/
def Obligations.InfieldTestResults : Prop :=
  ∀ (s : State) (u c row code : Nat),
    let x := s.cluster u
    let alone := u < 64 ∧ x.resetting = false ∧
      ∀ v, v / 16 = u / 16 → (s.cluster v).testDue = false ∧ (s.cluster v).testing = false
    let quiet := ∀ b, b / 64 = u → (s.block b).used = false
    (¬ alone → exec (.infieldTestDue u) s = .next s) ∧
    (alone → exec (.infieldTestDue u) s = .next (((s.setCluster u { x with testDue := true }).later
      (.infieldTestStart u)).later (.infieldTestForce u))) ∧
    (¬ TestReady s u ∨ TestHolder s u → exec (.infieldTestStart u) s = .next s) ∧
    (TestReady s u → ¬ TestHolder s u → ∃ t, exec (.infieldTestStart u) s = .next t ∧
      t.cluster u = { x with testing := true } ∧ Instr.infieldTestEnd u [] ∈ t.agenda ∧ SameBytes s t ∧
      (∀ j, (t.warp j).regs = (s.warp j).regs ∧ (t.warp j).ctl = (s.warp j).ctl) ∧
      ∀ b, b / 64 = u → (s.block b).used = true → Instr.blockSave b ∈ t.agenda ∧
        (t.block b).saving = some ((s.block b).saving.getD .test)) ∧
    (¬ TestReady s u → exec (.infieldTestForce u) s = .next s) ∧
    (TestReady s u → ∃ t, exec (.infieldTestForce u) s = .next t ∧
      t.cluster u = { x with testing := true } ∧ Instr.infieldTestEnd u [] ∈ t.agenda ∧ SameBytes s t ∧
      (∀ j, (t.warp j).regs = (s.warp j).regs ∧ (t.warp j).ctl = (s.warp j).ctl) ∧
      ∀ b, b / 64 = u → (s.block b).used = true → Instr.blockSave b ∈ t.agenda ∧ (t.block b).deadline = true ∧
        (t.block b).saving = some ((s.block b).saving.getD .forced)) ∧
    (x.testing = false ∨ ¬ quiet → exec (.infieldTestEnd u [(c, row, code)]) s = .next s) ∧
    (x.testing = true → quiet → c / 4 = u → (∀ d, d / 4 = u → d ≠ c → (s.core d).corrections = []) →
      ((s.core c).corrections = [] → ∃ t, exec (.infieldTestEnd u [(c, row, code)]) s = .next t ∧
        t.cluster u = { x with testDue := false, testing := false } ∧
        ∀ r, (t.core c).code r =
          if r = row ∧ row < 6528 ∧ (s.core c).code row < code ∧ code ≤ 4 then code else (s.core c).code r) ∧
      ∀ n, (s.core c).corrections = [(row, n)] → ∃ t, exec (.infieldTestEnd u []) s = .next t ∧
        t.cluster u = { x with testDue := false, testing := false } ∧
        ∀ r, (t.core c).code r =
          if r = row ∧ row < 6528 ∧ 4 ≤ n ∧ (s.core c).code row < 4 then 4 else (s.core c).code r)

namespace Sys2Proof.Claims

/-! ## Events of the memory system and of other devices (spec/12, spec/13, spec/17, spec/18, spec/20) -/

/-- A line as a write-back that its test calls for leaves it: valid and clean (R264). -/
def cleanedIf (test : Line → Bool) (l : Line) : Line :=
  if test l = true then { l with bytes := l.bytes.map fun e => (e.1, (e.2.1, false)) } else l

/-- From s to t a core has written back the dirty bytes of the lines that meet a test, which stay valid and clean; what
this moves is charged to the core's partition, where that has a memory budget (R362). -/
def WroteBack (s t : State) (c : Nat) (test : Line → Bool) : Prop :=
  let goes (a : Nat) : Prop := ∃ l ∈ (s.core c).l1, test l = true ∧ l.line = a / 128 ∧
    ∃ e ∈ l.bytes, e.1 = a % 128 ∧ e.2.2 = true
  t = { s with
    mem := t.mem, zeroLines := t.zeroLines, l2 := t.l2, cores := t.cores, flights := t.flights, agenda := t.agenda,
    parts := t.parts, fresh := t.fresh } ∧
    ((s.part (s.partOfStack (c / 64))).mem = 0 → t.parts = s.parts ∧ t.fresh = s.fresh) ∧
    (∀ p, t.part p = { s.part p with memUsed := (t.part p).memUsed }) ∧
    ((∀ f ∈ s.flights, f.core = c → f.data = none) → t.flights = s.flights ∧ t.agenda = s.agenda) ∧
    (∀ k, k ≠ c → t.core k = s.core k) ∧ t.core c = { s.core c with l1 := (s.core c).l1.map (cleanedIf test) } ∧
    ∀ a, (goes a → t.mem.byte a = coreByte s c a) ∧ (¬ goes a → t.mem.byte a = s.mem.byte a)

/-- A partition of a domain group holds the bytes of a range (R374). -/
def GroupHolds (s : State) (group a n : Nat) : Prop :=
  ∃ p ∈ s.parts, p.2.group = group ∧ ∃ w ∈ p.2.win0 ++ p.2.win1, w.1 ≤ a ∧ a + n ≤ w.1 + w.2

/-- The flights of the cores of a window for a line carry the line as it stands at home; the others are as before. -/
def Served (s t : State) (line : Nat) (cs : List Nat) : Prop :=
  t.flights = s.flights.map fun f =>
    if f.line = line ∧ f.core ∈ cs ∧ f.data = none then
      { f with data := some ((List.range 128).map (fun i => s.mem.byte (128 * line + i)),
                             (List.range 16).filter fun w => s.poison.contains (16 * line + w)) }
    else f

end Sys2Proof.Claims

/-- R264, R271, R284 to R286, R290, R295, R298, R299: the events of the memory system. A read waits in a combine window
of its slice, or is served alone; the window serves every read it has gathered with the line as it stands, the
sixteenth to join closing it; the reply fills the L1, dirty bytes of which stay. A pull and a write-back bring dirty bytes
home. A release's write enters its record; a batch is applied in lane order; a recall brings partial results home.
Choices of the model's are that an event whose condition fails has no effect (log 19), its agenda (log 3) and the order
of combining (log 12). -/
def Obligations.MemoryEventResults : Prop :=
  ∀ (s : State) (c line e : Nat),
    let cs := Tab.get [] s.windows line
    let waiting := ∃ f ∈ s.flights, f.line = line ∧ f.core = c ∧ f.data = none
    let alone := s.records = [] ∧ s.recordOrder = [] ∧ s.holders = []
    let open_ := (s.windows.filter fun w => decide (sliceOfLine w.1 = sliceOfLine line)).length
    (¬ waiting → exec (.homeRead c line) s = .next s) ∧
    (waiting →
      (cs = [] → open_ < 64 → exec (.homeRead c line) s =
        .next ({ s with windows := Tab.put s.windows line [c] }.later (.combineWindowClose line))) ∧
      (cs ≠ [] → cs.length < 16 → (∀ x, cs.head? = some x → x / 4 ≠ c / 4) → exec (.homeRead c line) s =
        .next { s with windows := Tab.put s.windows line (cs ++ [c]) }) ∧
      (alone → cs.length = 16 → (∀ x, cs.head? = some x → x / 4 ≠ c / 4) →
        ∃ t, exec (.homeRead c line) s = .next t ∧ Served s t line (cs ++ [c]) ∧ Tab.get [] t.windows line = []) ∧
      (alone → (∀ x, cs.head? = some x → x / 4 = c / 4) → cs ≠ [] ∨ 64 ≤ open_ →
        ∃ t, exec (.homeRead c line) s = .next t ∧
          TagsOnly { s with flights := t.flights, agenda := t.agenda } t ∧
          Served s t line [c] ∧ Instr.memoryReply c line ∈ t.agenda)) ∧
    (cs = [] → exec (.combineWindowClose line) s = .next s) ∧
    (cs ≠ [] → alone → ∃ t, exec (.combineWindowClose line) s = .next t ∧
      TagsOnly { s with flights := t.flights, agenda := t.agenda, windows := t.windows } t ∧ Served s t line cs ∧
      t.windows = Tab.drop s.windows line ∧ ∀ k ∈ cs, Instr.memoryReply k line ∈ t.agenda) ∧
    ((∀ f ∈ s.flights, ¬ (f.line = line ∧ f.core = c ∧ f.data ≠ none)) → exec (.memoryReply c line) s = .next s) ∧
    (∀ f bs ps, s.flights.find? (fun f => f.line == line && f.core == c && f.data.isSome) = some f →
      f.data = some (bs, ps) →
      (f.fill = false → exec (.memoryReply c line) s = .next { s with flights := s.flights.erase f }) ∧
      let filled (t : State) (l : Line) : Prop :=
        t = { s with flights := s.flights.erase f, cores := t.cores } ∧ (∀ k, k ≠ c → t.core k = s.core k) ∧
          t.core c = { s.core c with
            l1 := l :: (s.core c).l1.filter fun x => decide (x.line ≠ line)
            recent := line :: (s.core c).recent.filter fun x =>
              decide (x ≠ line) && (s.core c).l1.any fun y => decide (y.line = x) }
      (f.fill = true → (s.core c).carve.ways = 0 → ∃ t, exec (.memoryReply c line) s = .next t ∧
        t = { s with flights := s.flights.erase f, cores := t.cores } ∧ (t.core c).l1 = (s.core c).l1) ∧
      (f.fill = true → (s.core c).carve.ways ≠ 0 → (s.core c).acc = [] → ((s.core c).l1.map (·.line)).Nodup →
        (∀ w, (∀ l ∈ (s.core c).l1, l.line ≠ line ∧ (l.line % 256 = line % 256 → l.way ≠ w)) →
          w < (s.core c).carve.ways → (∀ v < w, ∃ l ∈ (s.core c).l1, l.line % 256 = line % 256 ∧ l.way = v) →
          ∃ t, exec (.memoryReply c line) s = .next t ∧ filled t
            { line := line, way := w, bytes := (List.range 128).map (fun i => (i, (bs.getD i 0#8, false))),
              poison := (List.range 16).filter fun w => ps.contains w, epoch := (s.core c).epoch,
              prefetched := !f.demanded, guard := f.guard }) ∧
        ∀ l ∈ (s.core c).l1, l.line = line → ∃ t, exec (.memoryReply c line) s = .next t ∧
          filled t { l.merge bs ps with
            prefetched := l.prefetched || !f.demanded, guard := if f.guard = none then l.guard else f.guard })) ∧
    (QuietHome s → OrderedL1 s c →
      (∃ t, exec (.pullRequest c e) s = .next t ∧ WroteBack s t c fun l => decide (l.epoch ≤ e)) ∧
      ∃ t, exec (.writeBack c line) s = .next t ∧ WroteBack s t c fun l => l.line == line) ∧
    (∀ g cells, ¬ GroupHolds s g (128 * line) 128 → exec (.releaseRecord (.inbound g c) line e cells) s = .next s) ∧
    (QuietHome s → line < 2 ^ 57 → ∀ sender cells,
      sender = .own c ∨ (∃ g, sender = .inbound g c ∧ GroupHolds s g (128 * line) 128) →
      ∃ t, exec (.releaseRecord sender line e cells) s = .next t ∧
      t.records = [(line, [(senderKey sender, e)])] ∧ t.cores = s.cores ∧
      (∀ a, a / 128 ≠ line → t.mem.byte a = s.mem.byte a) ∧
      ∀ i < 128, t.mem.byte (128 * line + i) =
        ((cells.reverse.find? fun x => x.1 == i).map (·.2)).getD (s.mem.byte (128 * line + i))) ∧
    (∀ a op wide os, op.toNat ≤ 12 →
      let n := if wide then 8 else 4
      let r (m : Nat) : Nat := os.foldl (fun m o => newValue op.toNat (8 * n) m (o.1.toNat % 2 ^ (8 * n))
        (o.1.toNat % 2 ^ (8 * n)) o.2.toNat) m
      (∀ g, ¬ GroupHolds s g a n → exec (.atomicBatch (.inbound g) a op wide os) s = .next s) ∧
      (QuietHome s → a + n ≤ 2 ^ 64 → ∀ unit, unit = .home ∨ (∃ g, unit = .inbound g ∧ GroupHolds s g a n) →
        ∃ t, exec (.atomicBatch unit a op wide os) s = .next t ∧ TagsOnly { s with mem := t.mem } t ∧ ∀ b, t.mem.byte b =
          if a ≤ b ∧ b < a + n then BitVec.ofNat 8 (r (s.mem.num a n) / 256 ^ (b - a)) else s.mem.byte b) ∧
      (QuietScratch s → ∀ k, ∃ t, exec (.atomicBatch (.bank k) a op wide os) s = .next t ∧ t = { s with blocks := t.blocks } ∧
        ∀ j b, (t.block j).scratch.byte b = if j = k ∧ a ≤ b ∧ b < a + n then
          BitVec.ofNat 8 (r ((s.block k).scratch.num a n) / 256 ^ (b - a)) else (s.block j).scratch.byte b)) ∧
    (∀ y off v, Tab.get [] s.holders line = [c] → Tab.get [] s.records line = [] → (s.core c).acc = [y] →
      y.place = line → y.words = [(off, v)] → y.op.toNat ≤ 12 → v.toNat < (if y.wide then 2 ^ 64 else 2 ^ 32) →
      line < 2 ^ 57 → off + (if y.wide then 8 else 4) ≤ 128 → ∃ t, exec (.recall line) s = .next t ∧ Tab.get [] t.holders line = [] ∧ Tab.get [] t.windows line = [] ∧
        (t.core c).acc = [] ∧
        let n := if y.wide then 8 else 4
        ∀ a, t.mem.byte a = if 128 * line + off ≤ a ∧ a < 128 * line + off + n then
          BitVec.ofNat 8 (newValue y.op.toNat (8 * n) (s.mem.num (128 * line + off) n) v.toNat 0 0 /
            256 ^ (a - (128 * line + off))) else s.mem.byte a) ∧
    (∀ seg, (seg / 2 ^ 21 / 16 ≠ c → exec (.redcRecall c seg) s = .next s) ∧
      (seg / 2 ^ 21 / 16 = c → ∃ t, exec (.redcRecall c seg) s = .next t ∧ Tab.get [] (t.core c).redHolders seg = [] ∧
        (∀ k ∈ Tab.get [] (s.core c).redHolders seg, ∀ y ∈ (t.core k).redBuf, y.place ≠ seg) ∧ t.mem = s.mem ∧
        ∀ k y off v, Tab.get [] (s.core c).redHolders seg = [k] → (s.core k).redBuf = [y] → y.place = seg →
          y.words = [(off, v)] → y.op.toNat ≤ 12 → v.toNat < (if y.wide then 2 ^ 64 else 2 ^ 32) →
          let n := if y.wide then 8 else 4
          let o := seg % 2 ^ 21 + off
          ∀ b a, (t.block b).scratch.byte a = if b = seg / 2 ^ 21 ∧ o ≤ a ∧ a < o + n then
            BitVec.ofNat 8 (newValue y.op.toNat (8 * n) ((s.block b).scratch.num o n) v.toNat 0 0 / 256 ^ (a - o))
          else (s.block b).scratch.byte a))

/-- R353, R354, R374, R375, R415: a walk that finds its page makes the entry in the core's TLB; another device's access
is served only where its domain group holds the frame; routes to one of the 64 devices (R373) take their weights and
let go what waited for them; a wait for a device that no route reaches ends as poisoned. Choices of the model's are
that an event whose condition fails has no effect (log 19), the table of other devices (log 21) and the rounding of
weights (log 43). -/
def Obligations.RemoteEventResults : Prop :=
  ∀ (s : State) (c ctx va k : Nat) (write : Bool),
    (∀ u e, s.walkFor (c / 64) ctx va (if write then .write else .read) = .ok u e →
      ∃ t, exec (.translationWalkComplete c ctx va write) s = .next t ∧ (t.core c).tlb.head? = some e ∧
        (t.cluster (c / 4)).tlb.head? = some e ∧
        (let n := e.va / e.size; let router := n % 16 ^^^ n / 16 % 16 ^^^ n / 256 % 16
         (Tab.get [] (t.stack (c / 64)).tlb router).head? = some e) ∧
        t.warps = u.warps ∧ t.mem = u.mem) ∧
    (∀ x y, s.walkFor (c / 64) ctx va (if write then .write else .read) = .bad x y →
      exec (.translationWalkComplete c ctx va write) s = .next s) ∧
    (QuietHome s → ∀ group a bs,
      let allowed := GroupHolds s group a bs.length
      (¬ allowed → exec (.remoteAccess group write a bs) s = .next s) ∧
      (allowed → a + bs.length < 2 ^ 64 → (∃ t, exec (.remoteAccess group false a bs) s = .next t ∧ TagsOnly s t) ∧
        ∃ t, exec (.remoteAccess group true a bs) s = .next t ∧ TagsOnly { s with mem := t.mem } t ∧
          ∀ b, t.mem.byte b = if a ≤ b ∧ b < a + bs.length then bs.getD (b - a) 0#8 else s.mem.byte b)) ∧
    (∀ dest rs, 64 ≤ dest → exec (.routeAdvertisement dest rs) s = .next s) ∧
    (∀ dest link cost, dest < 64 → link < 12 → cost ≠ 0 → ∃ t, exec (.routeAdvertisement dest [(link, cost)]) s = .next t ∧
      t = { s with
        routes := Tab.put s.routes dest [(link, 64)], adverts := Tab.put s.adverts dest [(link, cost)], warps := t.warps } ∧
      ∀ j x, ((t.warp j).micro x).wait = match ((s.warp j).micro x).wait with
        | .remote _ => .none
        | w => w) ∧
    (∀ dest l1 l2 b1 b2, dest < 64 → l1 < 12 → l2 < 12 →
      let c1 := (s.link (linkKey (.domain l1))).cost + b1
      let c2 := (s.link (linkKey (.domain l2))).cost + b2
      0 < c1 → c1 < c2 → ∃ t, exec (.routeAdvertisement dest [(l1, b1), (l2, b2)]) s = .next t ∧
      let share := (2 * 64 * c1 + (c1 + c2)) / (2 * (c1 + c2))
      Tab.get [] t.routes dest = [(l1, 64 - share), (l2, share)]) ∧
    (∀ dest, dest < 64 → ∃ t, exec (.routeAdvertisement dest []) s = .next t ∧ Tab.get [] t.routes dest = []) ∧
    (let w := s.warp k
     (∀ a x, (w.micro x).wait = .remote a → (∀ b, (w.micro (!x)).wait ≠ .remote b) → w.reply = none →
        exec (.remoteTimeout k) s = .next (s.setWarp k (w.setMicro x ((w.micro x).woken (.poisoned a))))) ∧
      ((∀ x b, (w.micro x).wait ≠ .remote b) →
        (w.reply = none → exec (.remoteTimeout k) s = .next s) ∧
        ∀ l, w.reply = some l → w.stat = .running → (∀ x, (w.micro x).wait = .none) → (s.core (k / 48)).window = [] →
          (∀ x ∈ (s.core (k / 48)).queue, x.back = none) →
          ∃ t, exec (.remoteTimeout k) s = .next t ∧ (t.warp k).stat = .stopped ∧ (t.warp k).cause = 0x10#8 ∧
            (t.warp k).reply = none ∧ (t.warp k).taddr = BitVec.ofNat 64 l.addr ∧ (t.warp k).waddr = l.waddr ∧
            (t.warp k).regs = w.regs ∧ SameBytes s t))

namespace Sys2Proof.Claims

/-! ## Words, packets, the step and reset (spec/01 to spec/04) -/

/-- The opcodes that the opcode map defines (R51). -/
def DefinedOp (n : Nat) : Prop :=
  n ≤ 0x35 ∨ (0x38 ≤ n ∧ n ≤ 0x7B) ∨ (0x80 ≤ n ∧ n ≤ 0x8E) ∨ (0xA0 ≤ n ∧ n ≤ 0xA9) ∨ (0xB0 ≤ n ∧ n ≤ 0xB9) ∨
    (0xC0 ≤ n ∧ n ≤ 0xFD)

/-- The header of a word under guard p, not negated, that neither reuses an operand nor chains (R38). -/
def under (p : BitVec 3) : Hdr := { c := false, u := false, n := false, p := p }

/-- Words that the spec prints beside their operands, with what they mean. -/
def printedWords : List (W32 × Instr) :=
  [(0x00000000#32, .nop false), (0x0004061A#32, .imx 0x61A#18), (0x04080004#32, .bra (under 1#3) 4#18),
   (0x0018000B#32, .rcv false 11#18), (0x0030503D#32, .loop (under 0#3) 5#6 61#6), (0x002400C1#32, .trap (under 0#3) 3#6 1#6),
   (0x0040400C#32, .sreg (under 0#3) 4#6 0#6 12#6), (0x0048200E#32, .setnfCode (under 0#3) 2#2 14#6),
   (0x004C1083#32, .post (under 0#3) 1#6 2#6 3#6), (0x00903120#32, .saddi (under 0#3) 3#6 4#6 0x20#6),
   (0xC8E440C2#32, .vadd { c := true, u := true, n := false, p := 2#3 } 1#2 4#6 3#6 2#6),
   (0x014DA101#32, .vcmp (under 0#3) 3#2 3#3 2#3 4#6 1#6), (0x021C61C5#32, .vcvt (under 0#3) 6#6 7#6 0#2 1#2 1#2),
   (0x02A44081#32, .exd (under 0#3) 4#6 2#6 1#2), (0x02C47192#32, .shfli (under 0#3) 7#6 6#6 18#6),
   (0x02D490C1#32, .scan (under 0#3) 9#6 3#6 0#1 0#3 1#2), (0x03344081#32, .ldg (under 0#3) 1#2 4#6 2#6 1#3),
   (0x03403168#32, .stl (under 0#3) 0#2 3#6 5#6 5#3 0#3), (0x03808002#32, .ldbD (under 0#3) 8#6 0#6 2#3),
   (0x03884081#32, .atomg (under 0#3) 4#6 2#6 1#3), (0x03945002#32, .redg (under 0#3) 5#6 0#6 2#3),
   (0x039C0011#32, .fenceAr (under 0#3) 1#3), (0x03A440DA#32, .bomark (under 0#3) 4#6 3#6 3#2 2#3),
   (0x03B86052#32, .ldrag (under 0#3) 6#6 1#6 2#3 2#3), (0x03B401C1#32, .bar (under 0#3) 7#6 1#4),
   (0x03C14598#32, .cp (under 0#3) 20#6 22#6 24#6), (0x03D0A100#32, .mma (under 0#3) 10#6 4#6),
   (0x03D8C105#32, .aread (under 0#3) 12#6 4#6 5#6), (0x03EC7002#32, .batonTry (under 0#3) 7#6),
   (0x03F07184#32, .rwctlCnt (under 0#3) 7#6 6#6)]

/-- The state in which the words of a group run that has begun in b: it is dispatched in a cycle of its core, and its
budgets are charged (R109, R110); one that has waited was dispatched when it began (log 53). -/
def dispatched (b : State) : State :=
  if b.mic.wakes.isEmpty || !b.mic.mid then (b.timeGroup b.mic.nextWords b.cw.onRe).account b.cw.onRe else b

/-- What a step answers for a group that has begun in b and whose words lead to x: the warp stops before the group is
dispatched where the cycles until then bring its span to its limit (R104). -/
def answers (b x : State) : Out :=
  let timed := b.timeGroup b.mic.nextWords b.cw.onRe
  .next (if (b.mic.wakes.isEmpty || !b.mic.mid) && timed.cw.overrun then timed else x)

/-- A trap that takes the whole group back: any but POISON on the IE (R44, R382). -/
def TakesBack (b r : State) : Prop := r.cw.stat ≠ .running ∧ (r.cw.recorded.cause ≠ .poison ∨ b.cw.onRe = true)

/-- The chain group that has begun in slot t in a state b goes on by a step of s (R44; log 53 on words that wait). Its
words run one after the other; a trap takes the group back, and so does one of a word behind a waiting one; a word that
finds no room has not issued, and behind any other that waits the group has no other effect yet. What a step adds to the
words is `afterGroup`: the warp's place in the issue order, and the end of the packet (R42, R111). -/
def GroupRuns (s b : State) (t : Turn) : Prop :=
  let g := dispatched b
  ∀ r, g.runWords 3 = .next r →
    (TakesBack b r → step s = answers b (g.groupTraps r)) ∧
    (r.cw.stat = .running → r.mic.wait = .none → step s = answers b (r.afterGroup t)) ∧
    (r.cw.stat = .running → r.mic.wait ≠ .none →
      (∀ x, State.laterTrap 3 r = some x → step s = answers b (g.groupTraps x)) ∧
      (State.laterTrap 3 r = none →
        ((∃ h, r.mic.wait = .room h) →
          step s = answers b (b.setMic { b.mic with word := r.mic.word, wait := r.mic.wait })) ∧
        ((∀ h, r.mic.wait ≠ .room h) → ∀ v, g.waitAlone r.mic.word = .next v → step s = answers b (v.afterGroup t))))

/-- A slot that issues holds its packet, or has fetched and checked it (R41, R53). -/
def HoldsPacket (s u : State) (t : Turn) : Prop :=
  let x : State := { s with cur := t, turns := s.turns.drop 1 }
  (x.mic.pkt ≠ [] ∧ u = x) ∨
    (x.mic.pkt = [] ∧ u.cur = t ∧ u.mayGo t = true ∧ u.cw.stat = .running ∧ ∃ v ws, x.packetWords = .ok (v, ws) ∧
      checkPacket (v.block v.myBlock).regs ws = none ∧ u = v.setMic { x.mic with pkt := ws })

end Sys2Proof.Claims

/-- R27, R34, R126, R128, R262, R283, R368: after module reset every die is at FULL with its 6144 logical rows and
nothing is resident, installed or queued; every partition's status reads 0; no memory byte is listed. That an unlisted
byte reads 0, and that what the spec gives no reset value is 0 or empty, is the model's choice (logs 1, 5, 7). -/
def Obligations.ResetState : Prop :=
  let s := State.reset
  (∀ k, (s.die k).phase = 3 ∧ (s.die k).step = none) ∧
    (∀ c, (s.core c).rows = 6144 ∧ (s.core c).carve = {} ∧ (s.core c).epoch = 1 ∧ (s.core c).l1 = [] ∧
      (s.core c).baton = none ∧ (s.core c).counters = [] ∧ (s.core c).cycle = 0#64) ∧
    (∀ k, (s.warp k).stat = .absent) ∧ (∀ b, (s.block b).used = false) ∧ (∀ l, (s.launch l).phase = .unused) ∧
    (∀ i, s.context i = none) ∧ (∀ q, (s.queue q).bound = false) ∧ s.ecc = [] ∧ s.xfer = [] ∧ s.booted = false ∧
    (∀ k, (s.part k).status s.booted = 0) ∧ (∀ a, s.mem.byte a = 0#8) ∧ s.memoriesWf

/-- R41, R42, R44, R53, R382: a step whose turn list names a slot that may issue. Fetch: the three words of the slot's
packet are the bytes at code base + 12 × pc, four to a word, the first least significant. A packet that fails its check
traps at the failing word before any word issues. A word that is a chain group by itself is decoded and executed in the
state in which its group begins, and the slot moves behind it; a group is executed word by word in that way, and a trap
takes it back; on the IE a word that meets poison has no effect, and the warp stops behind its group (R382); a word that
reads a poisoned word of a v-register consumes it (R403). The list of turns, the cycle of a dispatch, what a waiting group
does and when, and that a register is read whole are the model's choices (logs 3, 4, 53, 59). -/
def Obligations.StepRunsDecoded : Prop :=
  (∀ (s : State) (e : TlbEntry), QuietHome s →
    let a := s.codeBase s.cur.warp + 12 * s.pc
    a < 2 ^ 64 → a % 65536 ≤ 65524 → (s.core s.here).icache = [] →
    tlbFind (s.core s.here).tlb s.myCtx a .fetch = some e → ∃ v w0 w1 w2, s.packetWords = .ok (v, [w0, w1, w2]) ∧
      TagsOnly { s with cores := v.cores } v ∧ w0.toNat = s.mem.num (e.phys a) 4 ∧ w1.toNat = s.mem.num (e.phys a + 4) 4 ∧
      w2.toNat = s.mem.num (e.phys a + 8) 4) ∧
  (∀ (s v : State) (t : Turn) (ws : List W32) (j : Nat) (c : Cause), s.turns.head? = some t → s.canIssue t = true →
    let x : State := { s with cur := t, turns := s.turns.drop 1 }
    x.mic.pkt = [] → x.packetWords = .ok (v, ws) → checkPacket (v.block v.myBlock).regs ws = some (j, c) →
    let at_ := BitVec.ofNat 64 (v.codeBase v.cur.warp + 12 * v.pc + 4 * j)
    step s = .next ((v.setMic { x.mic with group := 0 }).takeTrap v.cur { cause := c, taddr := at_, waddr := at_ })) ∧
  (∀ (s u : State) (t : Turn), s.turns.head? = some t → s.canIssue t = true → HoldsPacket s u t → u.flushDue = false →
    let b := if u.mic.mid = true then u else u.beginGroup
    b.groupHeld = false → b.fenceHeld = false → GroupRuns s b t ∧
    (u.mic.mid = false → let g := dispatched b
      ∀ w i r, u.mic.pkt[u.mic.word]? = some w → decodeWord w = .ok i → opOf w ≠ 1 → w.getLsbD 31 = false →
        g.runWord i = .next r →
        (TakesBack b r → step s = answers b (g.groupTraps r)) ∧
        (r.cw.stat = .running → r.mic.wait = .none → step s = answers b ((r.setMic r.mic.passed).afterGroup t)) ∧
        (r.cw.stat = .running → r.mic.wait ≠ .none → r.mic.word = u.mic.word → r.mic.pkt = u.mic.pkt →
          ((∃ h, r.mic.wait = .room h) →
            step s = answers b (b.setMic { b.mic with word := u.mic.word, wait := r.mic.wait })) ∧
          ((∀ h, r.mic.wait ≠ .room h) →
            ∀ v, exec i (g.setMic { g.mic with word := u.mic.word, pfx := prefixesAt u.mic.pkt u.mic.word }) = .next v →
            step s = answers b (v.afterGroup t))) ∧
        (r.cw.stat ≠ .running → ¬ TakesBack b r → r.cw.waddr = g.myAddr →
          let v := g.setMic { g.mic with
            did := [u.mic.word], wakes := Tab.put g.mic.wakes u.mic.word (.poisoned r.cw.recorded.taddr.toNat) }
          step s = answers b ((v.setMic v.mic.passed).poisonStop r.cw.recorded)))) ∧
  (∀ (s : State) (i : Instr), s.runWord i =
    if ∃ r ∈ vSources i, ∃ n ∈ s.mic.src.bad, n / 32 = r then .next (s.trapHere .poison) else exec i s) ∧
  (∀ (s : State) (n : Nat) (w : W32) (i : Instr), s.mic.pkt[s.mic.word]? = some w → decodeWord w = .ok i →
    s.runWords (n + 1) = match (if s.mic.word ∈ s.mic.did then .next s else s.runWord i) with
      | .next r =>
        if r.cw.stat ≠ .running ∨ r.mic.wait ≠ .none then .next r
        else if opOf w = 1 then (r.setMic { r.mic with word := r.mic.word + 1, mid := true }).runWords n
        else if w.getLsbD 31 = true then (r.setMic r.mic.passed).runWords n
        else .next (r.setMic r.mic.passed)
      | o => o)

/-- R38, R45, R51: words that the spec prints decode to the instructions it prints them for. -/
def Obligations.WordsDecode : Prop :=
  ∀ e ∈ printedWords, decode (leBytes e.1.toNat 4) = .ok (e.2, []) ∧ encode e.2 = some e.1

/-- R38, R45, R51: decoding is the inverse of encoding, for every well-formed instruction that has a word. -/
def Obligations.EncodeDecode : Prop :=
  ∀ (i : Instr) (w : W32) (rest : List Byte), encode i = some w → i.wf = true →
    decode (leBytes w.toNat 4 ++ rest) = .ok (i, rest)

/-- R45, R51, R52: an opcode that the map does not define is refused as reserved; a word that decodes is the word of its
instruction, so that a set unused bit is refused, and its instruction is well formed. -/
def Obligations.RefusedWords : Prop :=
  (∀ w : W32, ¬ DefinedOp (opOf w) → decodeWord w = .error .reserved) ∧
    ∀ (w : W32) (i : Instr), decodeWord w = .ok i → encode i = some w ∧ i.wf = true

/-- R25, R39: the guard of a word in lane l is P[P][l] XOR N. p0 reads true in every lane and a write to it changes no
register, so that guard p0 with N = 0 is true; N = 1 with P = 0 is no word, and traps ILLEGAL at decode. -/
def Obligations.GuardRule : Prop :=
  (∀ (s : State) (h : Hdr) (l : Nat), s.guard h l = (s.rdP h.p.toNat l != h.n) ∧ s.rdP 0 l = true ∧
    (h.p = 0#3 → h.n = false → s.guard h l = true)) ∧
  (∀ (s : State) (act f : Nat → Bool), (s.putP 0 act f).cw = s.cw ∧ ∀ k, (s.putP 0 act f).warp k = s.warp k) ∧
  ∀ (w : W32), w.getLsbD 29 = true → w.extractLsb' 26 3 = 0#3 →
    (∀ i, decodeWord w ≠ .ok i) ∧ ∀ (regs : Nat) (ws : List W32) (j : Nat), ws[j]? = some w →
      wordFault regs (slotsFrom ws 0 [] 0 0) j = some .illegal

/-- The memories of the state keep their canonical form (log 1): addresses strictly rising and no zero byte listed, over
every step of every kind. -/
def Obligations.StepKeepsMemories : Prop :=
  ∀ s t : State, s.memoriesWf → step s = .next t → t.memoriesWf

/-- A step of any kind answers a next state: no instruction, no event and no packet is refused or ends in a fault. -/
def Obligations.EveryStepAnswers : Prop :=
  (∀ (i : Instr) (s : State), ∃ t, exec i s = .next t) ∧ ∀ s : State, StepSafe s
end

