-- ==== Sys2Proof/Laws/Store.lean ====
section
/-! SUPPORT. Laws of tables and memories: reading after writing, and the canonical form of a memory (log 1), which
every memory operation keeps. -/

namespace Sys2Proof

/-! ## Tables -/

@[simp] theorem Tab.get_nil {α : Type} (d : α) (k : Nat) : Tab.get d [] k = d := rfl

@[simp] theorem Tab.get_put_self {α : Type} (d : α) (t : Tab α) (k : Nat) (a : α) : Tab.get d (Tab.put t k a) k = a := by
  induction t with
  | nil => simp [Tab.put, Tab.get]
  | cons e t ih =>
    obtain ⟨j, b⟩ := e
    simp only [Tab.put]
    split
    · next hj => simp [Tab.get, ih, Nat.ne_of_lt hj]
    · simp [Tab.get]

theorem Tab.get_put_ne {α : Type} (d : α) (t : Tab α) {k j : Nat} (a : α) (h : j ≠ k) :
    Tab.get d (Tab.put t k a) j = Tab.get d t j := by
  have h' : ¬ k = j := fun e => h e.symm
  induction t with
  | nil => simp [Tab.put, Tab.get, h']
  | cons e t ih =>
    obtain ⟨i, b⟩ := e
    simp only [Tab.put]
    split
    · simp [Tab.get, ih]
    · split
      · next hi => subst hi; simp [Tab.get, h']
      · simp [Tab.get, h']

theorem Tab.get_put {α : Type} (d : α) (t : Tab α) (k j : Nat) (a : α) :
    Tab.get d (Tab.put t k a) j = if j = k then a else Tab.get d t j := by
  split
  · next h => subst h; simp
  · next h => exact Tab.get_put_ne d t a h

theorem Tab.get_drop {α : Type} (d : α) (t : Tab α) (k j : Nat) :
    Tab.get d (Tab.drop t k) j = if j = k then d else Tab.get d t j := by
  induction t with
  | nil => simp [Tab.drop, Tab.get]
  | cons e t ih =>
    obtain ⟨i, b⟩ := e
    by_cases hi : i = k
    · have : Tab.drop ((i, b) :: t) k = Tab.drop t k := by simp [Tab.drop, hi]
      rw [this, ih]
      by_cases hj : j = k
      · simp [hj]
      · have : ¬ i = j := by omega
        simp [Tab.get, hj, this]
    · have : Tab.drop ((i, b) :: t) k = (i, b) :: Tab.drop t k := by simp [Tab.drop, hi]
      rw [this]
      simp only [Tab.get, ih]
      by_cases hj : i = j
      · have : ¬ j = k := by omega
        simp [hj, this]
      · simp [hj]

theorem Tab.sorted_all {α : Type} {t : Tab α} (h : Tab.sorted t = true) {j : Nat} {b : α} {u : Tab α}
    (e : t = (j, b) :: u) : (∀ x ∈ u, j < x.1) ∧ Tab.sorted u = true := by
  subst e
  simpa [Tab.sorted] using h

theorem Tab.put_keys {α : Type} {t : Tab α} {k : Nat} {a : α} {x : Nat × α} (h : x ∈ Tab.put t k a) :
    x = (k, a) ∨ x ∈ t := by
  induction t with
  | nil => simpa [Tab.put] using h
  | cons e t ih =>
    obtain ⟨j, b⟩ := e
    unfold Tab.put at h
    split at h <;> simp only [List.mem_cons] at h ⊢
    case isTrue => exact h.elim (fun e => .inr (.inl e)) fun e => (ih e).imp_right .inr
    case isFalse =>
      split at h
      case isTrue => exact h.imp_right .inr
      case isFalse => simpa using h

theorem Tab.sorted_put {α : Type} {t : Tab α} (h : Tab.sorted t = true) (k : Nat) (a : α) :
    Tab.sorted (Tab.put t k a) = true := by
  induction t with
  | nil => simp [Tab.put, Tab.sorted]
  | cons e t ih =>
    obtain ⟨j, b⟩ := e
    have h' : (∀ x ∈ t, j < x.1) ∧ Tab.sorted t = true := by simpa [Tab.sorted] using h
    obtain ⟨h1, h2⟩ := h'
    simp only [Tab.put]
    split
    · next hk =>
      simp only [Tab.sorted, List.all_eq_true, Bool.and_eq_true, decide_eq_true_eq]
      exact ⟨fun x hx => (Tab.put_keys hx).elim (fun e => e ▸ hk) (h1 x), ih h2⟩
    · next hk =>
      split <;> simp only [Tab.sorted, List.all_cons, List.all_eq_true, Bool.and_eq_true, decide_eq_true_eq]
      case isTrue hj => exact ⟨fun x hx => hj ▸ h1 x hx, h2⟩
      case isFalse hj =>
        have : k < j := by omega
        exact ⟨⟨this, fun x hx => Nat.lt_trans this (h1 x hx)⟩, h1, h2⟩

theorem Tab.sorted_filter {α : Type} {t : Tab α} (h : Tab.sorted t = true) (p : Nat × α → Bool) :
    Tab.sorted (t.filter p) = true := by
  induction t with
  | nil => simp [Tab.sorted]
  | cons e t ih =>
    obtain ⟨j, b⟩ := e
    have h' : (∀ x ∈ t, j < x.1) ∧ Tab.sorted t = true := by simpa [Tab.sorted] using h
    obtain ⟨h1, h2⟩ := h'
    by_cases hp : p (j, b) = true
    · simp only [List.filter_cons, hp, if_true]
      simp only [Tab.sorted, List.all_eq_true, Bool.and_eq_true, decide_eq_true_eq]
      exact ⟨fun x hx => h1 x (List.mem_filter.mp hx).1, ih h2⟩
    · simp only [List.filter_cons, hp]
      exact ih h2

/-! ## Memories -/

@[simp] theorem Memory.byte_nil (a : Nat) : Memory.byte [] a = 0#8 := rfl

theorem Memory.byte_set (m : Memory) (a j : Nat) (b : Byte) :
    Memory.byte (Memory.set m a b) j = if j = a then b else Memory.byte m j := by
  unfold Memory.set Memory.byte
  split
  · next h => subst h; rw [Tab.get_drop]
  · rw [Tab.get_put]

@[simp] theorem Memory.byte_set_self (m : Memory) (a : Nat) (b : Byte) : Memory.byte (Memory.set m a b) a = b := by
  simp [Memory.byte_set]

theorem Memory.byte_write (m : Memory) (a : Nat) (bs : List Byte) (j : Nat) :
    Memory.byte (Memory.write m a bs) j = if a ≤ j ∧ j < a + bs.length then bs.getD (j - a) 0#8 else Memory.byte m j := by
  induction bs generalizing m a with
  | nil => exact (if_neg (by simp only [List.length_nil]; omega)).symm
  | cons b bs ih =>
    simp only [Memory.write, ih, Memory.byte_set, List.length_cons]
    by_cases h1 : j = a
    · subst h1
      have e1 : ¬ (j + 1 ≤ j ∧ j < j + 1 + bs.length) := by omega
      have e2 : j ≤ j ∧ j < j + (bs.length + 1) := by omega
      rw [if_neg e1, if_pos e2]
      simp
    · by_cases h2 : a + 1 ≤ j ∧ j < a + 1 + bs.length
      · have e2 : a ≤ j ∧ j < a + (bs.length + 1) := by omega
        rw [if_pos h2, if_pos e2]
        have : j - a = (j - (a + 1)) + 1 := by omega
        rw [this]
        simp
      · have e2 : ¬ (a ≤ j ∧ j < a + (bs.length + 1)) := by omega
        rw [if_neg h2, if_neg e2, if_neg h1]

theorem Memory.byte_write_outside (m : Memory) (a : Nat) (bs : List Byte) {j : Nat} (h : j < a ∨ a + bs.length ≤ j) :
    Memory.byte (Memory.write m a bs) j = Memory.byte m j := by
  rw [Memory.byte_write, if_neg]
  omega

theorem Memory.length_read (m : Memory) (a n : Nat) : (Memory.read m a n).length = n := by
  induction n generalizing a with
  | zero => rfl
  | succ n ih => simp [Memory.read, ih]

theorem Memory.read_congr {m m' : Memory} {a n : Nat} (h : ∀ j, a ≤ j → j < a + n → Memory.byte m j = Memory.byte m' j) :
    Memory.read m a n = Memory.read m' a n := by
  induction n generalizing a with
  | zero => rfl
  | succ n ih =>
    simp only [Memory.read]
    rw [h a (by omega) (by omega), ih fun j h1 h2 => h j (by omega) (by omega)]

theorem Memory.read_write_outside (m : Memory) (a n p : Nat) (bs : List Byte) (h : a + n ≤ p ∨ p + bs.length ≤ a) :
    Memory.read (Memory.write m p bs) a n = Memory.read m a n :=
  Memory.read_congr fun j h1 h2 => Memory.byte_write_outside m p bs (by omega)

theorem Memory.read_write (m : Memory) (a : Nat) (bs : List Byte) : Memory.read (Memory.write m a bs) a bs.length = bs := by
  induction bs generalizing m a with
  | nil => rfl
  | cons b bs ih =>
    simp only [Memory.write, List.length_cons, Memory.read, ih]
    rw [Memory.byte_write_outside _ _ _ (by omega)]
    simp

theorem Memory.wf_iff (m : Memory) : Memory.wf m = true ↔ Tab.sorted m = true ∧ ∀ e ∈ m, e.2 ≠ 0#8 := by
  simp [Memory.wf]

@[simp] theorem Memory.wf_nil : Memory.wf [] = true := rfl

theorem Memory.wf_filter {m : Memory} (h : Memory.wf m = true) (p : Nat × Byte → Bool) : Memory.wf (m.filter p) = true := by
  rw [Memory.wf_iff] at h ⊢
  exact ⟨Tab.sorted_filter h.1 p, fun e he => h.2 e (List.mem_filter.mp he).1⟩

theorem Memory.wf_set {m : Memory} (h : Memory.wf m = true) (a : Nat) (b : Byte) : Memory.wf (Memory.set m a b) = true := by
  unfold Memory.set
  split
  · exact Memory.wf_filter h _
  · next hb =>
    rw [Memory.wf_iff] at h ⊢
    refine ⟨Tab.sorted_put h.1 a b, fun e he => ?_⟩
    rcases Tab.put_keys he with rfl | he
    · exact hb
    · exact h.2 e he

theorem Memory.wf_write {m : Memory} (h : Memory.wf m = true) (a : Nat) (bs : List Byte) :
    Memory.wf (Memory.write m a bs) = true := by
  induction bs generalizing m a with
  | nil => exact h
  | cons b bs ih => exact ih (Memory.wf_set h a b) _

theorem Memory.wf_clear {m : Memory} (h : Memory.wf m = true) (a n : Nat) : Memory.wf (Memory.clear m a n) = true :=
  Memory.wf_filter h _

end Sys2Proof
end

