-- ==== Sys2Proof/Laws/State.lean ====
section
/-! SUPPORT. What each update of the state does to each field: one lemma per field per update, so that no later proof
unfolds a record update. -/

namespace Sys2Proof.Machine

/-! ## State.setWarp -/

@[simp] theorem State.setWarp_agenda (s : State) (k : Nat) (x : Warp) : (s.setWarp k x).agenda = s.agenda := rfl
@[simp] theorem State.setWarp_turns (s : State) (k : Nat) (x : Warp) : (s.setWarp k x).turns = s.turns := rfl
@[simp] theorem State.setWarp_cur (s : State) (k : Nat) (x : Warp) : (s.setWarp k x).cur = s.cur := rfl
@[simp] theorem State.setWarp_fresh (s : State) (k : Nat) (x : Warp) : (s.setWarp k x).fresh = s.fresh := rfl
@[simp] theorem State.setWarp_blocks (s : State) (k : Nat) (x : Warp) : (s.setWarp k x).blocks = s.blocks := rfl
@[simp] theorem State.setWarp_cores (s : State) (k : Nat) (x : Warp) : (s.setWarp k x).cores = s.cores := rfl
@[simp] theorem State.setWarp_clusters (s : State) (k : Nat) (x : Warp) : (s.setWarp k x).clusters = s.clusters := rfl
@[simp] theorem State.setWarp_stackMem (s : State) (k : Nat) (x : Warp) : (s.setWarp k x).stackMem = s.stackMem := rfl
@[simp] theorem State.setWarp_dies (s : State) (k : Nat) (x : Warp) : (s.setWarp k x).dies = s.dies := rfl
@[simp] theorem State.setWarp_mem (s : State) (k : Nat) (x : Warp) : (s.setWarp k x).mem = s.mem := rfl
@[simp] theorem State.setWarp_poison (s : State) (k : Nat) (x : Warp) : (s.setWarp k x).poison = s.poison := rfl
@[simp] theorem State.setWarp_zeroLines (s : State) (k : Nat) (x : Warp) : (s.setWarp k x).zeroLines = s.zeroLines := rfl
@[simp] theorem State.setWarp_l2 (s : State) (k : Nat) (x : Warp) : (s.setWarp k x).l2 = s.l2 := rfl
@[simp] theorem State.setWarp_records (s : State) (k : Nat) (x : Warp) : (s.setWarp k x).records = s.records := rfl
@[simp] theorem State.setWarp_recordOrder (s : State) (k : Nat) (x : Warp) : (s.setWarp k x).recordOrder = s.recordOrder := rfl
@[simp] theorem State.setWarp_holders (s : State) (k : Nat) (x : Warp) : (s.setWarp k x).holders = s.holders := rfl
@[simp] theorem State.setWarp_windows (s : State) (k : Nat) (x : Warp) : (s.setWarp k x).windows = s.windows := rfl
@[simp] theorem State.setWarp_flights (s : State) (k : Nat) (x : Warp) : (s.setWarp k x).flights = s.flights := rfl
@[simp] theorem State.setWarp_launches (s : State) (k : Nat) (x : Warp) : (s.setWarp k x).launches = s.launches := rfl
@[simp] theorem State.setWarp_launchCount (s : State) (k : Nat) (x : Warp) : (s.setWarp k x).launchCount = s.launchCount := rfl
@[simp] theorem State.setWarp_saveCount (s : State) (k : Nat) (x : Warp) : (s.setWarp k x).saveCount = s.saveCount := rfl
@[simp] theorem State.setWarp_queues (s : State) (k : Nat) (x : Warp) : (s.setWarp k x).queues = s.queues := rfl
@[simp] theorem State.setWarp_contexts (s : State) (k : Nat) (x : Warp) : (s.setWarp k x).contexts = s.contexts := rfl
@[simp] theorem State.setWarp_parts (s : State) (k : Nat) (x : Warp) : (s.setWarp k x).parts = s.parts := rfl
@[simp] theorem State.setWarp_layout (s : State) (k : Nat) (x : Warp) : (s.setWarp k x).layout = s.layout := rfl
@[simp] theorem State.setWarp_mailbox (s : State) (k : Nat) (x : Warp) : (s.setWarp k x).mailbox = s.mailbox := rfl
@[simp] theorem State.setWarp_staged (s : State) (k : Nat) (x : Warp) : (s.setWarp k x).staged = s.staged := rfl
@[simp] theorem State.setWarp_device (s : State) (k : Nat) (x : Warp) : (s.setWarp k x).device = s.device := rfl
@[simp] theorem State.setWarp_booted (s : State) (k : Nat) (x : Warp) : (s.setWarp k x).booted = s.booted := rfl
@[simp] theorem State.setWarp_bootResult (s : State) (k : Nat) (x : Warp) : (s.setWarp k x).bootResult = s.bootResult := rfl
@[simp] theorem State.setWarp_images (s : State) (k : Nat) (x : Warp) : (s.setWarp k x).images = s.images := rfl
@[simp] theorem State.setWarp_corrected (s : State) (k : Nat) (x : Warp) : (s.setWarp k x).corrected = s.corrected := rfl
@[simp] theorem State.setWarp_adverts (s : State) (k : Nat) (x : Warp) : (s.setWarp k x).adverts = s.adverts := rfl
@[simp] theorem State.setWarp_crossings (s : State) (k : Nat) (x : Warp) : (s.setWarp k x).crossings = s.crossings := rfl
@[simp] theorem State.setWarp_generation (s : State) (k : Nat) (x : Warp) : (s.setWarp k x).generation = s.generation := rfl
@[simp] theorem State.setWarp_capTable (s : State) (k : Nat) (x : Warp) : (s.setWarp k x).capTable = s.capTable := rfl
@[simp] theorem State.setWarp_micros (s : State) (k : Nat) (x : Warp) : (s.setWarp k x).micros = s.micros := rfl
@[simp] theorem State.setWarp_suppressed (s : State) (k : Nat) (x : Warp) : (s.setWarp k x).suppressed = s.suppressed := rfl
@[simp] theorem State.setWarp_ecc (s : State) (k : Nat) (x : Warp) : (s.setWarp k x).ecc = s.ecc := rfl
@[simp] theorem State.setWarp_xfer (s : State) (k : Nat) (x : Warp) : (s.setWarp k x).xfer = s.xfer := rfl
@[simp] theorem State.setWarp_powerLimits (s : State) (k : Nat) (x : Warp) : (s.setWarp k x).powerLimits = s.powerLimits := rfl
@[simp] theorem State.setWarp_spares (s : State) (k : Nat) (x : Warp) : (s.setWarp k x).spares = s.spares := rfl
@[simp] theorem State.setWarp_attempts (s : State) (k : Nat) (x : Warp) : (s.setWarp k x).attempts = s.attempts := rfl
@[simp] theorem State.setWarp_cells (s : State) (k : Nat) (x : Warp) : (s.setWarp k x).cells = s.cells := rfl
@[simp] theorem State.setWarp_links (s : State) (k : Nat) (x : Warp) : (s.setWarp k x).links = s.links := rfl
@[simp] theorem State.setWarp_routes (s : State) (k : Nat) (x : Warp) : (s.setWarp k x).routes = s.routes := rfl
@[simp] theorem State.setWarp_peers (s : State) (k : Nat) (x : Warp) : (s.setWarp k x).peers = s.peers := rfl
@[simp] theorem State.setWarp_msix (s : State) (k : Nat) (x : Warp) : (s.setWarp k x).msix = s.msix := rfl
@[simp] theorem State.setWarp_issued (s : State) (k : Nat) (x : Warp) : (s.setWarp k x).issued = s.issued := rfl
@[simp] theorem State.setWarp_block (s : State) (k : Nat) (x : Warp) (j : Nat) : (s.setWarp k x).block j = s.block j := rfl
@[simp] theorem State.setWarp_core (s : State) (k : Nat) (x : Warp) (j : Nat) : (s.setWarp k x).core j = s.core j := rfl
@[simp] theorem State.setWarp_cluster (s : State) (k : Nat) (x : Warp) (j : Nat) : (s.setWarp k x).cluster j = s.cluster j := rfl
@[simp] theorem State.setWarp_stack (s : State) (k : Nat) (x : Warp) (j : Nat) : (s.setWarp k x).stack j = s.stack j := rfl
@[simp] theorem State.setWarp_die (s : State) (k : Nat) (x : Warp) (j : Nat) : (s.setWarp k x).die j = s.die j := rfl
@[simp] theorem State.setWarp_launch (s : State) (k : Nat) (x : Warp) (j : Nat) : (s.setWarp k x).launch j = s.launch j := rfl
@[simp] theorem State.setWarp_queue (s : State) (k : Nat) (x : Warp) (j : Nat) : (s.setWarp k x).queue j = s.queue j := rfl
@[simp] theorem State.setWarp_context (s : State) (k : Nat) (x : Warp) (j : Nat) : (s.setWarp k x).context j = s.context j := rfl
@[simp] theorem State.setWarp_part (s : State) (k : Nat) (x : Warp) (j : Nat) : (s.setWarp k x).part j = s.part j := rfl
@[simp] theorem State.setWarp_link (s : State) (k : Nat) (x : Warp) (j : Nat) : (s.setWarp k x).link j = s.link j := rfl
@[simp] theorem State.warp_setWarp_self (s : State) (k : Nat) (x : Warp) : (s.setWarp k x).warp k = x := Tab.get_put_self _ _ _ _
theorem State.warp_setWarp_ne (s : State) (k : Nat) (x : Warp) {j : Nat} (h : j ≠ k) : (s.setWarp k x).warp j = s.warp j :=
  Tab.get_put_ne _ _ _ h
theorem State.warp_setWarp (s : State) (k : Nat) (x : Warp) (j : Nat) : (s.setWarp k x).warp j = if j = k then x else s.warp j :=
  Tab.get_put _ _ _ _ _

/-! ## State.setBlock -/

@[simp] theorem State.setBlock_agenda (s : State) (k : Nat) (x : Block) : (s.setBlock k x).agenda = s.agenda := rfl
@[simp] theorem State.setBlock_turns (s : State) (k : Nat) (x : Block) : (s.setBlock k x).turns = s.turns := rfl
@[simp] theorem State.setBlock_cur (s : State) (k : Nat) (x : Block) : (s.setBlock k x).cur = s.cur := rfl
@[simp] theorem State.setBlock_fresh (s : State) (k : Nat) (x : Block) : (s.setBlock k x).fresh = s.fresh := rfl
@[simp] theorem State.setBlock_warps (s : State) (k : Nat) (x : Block) : (s.setBlock k x).warps = s.warps := rfl
@[simp] theorem State.setBlock_cores (s : State) (k : Nat) (x : Block) : (s.setBlock k x).cores = s.cores := rfl
@[simp] theorem State.setBlock_clusters (s : State) (k : Nat) (x : Block) : (s.setBlock k x).clusters = s.clusters := rfl
@[simp] theorem State.setBlock_stackMem (s : State) (k : Nat) (x : Block) : (s.setBlock k x).stackMem = s.stackMem := rfl
@[simp] theorem State.setBlock_dies (s : State) (k : Nat) (x : Block) : (s.setBlock k x).dies = s.dies := rfl
@[simp] theorem State.setBlock_mem (s : State) (k : Nat) (x : Block) : (s.setBlock k x).mem = s.mem := rfl
@[simp] theorem State.setBlock_poison (s : State) (k : Nat) (x : Block) : (s.setBlock k x).poison = s.poison := rfl
@[simp] theorem State.setBlock_zeroLines (s : State) (k : Nat) (x : Block) : (s.setBlock k x).zeroLines = s.zeroLines := rfl
@[simp] theorem State.setBlock_l2 (s : State) (k : Nat) (x : Block) : (s.setBlock k x).l2 = s.l2 := rfl
@[simp] theorem State.setBlock_records (s : State) (k : Nat) (x : Block) : (s.setBlock k x).records = s.records := rfl
@[simp] theorem State.setBlock_recordOrder (s : State) (k : Nat) (x : Block) : (s.setBlock k x).recordOrder = s.recordOrder := rfl
@[simp] theorem State.setBlock_holders (s : State) (k : Nat) (x : Block) : (s.setBlock k x).holders = s.holders := rfl
@[simp] theorem State.setBlock_windows (s : State) (k : Nat) (x : Block) : (s.setBlock k x).windows = s.windows := rfl
@[simp] theorem State.setBlock_flights (s : State) (k : Nat) (x : Block) : (s.setBlock k x).flights = s.flights := rfl
@[simp] theorem State.setBlock_launches (s : State) (k : Nat) (x : Block) : (s.setBlock k x).launches = s.launches := rfl
@[simp] theorem State.setBlock_launchCount (s : State) (k : Nat) (x : Block) : (s.setBlock k x).launchCount = s.launchCount := rfl
@[simp] theorem State.setBlock_saveCount (s : State) (k : Nat) (x : Block) : (s.setBlock k x).saveCount = s.saveCount := rfl
@[simp] theorem State.setBlock_queues (s : State) (k : Nat) (x : Block) : (s.setBlock k x).queues = s.queues := rfl
@[simp] theorem State.setBlock_contexts (s : State) (k : Nat) (x : Block) : (s.setBlock k x).contexts = s.contexts := rfl
@[simp] theorem State.setBlock_parts (s : State) (k : Nat) (x : Block) : (s.setBlock k x).parts = s.parts := rfl
@[simp] theorem State.setBlock_layout (s : State) (k : Nat) (x : Block) : (s.setBlock k x).layout = s.layout := rfl
@[simp] theorem State.setBlock_mailbox (s : State) (k : Nat) (x : Block) : (s.setBlock k x).mailbox = s.mailbox := rfl
@[simp] theorem State.setBlock_staged (s : State) (k : Nat) (x : Block) : (s.setBlock k x).staged = s.staged := rfl
@[simp] theorem State.setBlock_device (s : State) (k : Nat) (x : Block) : (s.setBlock k x).device = s.device := rfl
@[simp] theorem State.setBlock_booted (s : State) (k : Nat) (x : Block) : (s.setBlock k x).booted = s.booted := rfl
@[simp] theorem State.setBlock_bootResult (s : State) (k : Nat) (x : Block) : (s.setBlock k x).bootResult = s.bootResult := rfl
@[simp] theorem State.setBlock_images (s : State) (k : Nat) (x : Block) : (s.setBlock k x).images = s.images := rfl
@[simp] theorem State.setBlock_corrected (s : State) (k : Nat) (x : Block) : (s.setBlock k x).corrected = s.corrected := rfl
@[simp] theorem State.setBlock_adverts (s : State) (k : Nat) (x : Block) : (s.setBlock k x).adverts = s.adverts := rfl
@[simp] theorem State.setBlock_crossings (s : State) (k : Nat) (x : Block) : (s.setBlock k x).crossings = s.crossings := rfl
@[simp] theorem State.setBlock_generation (s : State) (k : Nat) (x : Block) : (s.setBlock k x).generation = s.generation := rfl
@[simp] theorem State.setBlock_capTable (s : State) (k : Nat) (x : Block) : (s.setBlock k x).capTable = s.capTable := rfl
@[simp] theorem State.setBlock_micros (s : State) (k : Nat) (x : Block) : (s.setBlock k x).micros = s.micros := rfl
@[simp] theorem State.setBlock_suppressed (s : State) (k : Nat) (x : Block) : (s.setBlock k x).suppressed = s.suppressed := rfl
@[simp] theorem State.setBlock_ecc (s : State) (k : Nat) (x : Block) : (s.setBlock k x).ecc = s.ecc := rfl
@[simp] theorem State.setBlock_xfer (s : State) (k : Nat) (x : Block) : (s.setBlock k x).xfer = s.xfer := rfl
@[simp] theorem State.setBlock_powerLimits (s : State) (k : Nat) (x : Block) : (s.setBlock k x).powerLimits = s.powerLimits := rfl
@[simp] theorem State.setBlock_spares (s : State) (k : Nat) (x : Block) : (s.setBlock k x).spares = s.spares := rfl
@[simp] theorem State.setBlock_attempts (s : State) (k : Nat) (x : Block) : (s.setBlock k x).attempts = s.attempts := rfl
@[simp] theorem State.setBlock_cells (s : State) (k : Nat) (x : Block) : (s.setBlock k x).cells = s.cells := rfl
@[simp] theorem State.setBlock_links (s : State) (k : Nat) (x : Block) : (s.setBlock k x).links = s.links := rfl
@[simp] theorem State.setBlock_routes (s : State) (k : Nat) (x : Block) : (s.setBlock k x).routes = s.routes := rfl
@[simp] theorem State.setBlock_peers (s : State) (k : Nat) (x : Block) : (s.setBlock k x).peers = s.peers := rfl
@[simp] theorem State.setBlock_msix (s : State) (k : Nat) (x : Block) : (s.setBlock k x).msix = s.msix := rfl
@[simp] theorem State.setBlock_issued (s : State) (k : Nat) (x : Block) : (s.setBlock k x).issued = s.issued := rfl
@[simp] theorem State.setBlock_warp (s : State) (k : Nat) (x : Block) (j : Nat) : (s.setBlock k x).warp j = s.warp j := rfl
@[simp] theorem State.setBlock_core (s : State) (k : Nat) (x : Block) (j : Nat) : (s.setBlock k x).core j = s.core j := rfl
@[simp] theorem State.setBlock_cluster (s : State) (k : Nat) (x : Block) (j : Nat) : (s.setBlock k x).cluster j = s.cluster j := rfl
@[simp] theorem State.setBlock_stack (s : State) (k : Nat) (x : Block) (j : Nat) : (s.setBlock k x).stack j = s.stack j := rfl
@[simp] theorem State.setBlock_die (s : State) (k : Nat) (x : Block) (j : Nat) : (s.setBlock k x).die j = s.die j := rfl
@[simp] theorem State.setBlock_launch (s : State) (k : Nat) (x : Block) (j : Nat) : (s.setBlock k x).launch j = s.launch j := rfl
@[simp] theorem State.setBlock_queue (s : State) (k : Nat) (x : Block) (j : Nat) : (s.setBlock k x).queue j = s.queue j := rfl
@[simp] theorem State.setBlock_context (s : State) (k : Nat) (x : Block) (j : Nat) : (s.setBlock k x).context j = s.context j := rfl
@[simp] theorem State.setBlock_part (s : State) (k : Nat) (x : Block) (j : Nat) : (s.setBlock k x).part j = s.part j := rfl
@[simp] theorem State.setBlock_link (s : State) (k : Nat) (x : Block) (j : Nat) : (s.setBlock k x).link j = s.link j := rfl
@[simp] theorem State.block_setBlock_self (s : State) (k : Nat) (x : Block) : (s.setBlock k x).block k = x := Tab.get_put_self _ _ _ _
theorem State.block_setBlock_ne (s : State) (k : Nat) (x : Block) {j : Nat} (h : j ≠ k) : (s.setBlock k x).block j = s.block j :=
  Tab.get_put_ne _ _ _ h
theorem State.block_setBlock (s : State) (k : Nat) (x : Block) (j : Nat) : (s.setBlock k x).block j = if j = k then x else s.block j :=
  Tab.get_put _ _ _ _ _

/-! ## State.setCore -/

@[simp] theorem State.setCore_agenda (s : State) (k : Nat) (x : Core) : (s.setCore k x).agenda = s.agenda := rfl
@[simp] theorem State.setCore_turns (s : State) (k : Nat) (x : Core) : (s.setCore k x).turns = s.turns := rfl
@[simp] theorem State.setCore_cur (s : State) (k : Nat) (x : Core) : (s.setCore k x).cur = s.cur := rfl
@[simp] theorem State.setCore_fresh (s : State) (k : Nat) (x : Core) : (s.setCore k x).fresh = s.fresh := rfl
@[simp] theorem State.setCore_warps (s : State) (k : Nat) (x : Core) : (s.setCore k x).warps = s.warps := rfl
@[simp] theorem State.setCore_blocks (s : State) (k : Nat) (x : Core) : (s.setCore k x).blocks = s.blocks := rfl
@[simp] theorem State.setCore_clusters (s : State) (k : Nat) (x : Core) : (s.setCore k x).clusters = s.clusters := rfl
@[simp] theorem State.setCore_stackMem (s : State) (k : Nat) (x : Core) : (s.setCore k x).stackMem = s.stackMem := rfl
@[simp] theorem State.setCore_dies (s : State) (k : Nat) (x : Core) : (s.setCore k x).dies = s.dies := rfl
@[simp] theorem State.setCore_mem (s : State) (k : Nat) (x : Core) : (s.setCore k x).mem = s.mem := rfl
@[simp] theorem State.setCore_poison (s : State) (k : Nat) (x : Core) : (s.setCore k x).poison = s.poison := rfl
@[simp] theorem State.setCore_zeroLines (s : State) (k : Nat) (x : Core) : (s.setCore k x).zeroLines = s.zeroLines := rfl
@[simp] theorem State.setCore_l2 (s : State) (k : Nat) (x : Core) : (s.setCore k x).l2 = s.l2 := rfl
@[simp] theorem State.setCore_records (s : State) (k : Nat) (x : Core) : (s.setCore k x).records = s.records := rfl
@[simp] theorem State.setCore_recordOrder (s : State) (k : Nat) (x : Core) : (s.setCore k x).recordOrder = s.recordOrder := rfl
@[simp] theorem State.setCore_holders (s : State) (k : Nat) (x : Core) : (s.setCore k x).holders = s.holders := rfl
@[simp] theorem State.setCore_windows (s : State) (k : Nat) (x : Core) : (s.setCore k x).windows = s.windows := rfl
@[simp] theorem State.setCore_flights (s : State) (k : Nat) (x : Core) : (s.setCore k x).flights = s.flights := rfl
@[simp] theorem State.setCore_launches (s : State) (k : Nat) (x : Core) : (s.setCore k x).launches = s.launches := rfl
@[simp] theorem State.setCore_launchCount (s : State) (k : Nat) (x : Core) : (s.setCore k x).launchCount = s.launchCount := rfl
@[simp] theorem State.setCore_saveCount (s : State) (k : Nat) (x : Core) : (s.setCore k x).saveCount = s.saveCount := rfl
@[simp] theorem State.setCore_queues (s : State) (k : Nat) (x : Core) : (s.setCore k x).queues = s.queues := rfl
@[simp] theorem State.setCore_contexts (s : State) (k : Nat) (x : Core) : (s.setCore k x).contexts = s.contexts := rfl
@[simp] theorem State.setCore_parts (s : State) (k : Nat) (x : Core) : (s.setCore k x).parts = s.parts := rfl
@[simp] theorem State.setCore_layout (s : State) (k : Nat) (x : Core) : (s.setCore k x).layout = s.layout := rfl
@[simp] theorem State.setCore_mailbox (s : State) (k : Nat) (x : Core) : (s.setCore k x).mailbox = s.mailbox := rfl
@[simp] theorem State.setCore_staged (s : State) (k : Nat) (x : Core) : (s.setCore k x).staged = s.staged := rfl
@[simp] theorem State.setCore_device (s : State) (k : Nat) (x : Core) : (s.setCore k x).device = s.device := rfl
@[simp] theorem State.setCore_booted (s : State) (k : Nat) (x : Core) : (s.setCore k x).booted = s.booted := rfl
@[simp] theorem State.setCore_bootResult (s : State) (k : Nat) (x : Core) : (s.setCore k x).bootResult = s.bootResult := rfl
@[simp] theorem State.setCore_images (s : State) (k : Nat) (x : Core) : (s.setCore k x).images = s.images := rfl
@[simp] theorem State.setCore_corrected (s : State) (k : Nat) (x : Core) : (s.setCore k x).corrected = s.corrected := rfl
@[simp] theorem State.setCore_adverts (s : State) (k : Nat) (x : Core) : (s.setCore k x).adverts = s.adverts := rfl
@[simp] theorem State.setCore_crossings (s : State) (k : Nat) (x : Core) : (s.setCore k x).crossings = s.crossings := rfl
@[simp] theorem State.setCore_generation (s : State) (k : Nat) (x : Core) : (s.setCore k x).generation = s.generation := rfl
@[simp] theorem State.setCore_capTable (s : State) (k : Nat) (x : Core) : (s.setCore k x).capTable = s.capTable := rfl
@[simp] theorem State.setCore_micros (s : State) (k : Nat) (x : Core) : (s.setCore k x).micros = s.micros := rfl
@[simp] theorem State.setCore_suppressed (s : State) (k : Nat) (x : Core) : (s.setCore k x).suppressed = s.suppressed := rfl
@[simp] theorem State.setCore_ecc (s : State) (k : Nat) (x : Core) : (s.setCore k x).ecc = s.ecc := rfl
@[simp] theorem State.setCore_xfer (s : State) (k : Nat) (x : Core) : (s.setCore k x).xfer = s.xfer := rfl
@[simp] theorem State.setCore_powerLimits (s : State) (k : Nat) (x : Core) : (s.setCore k x).powerLimits = s.powerLimits := rfl
@[simp] theorem State.setCore_spares (s : State) (k : Nat) (x : Core) : (s.setCore k x).spares = s.spares := rfl
@[simp] theorem State.setCore_attempts (s : State) (k : Nat) (x : Core) : (s.setCore k x).attempts = s.attempts := rfl
@[simp] theorem State.setCore_cells (s : State) (k : Nat) (x : Core) : (s.setCore k x).cells = s.cells := rfl
@[simp] theorem State.setCore_links (s : State) (k : Nat) (x : Core) : (s.setCore k x).links = s.links := rfl
@[simp] theorem State.setCore_routes (s : State) (k : Nat) (x : Core) : (s.setCore k x).routes = s.routes := rfl
@[simp] theorem State.setCore_peers (s : State) (k : Nat) (x : Core) : (s.setCore k x).peers = s.peers := rfl
@[simp] theorem State.setCore_msix (s : State) (k : Nat) (x : Core) : (s.setCore k x).msix = s.msix := rfl
@[simp] theorem State.setCore_issued (s : State) (k : Nat) (x : Core) : (s.setCore k x).issued = s.issued := rfl
@[simp] theorem State.setCore_warp (s : State) (k : Nat) (x : Core) (j : Nat) : (s.setCore k x).warp j = s.warp j := rfl
@[simp] theorem State.setCore_block (s : State) (k : Nat) (x : Core) (j : Nat) : (s.setCore k x).block j = s.block j := rfl
@[simp] theorem State.setCore_cluster (s : State) (k : Nat) (x : Core) (j : Nat) : (s.setCore k x).cluster j = s.cluster j := rfl
@[simp] theorem State.setCore_stack (s : State) (k : Nat) (x : Core) (j : Nat) : (s.setCore k x).stack j = s.stack j := rfl
@[simp] theorem State.setCore_die (s : State) (k : Nat) (x : Core) (j : Nat) : (s.setCore k x).die j = s.die j := rfl
@[simp] theorem State.setCore_launch (s : State) (k : Nat) (x : Core) (j : Nat) : (s.setCore k x).launch j = s.launch j := rfl
@[simp] theorem State.setCore_queue (s : State) (k : Nat) (x : Core) (j : Nat) : (s.setCore k x).queue j = s.queue j := rfl
@[simp] theorem State.setCore_context (s : State) (k : Nat) (x : Core) (j : Nat) : (s.setCore k x).context j = s.context j := rfl
@[simp] theorem State.setCore_part (s : State) (k : Nat) (x : Core) (j : Nat) : (s.setCore k x).part j = s.part j := rfl
@[simp] theorem State.setCore_link (s : State) (k : Nat) (x : Core) (j : Nat) : (s.setCore k x).link j = s.link j := rfl
@[simp] theorem State.core_setCore_self (s : State) (k : Nat) (x : Core) : (s.setCore k x).core k = x := Tab.get_put_self _ _ _ _
theorem State.core_setCore_ne (s : State) (k : Nat) (x : Core) {j : Nat} (h : j ≠ k) : (s.setCore k x).core j = s.core j :=
  Tab.get_put_ne _ _ _ h
theorem State.core_setCore (s : State) (k : Nat) (x : Core) (j : Nat) : (s.setCore k x).core j = if j = k then x else s.core j :=
  Tab.get_put _ _ _ _ _

/-! ## State.setCluster -/

@[simp] theorem State.setCluster_agenda (s : State) (k : Nat) (x : Cluster) : (s.setCluster k x).agenda = s.agenda := rfl
@[simp] theorem State.setCluster_turns (s : State) (k : Nat) (x : Cluster) : (s.setCluster k x).turns = s.turns := rfl
@[simp] theorem State.setCluster_cur (s : State) (k : Nat) (x : Cluster) : (s.setCluster k x).cur = s.cur := rfl
@[simp] theorem State.setCluster_fresh (s : State) (k : Nat) (x : Cluster) : (s.setCluster k x).fresh = s.fresh := rfl
@[simp] theorem State.setCluster_warps (s : State) (k : Nat) (x : Cluster) : (s.setCluster k x).warps = s.warps := rfl
@[simp] theorem State.setCluster_blocks (s : State) (k : Nat) (x : Cluster) : (s.setCluster k x).blocks = s.blocks := rfl
@[simp] theorem State.setCluster_cores (s : State) (k : Nat) (x : Cluster) : (s.setCluster k x).cores = s.cores := rfl
@[simp] theorem State.setCluster_stackMem (s : State) (k : Nat) (x : Cluster) : (s.setCluster k x).stackMem = s.stackMem := rfl
@[simp] theorem State.setCluster_dies (s : State) (k : Nat) (x : Cluster) : (s.setCluster k x).dies = s.dies := rfl
@[simp] theorem State.setCluster_mem (s : State) (k : Nat) (x : Cluster) : (s.setCluster k x).mem = s.mem := rfl
@[simp] theorem State.setCluster_poison (s : State) (k : Nat) (x : Cluster) : (s.setCluster k x).poison = s.poison := rfl
@[simp] theorem State.setCluster_zeroLines (s : State) (k : Nat) (x : Cluster) : (s.setCluster k x).zeroLines = s.zeroLines := rfl
@[simp] theorem State.setCluster_l2 (s : State) (k : Nat) (x : Cluster) : (s.setCluster k x).l2 = s.l2 := rfl
@[simp] theorem State.setCluster_records (s : State) (k : Nat) (x : Cluster) : (s.setCluster k x).records = s.records := rfl
@[simp] theorem State.setCluster_recordOrder (s : State) (k : Nat) (x : Cluster) : (s.setCluster k x).recordOrder = s.recordOrder := rfl
@[simp] theorem State.setCluster_holders (s : State) (k : Nat) (x : Cluster) : (s.setCluster k x).holders = s.holders := rfl
@[simp] theorem State.setCluster_windows (s : State) (k : Nat) (x : Cluster) : (s.setCluster k x).windows = s.windows := rfl
@[simp] theorem State.setCluster_flights (s : State) (k : Nat) (x : Cluster) : (s.setCluster k x).flights = s.flights := rfl
@[simp] theorem State.setCluster_launches (s : State) (k : Nat) (x : Cluster) : (s.setCluster k x).launches = s.launches := rfl
@[simp] theorem State.setCluster_launchCount (s : State) (k : Nat) (x : Cluster) : (s.setCluster k x).launchCount = s.launchCount := rfl
@[simp] theorem State.setCluster_saveCount (s : State) (k : Nat) (x : Cluster) : (s.setCluster k x).saveCount = s.saveCount := rfl
@[simp] theorem State.setCluster_queues (s : State) (k : Nat) (x : Cluster) : (s.setCluster k x).queues = s.queues := rfl
@[simp] theorem State.setCluster_contexts (s : State) (k : Nat) (x : Cluster) : (s.setCluster k x).contexts = s.contexts := rfl
@[simp] theorem State.setCluster_parts (s : State) (k : Nat) (x : Cluster) : (s.setCluster k x).parts = s.parts := rfl
@[simp] theorem State.setCluster_layout (s : State) (k : Nat) (x : Cluster) : (s.setCluster k x).layout = s.layout := rfl
@[simp] theorem State.setCluster_mailbox (s : State) (k : Nat) (x : Cluster) : (s.setCluster k x).mailbox = s.mailbox := rfl
@[simp] theorem State.setCluster_staged (s : State) (k : Nat) (x : Cluster) : (s.setCluster k x).staged = s.staged := rfl
@[simp] theorem State.setCluster_device (s : State) (k : Nat) (x : Cluster) : (s.setCluster k x).device = s.device := rfl
@[simp] theorem State.setCluster_booted (s : State) (k : Nat) (x : Cluster) : (s.setCluster k x).booted = s.booted := rfl
@[simp] theorem State.setCluster_bootResult (s : State) (k : Nat) (x : Cluster) : (s.setCluster k x).bootResult = s.bootResult := rfl
@[simp] theorem State.setCluster_images (s : State) (k : Nat) (x : Cluster) : (s.setCluster k x).images = s.images := rfl
@[simp] theorem State.setCluster_corrected (s : State) (k : Nat) (x : Cluster) : (s.setCluster k x).corrected = s.corrected := rfl
@[simp] theorem State.setCluster_adverts (s : State) (k : Nat) (x : Cluster) : (s.setCluster k x).adverts = s.adverts := rfl
@[simp] theorem State.setCluster_crossings (s : State) (k : Nat) (x : Cluster) : (s.setCluster k x).crossings = s.crossings := rfl
@[simp] theorem State.setCluster_generation (s : State) (k : Nat) (x : Cluster) : (s.setCluster k x).generation = s.generation := rfl
@[simp] theorem State.setCluster_capTable (s : State) (k : Nat) (x : Cluster) : (s.setCluster k x).capTable = s.capTable := rfl
@[simp] theorem State.setCluster_micros (s : State) (k : Nat) (x : Cluster) : (s.setCluster k x).micros = s.micros := rfl
@[simp] theorem State.setCluster_suppressed (s : State) (k : Nat) (x : Cluster) : (s.setCluster k x).suppressed = s.suppressed := rfl
@[simp] theorem State.setCluster_ecc (s : State) (k : Nat) (x : Cluster) : (s.setCluster k x).ecc = s.ecc := rfl
@[simp] theorem State.setCluster_xfer (s : State) (k : Nat) (x : Cluster) : (s.setCluster k x).xfer = s.xfer := rfl
@[simp] theorem State.setCluster_powerLimits (s : State) (k : Nat) (x : Cluster) : (s.setCluster k x).powerLimits = s.powerLimits := rfl
@[simp] theorem State.setCluster_spares (s : State) (k : Nat) (x : Cluster) : (s.setCluster k x).spares = s.spares := rfl
@[simp] theorem State.setCluster_attempts (s : State) (k : Nat) (x : Cluster) : (s.setCluster k x).attempts = s.attempts := rfl
@[simp] theorem State.setCluster_cells (s : State) (k : Nat) (x : Cluster) : (s.setCluster k x).cells = s.cells := rfl
@[simp] theorem State.setCluster_links (s : State) (k : Nat) (x : Cluster) : (s.setCluster k x).links = s.links := rfl
@[simp] theorem State.setCluster_routes (s : State) (k : Nat) (x : Cluster) : (s.setCluster k x).routes = s.routes := rfl
@[simp] theorem State.setCluster_peers (s : State) (k : Nat) (x : Cluster) : (s.setCluster k x).peers = s.peers := rfl
@[simp] theorem State.setCluster_msix (s : State) (k : Nat) (x : Cluster) : (s.setCluster k x).msix = s.msix := rfl
@[simp] theorem State.setCluster_issued (s : State) (k : Nat) (x : Cluster) : (s.setCluster k x).issued = s.issued := rfl
@[simp] theorem State.setCluster_warp (s : State) (k : Nat) (x : Cluster) (j : Nat) : (s.setCluster k x).warp j = s.warp j := rfl
@[simp] theorem State.setCluster_block (s : State) (k : Nat) (x : Cluster) (j : Nat) : (s.setCluster k x).block j = s.block j := rfl
@[simp] theorem State.setCluster_core (s : State) (k : Nat) (x : Cluster) (j : Nat) : (s.setCluster k x).core j = s.core j := rfl
@[simp] theorem State.setCluster_stack (s : State) (k : Nat) (x : Cluster) (j : Nat) : (s.setCluster k x).stack j = s.stack j := rfl
@[simp] theorem State.setCluster_die (s : State) (k : Nat) (x : Cluster) (j : Nat) : (s.setCluster k x).die j = s.die j := rfl
@[simp] theorem State.setCluster_launch (s : State) (k : Nat) (x : Cluster) (j : Nat) : (s.setCluster k x).launch j = s.launch j := rfl
@[simp] theorem State.setCluster_queue (s : State) (k : Nat) (x : Cluster) (j : Nat) : (s.setCluster k x).queue j = s.queue j := rfl
@[simp] theorem State.setCluster_context (s : State) (k : Nat) (x : Cluster) (j : Nat) : (s.setCluster k x).context j = s.context j := rfl
@[simp] theorem State.setCluster_part (s : State) (k : Nat) (x : Cluster) (j : Nat) : (s.setCluster k x).part j = s.part j := rfl
@[simp] theorem State.setCluster_link (s : State) (k : Nat) (x : Cluster) (j : Nat) : (s.setCluster k x).link j = s.link j := rfl
@[simp] theorem State.cluster_setCluster_self (s : State) (k : Nat) (x : Cluster) : (s.setCluster k x).cluster k = x := Tab.get_put_self _ _ _ _
theorem State.cluster_setCluster_ne (s : State) (k : Nat) (x : Cluster) {j : Nat} (h : j ≠ k) : (s.setCluster k x).cluster j = s.cluster j :=
  Tab.get_put_ne _ _ _ h
theorem State.cluster_setCluster (s : State) (k : Nat) (x : Cluster) (j : Nat) : (s.setCluster k x).cluster j = if j = k then x else s.cluster j :=
  Tab.get_put _ _ _ _ _

/-! ## State.setStack -/

@[simp] theorem State.setStack_agenda (s : State) (k : Nat) (x : Stack) : (s.setStack k x).agenda = s.agenda := rfl
@[simp] theorem State.setStack_turns (s : State) (k : Nat) (x : Stack) : (s.setStack k x).turns = s.turns := rfl
@[simp] theorem State.setStack_cur (s : State) (k : Nat) (x : Stack) : (s.setStack k x).cur = s.cur := rfl
@[simp] theorem State.setStack_fresh (s : State) (k : Nat) (x : Stack) : (s.setStack k x).fresh = s.fresh := rfl
@[simp] theorem State.setStack_warps (s : State) (k : Nat) (x : Stack) : (s.setStack k x).warps = s.warps := rfl
@[simp] theorem State.setStack_blocks (s : State) (k : Nat) (x : Stack) : (s.setStack k x).blocks = s.blocks := rfl
@[simp] theorem State.setStack_cores (s : State) (k : Nat) (x : Stack) : (s.setStack k x).cores = s.cores := rfl
@[simp] theorem State.setStack_clusters (s : State) (k : Nat) (x : Stack) : (s.setStack k x).clusters = s.clusters := rfl
@[simp] theorem State.setStack_dies (s : State) (k : Nat) (x : Stack) : (s.setStack k x).dies = s.dies := rfl
@[simp] theorem State.setStack_mem (s : State) (k : Nat) (x : Stack) : (s.setStack k x).mem = s.mem := rfl
@[simp] theorem State.setStack_poison (s : State) (k : Nat) (x : Stack) : (s.setStack k x).poison = s.poison := rfl
@[simp] theorem State.setStack_zeroLines (s : State) (k : Nat) (x : Stack) : (s.setStack k x).zeroLines = s.zeroLines := rfl
@[simp] theorem State.setStack_l2 (s : State) (k : Nat) (x : Stack) : (s.setStack k x).l2 = s.l2 := rfl
@[simp] theorem State.setStack_records (s : State) (k : Nat) (x : Stack) : (s.setStack k x).records = s.records := rfl
@[simp] theorem State.setStack_recordOrder (s : State) (k : Nat) (x : Stack) : (s.setStack k x).recordOrder = s.recordOrder := rfl
@[simp] theorem State.setStack_holders (s : State) (k : Nat) (x : Stack) : (s.setStack k x).holders = s.holders := rfl
@[simp] theorem State.setStack_windows (s : State) (k : Nat) (x : Stack) : (s.setStack k x).windows = s.windows := rfl
@[simp] theorem State.setStack_flights (s : State) (k : Nat) (x : Stack) : (s.setStack k x).flights = s.flights := rfl
@[simp] theorem State.setStack_launches (s : State) (k : Nat) (x : Stack) : (s.setStack k x).launches = s.launches := rfl
@[simp] theorem State.setStack_launchCount (s : State) (k : Nat) (x : Stack) : (s.setStack k x).launchCount = s.launchCount := rfl
@[simp] theorem State.setStack_saveCount (s : State) (k : Nat) (x : Stack) : (s.setStack k x).saveCount = s.saveCount := rfl
@[simp] theorem State.setStack_queues (s : State) (k : Nat) (x : Stack) : (s.setStack k x).queues = s.queues := rfl
@[simp] theorem State.setStack_contexts (s : State) (k : Nat) (x : Stack) : (s.setStack k x).contexts = s.contexts := rfl
@[simp] theorem State.setStack_parts (s : State) (k : Nat) (x : Stack) : (s.setStack k x).parts = s.parts := rfl
@[simp] theorem State.setStack_layout (s : State) (k : Nat) (x : Stack) : (s.setStack k x).layout = s.layout := rfl
@[simp] theorem State.setStack_mailbox (s : State) (k : Nat) (x : Stack) : (s.setStack k x).mailbox = s.mailbox := rfl
@[simp] theorem State.setStack_staged (s : State) (k : Nat) (x : Stack) : (s.setStack k x).staged = s.staged := rfl
@[simp] theorem State.setStack_device (s : State) (k : Nat) (x : Stack) : (s.setStack k x).device = s.device := rfl
@[simp] theorem State.setStack_booted (s : State) (k : Nat) (x : Stack) : (s.setStack k x).booted = s.booted := rfl
@[simp] theorem State.setStack_bootResult (s : State) (k : Nat) (x : Stack) : (s.setStack k x).bootResult = s.bootResult := rfl
@[simp] theorem State.setStack_images (s : State) (k : Nat) (x : Stack) : (s.setStack k x).images = s.images := rfl
@[simp] theorem State.setStack_corrected (s : State) (k : Nat) (x : Stack) : (s.setStack k x).corrected = s.corrected := rfl
@[simp] theorem State.setStack_adverts (s : State) (k : Nat) (x : Stack) : (s.setStack k x).adverts = s.adverts := rfl
@[simp] theorem State.setStack_crossings (s : State) (k : Nat) (x : Stack) : (s.setStack k x).crossings = s.crossings := rfl
@[simp] theorem State.setStack_generation (s : State) (k : Nat) (x : Stack) : (s.setStack k x).generation = s.generation := rfl
@[simp] theorem State.setStack_capTable (s : State) (k : Nat) (x : Stack) : (s.setStack k x).capTable = s.capTable := rfl
@[simp] theorem State.setStack_micros (s : State) (k : Nat) (x : Stack) : (s.setStack k x).micros = s.micros := rfl
@[simp] theorem State.setStack_suppressed (s : State) (k : Nat) (x : Stack) : (s.setStack k x).suppressed = s.suppressed := rfl
@[simp] theorem State.setStack_ecc (s : State) (k : Nat) (x : Stack) : (s.setStack k x).ecc = s.ecc := rfl
@[simp] theorem State.setStack_xfer (s : State) (k : Nat) (x : Stack) : (s.setStack k x).xfer = s.xfer := rfl
@[simp] theorem State.setStack_powerLimits (s : State) (k : Nat) (x : Stack) : (s.setStack k x).powerLimits = s.powerLimits := rfl
@[simp] theorem State.setStack_spares (s : State) (k : Nat) (x : Stack) : (s.setStack k x).spares = s.spares := rfl
@[simp] theorem State.setStack_attempts (s : State) (k : Nat) (x : Stack) : (s.setStack k x).attempts = s.attempts := rfl
@[simp] theorem State.setStack_cells (s : State) (k : Nat) (x : Stack) : (s.setStack k x).cells = s.cells := rfl
@[simp] theorem State.setStack_links (s : State) (k : Nat) (x : Stack) : (s.setStack k x).links = s.links := rfl
@[simp] theorem State.setStack_routes (s : State) (k : Nat) (x : Stack) : (s.setStack k x).routes = s.routes := rfl
@[simp] theorem State.setStack_peers (s : State) (k : Nat) (x : Stack) : (s.setStack k x).peers = s.peers := rfl
@[simp] theorem State.setStack_msix (s : State) (k : Nat) (x : Stack) : (s.setStack k x).msix = s.msix := rfl
@[simp] theorem State.setStack_issued (s : State) (k : Nat) (x : Stack) : (s.setStack k x).issued = s.issued := rfl
@[simp] theorem State.setStack_warp (s : State) (k : Nat) (x : Stack) (j : Nat) : (s.setStack k x).warp j = s.warp j := rfl
@[simp] theorem State.setStack_block (s : State) (k : Nat) (x : Stack) (j : Nat) : (s.setStack k x).block j = s.block j := rfl
@[simp] theorem State.setStack_core (s : State) (k : Nat) (x : Stack) (j : Nat) : (s.setStack k x).core j = s.core j := rfl
@[simp] theorem State.setStack_cluster (s : State) (k : Nat) (x : Stack) (j : Nat) : (s.setStack k x).cluster j = s.cluster j := rfl
@[simp] theorem State.setStack_die (s : State) (k : Nat) (x : Stack) (j : Nat) : (s.setStack k x).die j = s.die j := rfl
@[simp] theorem State.setStack_launch (s : State) (k : Nat) (x : Stack) (j : Nat) : (s.setStack k x).launch j = s.launch j := rfl
@[simp] theorem State.setStack_queue (s : State) (k : Nat) (x : Stack) (j : Nat) : (s.setStack k x).queue j = s.queue j := rfl
@[simp] theorem State.setStack_context (s : State) (k : Nat) (x : Stack) (j : Nat) : (s.setStack k x).context j = s.context j := rfl
@[simp] theorem State.setStack_part (s : State) (k : Nat) (x : Stack) (j : Nat) : (s.setStack k x).part j = s.part j := rfl
@[simp] theorem State.setStack_link (s : State) (k : Nat) (x : Stack) (j : Nat) : (s.setStack k x).link j = s.link j := rfl
@[simp] theorem State.stack_setStack_self (s : State) (k : Nat) (x : Stack) : (s.setStack k x).stack k = x := Tab.get_put_self _ _ _ _
theorem State.stack_setStack_ne (s : State) (k : Nat) (x : Stack) {j : Nat} (h : j ≠ k) : (s.setStack k x).stack j = s.stack j :=
  Tab.get_put_ne _ _ _ h
theorem State.stack_setStack (s : State) (k : Nat) (x : Stack) (j : Nat) : (s.setStack k x).stack j = if j = k then x else s.stack j :=
  Tab.get_put _ _ _ _ _

/-! ## State.setDie -/

@[simp] theorem State.setDie_agenda (s : State) (k : Nat) (x : Die) : (s.setDie k x).agenda = s.agenda := rfl
@[simp] theorem State.setDie_turns (s : State) (k : Nat) (x : Die) : (s.setDie k x).turns = s.turns := rfl
@[simp] theorem State.setDie_cur (s : State) (k : Nat) (x : Die) : (s.setDie k x).cur = s.cur := rfl
@[simp] theorem State.setDie_fresh (s : State) (k : Nat) (x : Die) : (s.setDie k x).fresh = s.fresh := rfl
@[simp] theorem State.setDie_warps (s : State) (k : Nat) (x : Die) : (s.setDie k x).warps = s.warps := rfl
@[simp] theorem State.setDie_blocks (s : State) (k : Nat) (x : Die) : (s.setDie k x).blocks = s.blocks := rfl
@[simp] theorem State.setDie_cores (s : State) (k : Nat) (x : Die) : (s.setDie k x).cores = s.cores := rfl
@[simp] theorem State.setDie_clusters (s : State) (k : Nat) (x : Die) : (s.setDie k x).clusters = s.clusters := rfl
@[simp] theorem State.setDie_stackMem (s : State) (k : Nat) (x : Die) : (s.setDie k x).stackMem = s.stackMem := rfl
@[simp] theorem State.setDie_mem (s : State) (k : Nat) (x : Die) : (s.setDie k x).mem = s.mem := rfl
@[simp] theorem State.setDie_poison (s : State) (k : Nat) (x : Die) : (s.setDie k x).poison = s.poison := rfl
@[simp] theorem State.setDie_zeroLines (s : State) (k : Nat) (x : Die) : (s.setDie k x).zeroLines = s.zeroLines := rfl
@[simp] theorem State.setDie_l2 (s : State) (k : Nat) (x : Die) : (s.setDie k x).l2 = s.l2 := rfl
@[simp] theorem State.setDie_records (s : State) (k : Nat) (x : Die) : (s.setDie k x).records = s.records := rfl
@[simp] theorem State.setDie_recordOrder (s : State) (k : Nat) (x : Die) : (s.setDie k x).recordOrder = s.recordOrder := rfl
@[simp] theorem State.setDie_holders (s : State) (k : Nat) (x : Die) : (s.setDie k x).holders = s.holders := rfl
@[simp] theorem State.setDie_windows (s : State) (k : Nat) (x : Die) : (s.setDie k x).windows = s.windows := rfl
@[simp] theorem State.setDie_flights (s : State) (k : Nat) (x : Die) : (s.setDie k x).flights = s.flights := rfl
@[simp] theorem State.setDie_launches (s : State) (k : Nat) (x : Die) : (s.setDie k x).launches = s.launches := rfl
@[simp] theorem State.setDie_launchCount (s : State) (k : Nat) (x : Die) : (s.setDie k x).launchCount = s.launchCount := rfl
@[simp] theorem State.setDie_saveCount (s : State) (k : Nat) (x : Die) : (s.setDie k x).saveCount = s.saveCount := rfl
@[simp] theorem State.setDie_queues (s : State) (k : Nat) (x : Die) : (s.setDie k x).queues = s.queues := rfl
@[simp] theorem State.setDie_contexts (s : State) (k : Nat) (x : Die) : (s.setDie k x).contexts = s.contexts := rfl
@[simp] theorem State.setDie_parts (s : State) (k : Nat) (x : Die) : (s.setDie k x).parts = s.parts := rfl
@[simp] theorem State.setDie_layout (s : State) (k : Nat) (x : Die) : (s.setDie k x).layout = s.layout := rfl
@[simp] theorem State.setDie_mailbox (s : State) (k : Nat) (x : Die) : (s.setDie k x).mailbox = s.mailbox := rfl
@[simp] theorem State.setDie_staged (s : State) (k : Nat) (x : Die) : (s.setDie k x).staged = s.staged := rfl
@[simp] theorem State.setDie_device (s : State) (k : Nat) (x : Die) : (s.setDie k x).device = s.device := rfl
@[simp] theorem State.setDie_booted (s : State) (k : Nat) (x : Die) : (s.setDie k x).booted = s.booted := rfl
@[simp] theorem State.setDie_bootResult (s : State) (k : Nat) (x : Die) : (s.setDie k x).bootResult = s.bootResult := rfl
@[simp] theorem State.setDie_images (s : State) (k : Nat) (x : Die) : (s.setDie k x).images = s.images := rfl
@[simp] theorem State.setDie_corrected (s : State) (k : Nat) (x : Die) : (s.setDie k x).corrected = s.corrected := rfl
@[simp] theorem State.setDie_adverts (s : State) (k : Nat) (x : Die) : (s.setDie k x).adverts = s.adverts := rfl
@[simp] theorem State.setDie_crossings (s : State) (k : Nat) (x : Die) : (s.setDie k x).crossings = s.crossings := rfl
@[simp] theorem State.setDie_generation (s : State) (k : Nat) (x : Die) : (s.setDie k x).generation = s.generation := rfl
@[simp] theorem State.setDie_capTable (s : State) (k : Nat) (x : Die) : (s.setDie k x).capTable = s.capTable := rfl
@[simp] theorem State.setDie_micros (s : State) (k : Nat) (x : Die) : (s.setDie k x).micros = s.micros := rfl
@[simp] theorem State.setDie_suppressed (s : State) (k : Nat) (x : Die) : (s.setDie k x).suppressed = s.suppressed := rfl
@[simp] theorem State.setDie_ecc (s : State) (k : Nat) (x : Die) : (s.setDie k x).ecc = s.ecc := rfl
@[simp] theorem State.setDie_xfer (s : State) (k : Nat) (x : Die) : (s.setDie k x).xfer = s.xfer := rfl
@[simp] theorem State.setDie_powerLimits (s : State) (k : Nat) (x : Die) : (s.setDie k x).powerLimits = s.powerLimits := rfl
@[simp] theorem State.setDie_spares (s : State) (k : Nat) (x : Die) : (s.setDie k x).spares = s.spares := rfl
@[simp] theorem State.setDie_attempts (s : State) (k : Nat) (x : Die) : (s.setDie k x).attempts = s.attempts := rfl
@[simp] theorem State.setDie_cells (s : State) (k : Nat) (x : Die) : (s.setDie k x).cells = s.cells := rfl
@[simp] theorem State.setDie_links (s : State) (k : Nat) (x : Die) : (s.setDie k x).links = s.links := rfl
@[simp] theorem State.setDie_routes (s : State) (k : Nat) (x : Die) : (s.setDie k x).routes = s.routes := rfl
@[simp] theorem State.setDie_peers (s : State) (k : Nat) (x : Die) : (s.setDie k x).peers = s.peers := rfl
@[simp] theorem State.setDie_msix (s : State) (k : Nat) (x : Die) : (s.setDie k x).msix = s.msix := rfl
@[simp] theorem State.setDie_issued (s : State) (k : Nat) (x : Die) : (s.setDie k x).issued = s.issued := rfl
@[simp] theorem State.setDie_warp (s : State) (k : Nat) (x : Die) (j : Nat) : (s.setDie k x).warp j = s.warp j := rfl
@[simp] theorem State.setDie_block (s : State) (k : Nat) (x : Die) (j : Nat) : (s.setDie k x).block j = s.block j := rfl
@[simp] theorem State.setDie_core (s : State) (k : Nat) (x : Die) (j : Nat) : (s.setDie k x).core j = s.core j := rfl
@[simp] theorem State.setDie_cluster (s : State) (k : Nat) (x : Die) (j : Nat) : (s.setDie k x).cluster j = s.cluster j := rfl
@[simp] theorem State.setDie_stack (s : State) (k : Nat) (x : Die) (j : Nat) : (s.setDie k x).stack j = s.stack j := rfl
@[simp] theorem State.setDie_launch (s : State) (k : Nat) (x : Die) (j : Nat) : (s.setDie k x).launch j = s.launch j := rfl
@[simp] theorem State.setDie_queue (s : State) (k : Nat) (x : Die) (j : Nat) : (s.setDie k x).queue j = s.queue j := rfl
@[simp] theorem State.setDie_context (s : State) (k : Nat) (x : Die) (j : Nat) : (s.setDie k x).context j = s.context j := rfl
@[simp] theorem State.setDie_part (s : State) (k : Nat) (x : Die) (j : Nat) : (s.setDie k x).part j = s.part j := rfl
@[simp] theorem State.setDie_link (s : State) (k : Nat) (x : Die) (j : Nat) : (s.setDie k x).link j = s.link j := rfl
@[simp] theorem State.die_setDie_self (s : State) (k : Nat) (x : Die) : (s.setDie k x).die k = x := Tab.get_put_self _ _ _ _
theorem State.die_setDie_ne (s : State) (k : Nat) (x : Die) {j : Nat} (h : j ≠ k) : (s.setDie k x).die j = s.die j :=
  Tab.get_put_ne _ _ _ h
theorem State.die_setDie (s : State) (k : Nat) (x : Die) (j : Nat) : (s.setDie k x).die j = if j = k then x else s.die j :=
  Tab.get_put _ _ _ _ _

/-! ## State.setLaunch -/

@[simp] theorem State.setLaunch_agenda (s : State) (k : Nat) (x : Launch) : (s.setLaunch k x).agenda = s.agenda := rfl
@[simp] theorem State.setLaunch_turns (s : State) (k : Nat) (x : Launch) : (s.setLaunch k x).turns = s.turns := rfl
@[simp] theorem State.setLaunch_cur (s : State) (k : Nat) (x : Launch) : (s.setLaunch k x).cur = s.cur := rfl
@[simp] theorem State.setLaunch_fresh (s : State) (k : Nat) (x : Launch) : (s.setLaunch k x).fresh = s.fresh := rfl
@[simp] theorem State.setLaunch_warps (s : State) (k : Nat) (x : Launch) : (s.setLaunch k x).warps = s.warps := rfl
@[simp] theorem State.setLaunch_blocks (s : State) (k : Nat) (x : Launch) : (s.setLaunch k x).blocks = s.blocks := rfl
@[simp] theorem State.setLaunch_cores (s : State) (k : Nat) (x : Launch) : (s.setLaunch k x).cores = s.cores := rfl
@[simp] theorem State.setLaunch_clusters (s : State) (k : Nat) (x : Launch) : (s.setLaunch k x).clusters = s.clusters := rfl
@[simp] theorem State.setLaunch_stackMem (s : State) (k : Nat) (x : Launch) : (s.setLaunch k x).stackMem = s.stackMem := rfl
@[simp] theorem State.setLaunch_dies (s : State) (k : Nat) (x : Launch) : (s.setLaunch k x).dies = s.dies := rfl
@[simp] theorem State.setLaunch_mem (s : State) (k : Nat) (x : Launch) : (s.setLaunch k x).mem = s.mem := rfl
@[simp] theorem State.setLaunch_poison (s : State) (k : Nat) (x : Launch) : (s.setLaunch k x).poison = s.poison := rfl
@[simp] theorem State.setLaunch_zeroLines (s : State) (k : Nat) (x : Launch) : (s.setLaunch k x).zeroLines = s.zeroLines := rfl
@[simp] theorem State.setLaunch_l2 (s : State) (k : Nat) (x : Launch) : (s.setLaunch k x).l2 = s.l2 := rfl
@[simp] theorem State.setLaunch_records (s : State) (k : Nat) (x : Launch) : (s.setLaunch k x).records = s.records := rfl
@[simp] theorem State.setLaunch_recordOrder (s : State) (k : Nat) (x : Launch) : (s.setLaunch k x).recordOrder = s.recordOrder := rfl
@[simp] theorem State.setLaunch_holders (s : State) (k : Nat) (x : Launch) : (s.setLaunch k x).holders = s.holders := rfl
@[simp] theorem State.setLaunch_windows (s : State) (k : Nat) (x : Launch) : (s.setLaunch k x).windows = s.windows := rfl
@[simp] theorem State.setLaunch_flights (s : State) (k : Nat) (x : Launch) : (s.setLaunch k x).flights = s.flights := rfl
@[simp] theorem State.setLaunch_launchCount (s : State) (k : Nat) (x : Launch) : (s.setLaunch k x).launchCount = s.launchCount := rfl
@[simp] theorem State.setLaunch_saveCount (s : State) (k : Nat) (x : Launch) : (s.setLaunch k x).saveCount = s.saveCount := rfl
@[simp] theorem State.setLaunch_queues (s : State) (k : Nat) (x : Launch) : (s.setLaunch k x).queues = s.queues := rfl
@[simp] theorem State.setLaunch_contexts (s : State) (k : Nat) (x : Launch) : (s.setLaunch k x).contexts = s.contexts := rfl
@[simp] theorem State.setLaunch_parts (s : State) (k : Nat) (x : Launch) : (s.setLaunch k x).parts = s.parts := rfl
@[simp] theorem State.setLaunch_layout (s : State) (k : Nat) (x : Launch) : (s.setLaunch k x).layout = s.layout := rfl
@[simp] theorem State.setLaunch_mailbox (s : State) (k : Nat) (x : Launch) : (s.setLaunch k x).mailbox = s.mailbox := rfl
@[simp] theorem State.setLaunch_staged (s : State) (k : Nat) (x : Launch) : (s.setLaunch k x).staged = s.staged := rfl
@[simp] theorem State.setLaunch_device (s : State) (k : Nat) (x : Launch) : (s.setLaunch k x).device = s.device := rfl
@[simp] theorem State.setLaunch_booted (s : State) (k : Nat) (x : Launch) : (s.setLaunch k x).booted = s.booted := rfl
@[simp] theorem State.setLaunch_bootResult (s : State) (k : Nat) (x : Launch) : (s.setLaunch k x).bootResult = s.bootResult := rfl
@[simp] theorem State.setLaunch_images (s : State) (k : Nat) (x : Launch) : (s.setLaunch k x).images = s.images := rfl
@[simp] theorem State.setLaunch_corrected (s : State) (k : Nat) (x : Launch) : (s.setLaunch k x).corrected = s.corrected := rfl
@[simp] theorem State.setLaunch_adverts (s : State) (k : Nat) (x : Launch) : (s.setLaunch k x).adverts = s.adverts := rfl
@[simp] theorem State.setLaunch_crossings (s : State) (k : Nat) (x : Launch) : (s.setLaunch k x).crossings = s.crossings := rfl
@[simp] theorem State.setLaunch_generation (s : State) (k : Nat) (x : Launch) : (s.setLaunch k x).generation = s.generation := rfl
@[simp] theorem State.setLaunch_capTable (s : State) (k : Nat) (x : Launch) : (s.setLaunch k x).capTable = s.capTable := rfl
@[simp] theorem State.setLaunch_micros (s : State) (k : Nat) (x : Launch) : (s.setLaunch k x).micros = s.micros := rfl
@[simp] theorem State.setLaunch_suppressed (s : State) (k : Nat) (x : Launch) : (s.setLaunch k x).suppressed = s.suppressed := rfl
@[simp] theorem State.setLaunch_ecc (s : State) (k : Nat) (x : Launch) : (s.setLaunch k x).ecc = s.ecc := rfl
@[simp] theorem State.setLaunch_xfer (s : State) (k : Nat) (x : Launch) : (s.setLaunch k x).xfer = s.xfer := rfl
@[simp] theorem State.setLaunch_powerLimits (s : State) (k : Nat) (x : Launch) : (s.setLaunch k x).powerLimits = s.powerLimits := rfl
@[simp] theorem State.setLaunch_spares (s : State) (k : Nat) (x : Launch) : (s.setLaunch k x).spares = s.spares := rfl
@[simp] theorem State.setLaunch_attempts (s : State) (k : Nat) (x : Launch) : (s.setLaunch k x).attempts = s.attempts := rfl
@[simp] theorem State.setLaunch_cells (s : State) (k : Nat) (x : Launch) : (s.setLaunch k x).cells = s.cells := rfl
@[simp] theorem State.setLaunch_links (s : State) (k : Nat) (x : Launch) : (s.setLaunch k x).links = s.links := rfl
@[simp] theorem State.setLaunch_routes (s : State) (k : Nat) (x : Launch) : (s.setLaunch k x).routes = s.routes := rfl
@[simp] theorem State.setLaunch_peers (s : State) (k : Nat) (x : Launch) : (s.setLaunch k x).peers = s.peers := rfl
@[simp] theorem State.setLaunch_msix (s : State) (k : Nat) (x : Launch) : (s.setLaunch k x).msix = s.msix := rfl
@[simp] theorem State.setLaunch_issued (s : State) (k : Nat) (x : Launch) : (s.setLaunch k x).issued = s.issued := rfl
@[simp] theorem State.setLaunch_warp (s : State) (k : Nat) (x : Launch) (j : Nat) : (s.setLaunch k x).warp j = s.warp j := rfl
@[simp] theorem State.setLaunch_block (s : State) (k : Nat) (x : Launch) (j : Nat) : (s.setLaunch k x).block j = s.block j := rfl
@[simp] theorem State.setLaunch_core (s : State) (k : Nat) (x : Launch) (j : Nat) : (s.setLaunch k x).core j = s.core j := rfl
@[simp] theorem State.setLaunch_cluster (s : State) (k : Nat) (x : Launch) (j : Nat) : (s.setLaunch k x).cluster j = s.cluster j := rfl
@[simp] theorem State.setLaunch_stack (s : State) (k : Nat) (x : Launch) (j : Nat) : (s.setLaunch k x).stack j = s.stack j := rfl
@[simp] theorem State.setLaunch_die (s : State) (k : Nat) (x : Launch) (j : Nat) : (s.setLaunch k x).die j = s.die j := rfl
@[simp] theorem State.setLaunch_queue (s : State) (k : Nat) (x : Launch) (j : Nat) : (s.setLaunch k x).queue j = s.queue j := rfl
@[simp] theorem State.setLaunch_context (s : State) (k : Nat) (x : Launch) (j : Nat) : (s.setLaunch k x).context j = s.context j := rfl
@[simp] theorem State.setLaunch_part (s : State) (k : Nat) (x : Launch) (j : Nat) : (s.setLaunch k x).part j = s.part j := rfl
@[simp] theorem State.setLaunch_link (s : State) (k : Nat) (x : Launch) (j : Nat) : (s.setLaunch k x).link j = s.link j := rfl
@[simp] theorem State.launch_setLaunch_self (s : State) (k : Nat) (x : Launch) : (s.setLaunch k x).launch k = x := Tab.get_put_self _ _ _ _
theorem State.launch_setLaunch_ne (s : State) (k : Nat) (x : Launch) {j : Nat} (h : j ≠ k) : (s.setLaunch k x).launch j = s.launch j :=
  Tab.get_put_ne _ _ _ h
theorem State.launch_setLaunch (s : State) (k : Nat) (x : Launch) (j : Nat) : (s.setLaunch k x).launch j = if j = k then x else s.launch j :=
  Tab.get_put _ _ _ _ _

/-! ## State.setQueue -/

@[simp] theorem State.setQueue_agenda (s : State) (k : Nat) (x : Queue) : (s.setQueue k x).agenda = s.agenda := rfl
@[simp] theorem State.setQueue_turns (s : State) (k : Nat) (x : Queue) : (s.setQueue k x).turns = s.turns := rfl
@[simp] theorem State.setQueue_cur (s : State) (k : Nat) (x : Queue) : (s.setQueue k x).cur = s.cur := rfl
@[simp] theorem State.setQueue_fresh (s : State) (k : Nat) (x : Queue) : (s.setQueue k x).fresh = s.fresh := rfl
@[simp] theorem State.setQueue_warps (s : State) (k : Nat) (x : Queue) : (s.setQueue k x).warps = s.warps := rfl
@[simp] theorem State.setQueue_blocks (s : State) (k : Nat) (x : Queue) : (s.setQueue k x).blocks = s.blocks := rfl
@[simp] theorem State.setQueue_cores (s : State) (k : Nat) (x : Queue) : (s.setQueue k x).cores = s.cores := rfl
@[simp] theorem State.setQueue_clusters (s : State) (k : Nat) (x : Queue) : (s.setQueue k x).clusters = s.clusters := rfl
@[simp] theorem State.setQueue_stackMem (s : State) (k : Nat) (x : Queue) : (s.setQueue k x).stackMem = s.stackMem := rfl
@[simp] theorem State.setQueue_dies (s : State) (k : Nat) (x : Queue) : (s.setQueue k x).dies = s.dies := rfl
@[simp] theorem State.setQueue_mem (s : State) (k : Nat) (x : Queue) : (s.setQueue k x).mem = s.mem := rfl
@[simp] theorem State.setQueue_poison (s : State) (k : Nat) (x : Queue) : (s.setQueue k x).poison = s.poison := rfl
@[simp] theorem State.setQueue_zeroLines (s : State) (k : Nat) (x : Queue) : (s.setQueue k x).zeroLines = s.zeroLines := rfl
@[simp] theorem State.setQueue_l2 (s : State) (k : Nat) (x : Queue) : (s.setQueue k x).l2 = s.l2 := rfl
@[simp] theorem State.setQueue_records (s : State) (k : Nat) (x : Queue) : (s.setQueue k x).records = s.records := rfl
@[simp] theorem State.setQueue_recordOrder (s : State) (k : Nat) (x : Queue) : (s.setQueue k x).recordOrder = s.recordOrder := rfl
@[simp] theorem State.setQueue_holders (s : State) (k : Nat) (x : Queue) : (s.setQueue k x).holders = s.holders := rfl
@[simp] theorem State.setQueue_windows (s : State) (k : Nat) (x : Queue) : (s.setQueue k x).windows = s.windows := rfl
@[simp] theorem State.setQueue_flights (s : State) (k : Nat) (x : Queue) : (s.setQueue k x).flights = s.flights := rfl
@[simp] theorem State.setQueue_launches (s : State) (k : Nat) (x : Queue) : (s.setQueue k x).launches = s.launches := rfl
@[simp] theorem State.setQueue_launchCount (s : State) (k : Nat) (x : Queue) : (s.setQueue k x).launchCount = s.launchCount := rfl
@[simp] theorem State.setQueue_saveCount (s : State) (k : Nat) (x : Queue) : (s.setQueue k x).saveCount = s.saveCount := rfl
@[simp] theorem State.setQueue_contexts (s : State) (k : Nat) (x : Queue) : (s.setQueue k x).contexts = s.contexts := rfl
@[simp] theorem State.setQueue_parts (s : State) (k : Nat) (x : Queue) : (s.setQueue k x).parts = s.parts := rfl
@[simp] theorem State.setQueue_layout (s : State) (k : Nat) (x : Queue) : (s.setQueue k x).layout = s.layout := rfl
@[simp] theorem State.setQueue_mailbox (s : State) (k : Nat) (x : Queue) : (s.setQueue k x).mailbox = s.mailbox := rfl
@[simp] theorem State.setQueue_staged (s : State) (k : Nat) (x : Queue) : (s.setQueue k x).staged = s.staged := rfl
@[simp] theorem State.setQueue_device (s : State) (k : Nat) (x : Queue) : (s.setQueue k x).device = s.device := rfl
@[simp] theorem State.setQueue_booted (s : State) (k : Nat) (x : Queue) : (s.setQueue k x).booted = s.booted := rfl
@[simp] theorem State.setQueue_bootResult (s : State) (k : Nat) (x : Queue) : (s.setQueue k x).bootResult = s.bootResult := rfl
@[simp] theorem State.setQueue_images (s : State) (k : Nat) (x : Queue) : (s.setQueue k x).images = s.images := rfl
@[simp] theorem State.setQueue_corrected (s : State) (k : Nat) (x : Queue) : (s.setQueue k x).corrected = s.corrected := rfl
@[simp] theorem State.setQueue_adverts (s : State) (k : Nat) (x : Queue) : (s.setQueue k x).adverts = s.adverts := rfl
@[simp] theorem State.setQueue_crossings (s : State) (k : Nat) (x : Queue) : (s.setQueue k x).crossings = s.crossings := rfl
@[simp] theorem State.setQueue_generation (s : State) (k : Nat) (x : Queue) : (s.setQueue k x).generation = s.generation := rfl
@[simp] theorem State.setQueue_capTable (s : State) (k : Nat) (x : Queue) : (s.setQueue k x).capTable = s.capTable := rfl
@[simp] theorem State.setQueue_micros (s : State) (k : Nat) (x : Queue) : (s.setQueue k x).micros = s.micros := rfl
@[simp] theorem State.setQueue_suppressed (s : State) (k : Nat) (x : Queue) : (s.setQueue k x).suppressed = s.suppressed := rfl
@[simp] theorem State.setQueue_ecc (s : State) (k : Nat) (x : Queue) : (s.setQueue k x).ecc = s.ecc := rfl
@[simp] theorem State.setQueue_xfer (s : State) (k : Nat) (x : Queue) : (s.setQueue k x).xfer = s.xfer := rfl
@[simp] theorem State.setQueue_powerLimits (s : State) (k : Nat) (x : Queue) : (s.setQueue k x).powerLimits = s.powerLimits := rfl
@[simp] theorem State.setQueue_spares (s : State) (k : Nat) (x : Queue) : (s.setQueue k x).spares = s.spares := rfl
@[simp] theorem State.setQueue_attempts (s : State) (k : Nat) (x : Queue) : (s.setQueue k x).attempts = s.attempts := rfl
@[simp] theorem State.setQueue_cells (s : State) (k : Nat) (x : Queue) : (s.setQueue k x).cells = s.cells := rfl
@[simp] theorem State.setQueue_links (s : State) (k : Nat) (x : Queue) : (s.setQueue k x).links = s.links := rfl
@[simp] theorem State.setQueue_routes (s : State) (k : Nat) (x : Queue) : (s.setQueue k x).routes = s.routes := rfl
@[simp] theorem State.setQueue_peers (s : State) (k : Nat) (x : Queue) : (s.setQueue k x).peers = s.peers := rfl
@[simp] theorem State.setQueue_msix (s : State) (k : Nat) (x : Queue) : (s.setQueue k x).msix = s.msix := rfl
@[simp] theorem State.setQueue_issued (s : State) (k : Nat) (x : Queue) : (s.setQueue k x).issued = s.issued := rfl
@[simp] theorem State.setQueue_warp (s : State) (k : Nat) (x : Queue) (j : Nat) : (s.setQueue k x).warp j = s.warp j := rfl
@[simp] theorem State.setQueue_block (s : State) (k : Nat) (x : Queue) (j : Nat) : (s.setQueue k x).block j = s.block j := rfl
@[simp] theorem State.setQueue_core (s : State) (k : Nat) (x : Queue) (j : Nat) : (s.setQueue k x).core j = s.core j := rfl
@[simp] theorem State.setQueue_cluster (s : State) (k : Nat) (x : Queue) (j : Nat) : (s.setQueue k x).cluster j = s.cluster j := rfl
@[simp] theorem State.setQueue_stack (s : State) (k : Nat) (x : Queue) (j : Nat) : (s.setQueue k x).stack j = s.stack j := rfl
@[simp] theorem State.setQueue_die (s : State) (k : Nat) (x : Queue) (j : Nat) : (s.setQueue k x).die j = s.die j := rfl
@[simp] theorem State.setQueue_launch (s : State) (k : Nat) (x : Queue) (j : Nat) : (s.setQueue k x).launch j = s.launch j := rfl
@[simp] theorem State.setQueue_context (s : State) (k : Nat) (x : Queue) (j : Nat) : (s.setQueue k x).context j = s.context j := rfl
@[simp] theorem State.setQueue_part (s : State) (k : Nat) (x : Queue) (j : Nat) : (s.setQueue k x).part j = s.part j := rfl
@[simp] theorem State.setQueue_link (s : State) (k : Nat) (x : Queue) (j : Nat) : (s.setQueue k x).link j = s.link j := rfl
@[simp] theorem State.queue_setQueue_self (s : State) (k : Nat) (x : Queue) : (s.setQueue k x).queue k = x := Tab.get_put_self _ _ _ _
theorem State.queue_setQueue_ne (s : State) (k : Nat) (x : Queue) {j : Nat} (h : j ≠ k) : (s.setQueue k x).queue j = s.queue j :=
  Tab.get_put_ne _ _ _ h
theorem State.queue_setQueue (s : State) (k : Nat) (x : Queue) (j : Nat) : (s.setQueue k x).queue j = if j = k then x else s.queue j :=
  Tab.get_put _ _ _ _ _

/-! ## State.setContext -/

@[simp] theorem State.setContext_agenda (s : State) (k : Nat) (x : Option Context) : (s.setContext k x).agenda = s.agenda := rfl
@[simp] theorem State.setContext_turns (s : State) (k : Nat) (x : Option Context) : (s.setContext k x).turns = s.turns := rfl
@[simp] theorem State.setContext_cur (s : State) (k : Nat) (x : Option Context) : (s.setContext k x).cur = s.cur := rfl
@[simp] theorem State.setContext_fresh (s : State) (k : Nat) (x : Option Context) : (s.setContext k x).fresh = s.fresh := rfl
@[simp] theorem State.setContext_warps (s : State) (k : Nat) (x : Option Context) : (s.setContext k x).warps = s.warps := rfl
@[simp] theorem State.setContext_blocks (s : State) (k : Nat) (x : Option Context) : (s.setContext k x).blocks = s.blocks := rfl
@[simp] theorem State.setContext_cores (s : State) (k : Nat) (x : Option Context) : (s.setContext k x).cores = s.cores := rfl
@[simp] theorem State.setContext_clusters (s : State) (k : Nat) (x : Option Context) : (s.setContext k x).clusters = s.clusters := rfl
@[simp] theorem State.setContext_stackMem (s : State) (k : Nat) (x : Option Context) : (s.setContext k x).stackMem = s.stackMem := rfl
@[simp] theorem State.setContext_dies (s : State) (k : Nat) (x : Option Context) : (s.setContext k x).dies = s.dies := rfl
@[simp] theorem State.setContext_mem (s : State) (k : Nat) (x : Option Context) : (s.setContext k x).mem = s.mem := rfl
@[simp] theorem State.setContext_poison (s : State) (k : Nat) (x : Option Context) : (s.setContext k x).poison = s.poison := rfl
@[simp] theorem State.setContext_zeroLines (s : State) (k : Nat) (x : Option Context) : (s.setContext k x).zeroLines = s.zeroLines := rfl
@[simp] theorem State.setContext_l2 (s : State) (k : Nat) (x : Option Context) : (s.setContext k x).l2 = s.l2 := rfl
@[simp] theorem State.setContext_records (s : State) (k : Nat) (x : Option Context) : (s.setContext k x).records = s.records := rfl
@[simp] theorem State.setContext_recordOrder (s : State) (k : Nat) (x : Option Context) : (s.setContext k x).recordOrder = s.recordOrder := rfl
@[simp] theorem State.setContext_holders (s : State) (k : Nat) (x : Option Context) : (s.setContext k x).holders = s.holders := rfl
@[simp] theorem State.setContext_windows (s : State) (k : Nat) (x : Option Context) : (s.setContext k x).windows = s.windows := rfl
@[simp] theorem State.setContext_flights (s : State) (k : Nat) (x : Option Context) : (s.setContext k x).flights = s.flights := rfl
@[simp] theorem State.setContext_launches (s : State) (k : Nat) (x : Option Context) : (s.setContext k x).launches = s.launches := rfl
@[simp] theorem State.setContext_launchCount (s : State) (k : Nat) (x : Option Context) : (s.setContext k x).launchCount = s.launchCount := rfl
@[simp] theorem State.setContext_saveCount (s : State) (k : Nat) (x : Option Context) : (s.setContext k x).saveCount = s.saveCount := rfl
@[simp] theorem State.setContext_queues (s : State) (k : Nat) (x : Option Context) : (s.setContext k x).queues = s.queues := rfl
@[simp] theorem State.setContext_parts (s : State) (k : Nat) (x : Option Context) : (s.setContext k x).parts = s.parts := rfl
@[simp] theorem State.setContext_layout (s : State) (k : Nat) (x : Option Context) : (s.setContext k x).layout = s.layout := rfl
@[simp] theorem State.setContext_mailbox (s : State) (k : Nat) (x : Option Context) : (s.setContext k x).mailbox = s.mailbox := rfl
@[simp] theorem State.setContext_staged (s : State) (k : Nat) (x : Option Context) : (s.setContext k x).staged = s.staged := rfl
@[simp] theorem State.setContext_device (s : State) (k : Nat) (x : Option Context) : (s.setContext k x).device = s.device := rfl
@[simp] theorem State.setContext_booted (s : State) (k : Nat) (x : Option Context) : (s.setContext k x).booted = s.booted := rfl
@[simp] theorem State.setContext_bootResult (s : State) (k : Nat) (x : Option Context) : (s.setContext k x).bootResult = s.bootResult := rfl
@[simp] theorem State.setContext_images (s : State) (k : Nat) (x : Option Context) : (s.setContext k x).images = s.images := rfl
@[simp] theorem State.setContext_corrected (s : State) (k : Nat) (x : Option Context) : (s.setContext k x).corrected = s.corrected := rfl
@[simp] theorem State.setContext_adverts (s : State) (k : Nat) (x : Option Context) : (s.setContext k x).adverts = s.adverts := rfl
@[simp] theorem State.setContext_crossings (s : State) (k : Nat) (x : Option Context) : (s.setContext k x).crossings = s.crossings := rfl
@[simp] theorem State.setContext_generation (s : State) (k : Nat) (x : Option Context) : (s.setContext k x).generation = s.generation := rfl
@[simp] theorem State.setContext_capTable (s : State) (k : Nat) (x : Option Context) : (s.setContext k x).capTable = s.capTable := rfl
@[simp] theorem State.setContext_micros (s : State) (k : Nat) (x : Option Context) : (s.setContext k x).micros = s.micros := rfl
@[simp] theorem State.setContext_suppressed (s : State) (k : Nat) (x : Option Context) : (s.setContext k x).suppressed = s.suppressed := rfl
@[simp] theorem State.setContext_ecc (s : State) (k : Nat) (x : Option Context) : (s.setContext k x).ecc = s.ecc := rfl
@[simp] theorem State.setContext_xfer (s : State) (k : Nat) (x : Option Context) : (s.setContext k x).xfer = s.xfer := rfl
@[simp] theorem State.setContext_powerLimits (s : State) (k : Nat) (x : Option Context) : (s.setContext k x).powerLimits = s.powerLimits := rfl
@[simp] theorem State.setContext_spares (s : State) (k : Nat) (x : Option Context) : (s.setContext k x).spares = s.spares := rfl
@[simp] theorem State.setContext_attempts (s : State) (k : Nat) (x : Option Context) : (s.setContext k x).attempts = s.attempts := rfl
@[simp] theorem State.setContext_cells (s : State) (k : Nat) (x : Option Context) : (s.setContext k x).cells = s.cells := rfl
@[simp] theorem State.setContext_links (s : State) (k : Nat) (x : Option Context) : (s.setContext k x).links = s.links := rfl
@[simp] theorem State.setContext_routes (s : State) (k : Nat) (x : Option Context) : (s.setContext k x).routes = s.routes := rfl
@[simp] theorem State.setContext_peers (s : State) (k : Nat) (x : Option Context) : (s.setContext k x).peers = s.peers := rfl
@[simp] theorem State.setContext_msix (s : State) (k : Nat) (x : Option Context) : (s.setContext k x).msix = s.msix := rfl
@[simp] theorem State.setContext_issued (s : State) (k : Nat) (x : Option Context) : (s.setContext k x).issued = s.issued := rfl
@[simp] theorem State.setContext_warp (s : State) (k : Nat) (x : Option Context) (j : Nat) : (s.setContext k x).warp j = s.warp j := rfl
@[simp] theorem State.setContext_block (s : State) (k : Nat) (x : Option Context) (j : Nat) : (s.setContext k x).block j = s.block j := rfl
@[simp] theorem State.setContext_core (s : State) (k : Nat) (x : Option Context) (j : Nat) : (s.setContext k x).core j = s.core j := rfl
@[simp] theorem State.setContext_cluster (s : State) (k : Nat) (x : Option Context) (j : Nat) : (s.setContext k x).cluster j = s.cluster j := rfl
@[simp] theorem State.setContext_stack (s : State) (k : Nat) (x : Option Context) (j : Nat) : (s.setContext k x).stack j = s.stack j := rfl
@[simp] theorem State.setContext_die (s : State) (k : Nat) (x : Option Context) (j : Nat) : (s.setContext k x).die j = s.die j := rfl
@[simp] theorem State.setContext_launch (s : State) (k : Nat) (x : Option Context) (j : Nat) : (s.setContext k x).launch j = s.launch j := rfl
@[simp] theorem State.setContext_queue (s : State) (k : Nat) (x : Option Context) (j : Nat) : (s.setContext k x).queue j = s.queue j := rfl
@[simp] theorem State.setContext_part (s : State) (k : Nat) (x : Option Context) (j : Nat) : (s.setContext k x).part j = s.part j := rfl
@[simp] theorem State.setContext_link (s : State) (k : Nat) (x : Option Context) (j : Nat) : (s.setContext k x).link j = s.link j := rfl
@[simp] theorem State.context_setContext_self (s : State) (k : Nat) (x : Option Context) : (s.setContext k x).context k = x := Tab.get_put_self _ _ _ _
theorem State.context_setContext_ne (s : State) (k : Nat) (x : Option Context) {j : Nat} (h : j ≠ k) : (s.setContext k x).context j = s.context j :=
  Tab.get_put_ne _ _ _ h
theorem State.context_setContext (s : State) (k : Nat) (x : Option Context) (j : Nat) : (s.setContext k x).context j = if j = k then x else s.context j :=
  Tab.get_put _ _ _ _ _

/-! ## State.setPart -/

@[simp] theorem State.setPart_agenda (s : State) (k : Nat) (x : Partition) : (s.setPart k x).agenda = s.agenda := rfl
@[simp] theorem State.setPart_turns (s : State) (k : Nat) (x : Partition) : (s.setPart k x).turns = s.turns := rfl
@[simp] theorem State.setPart_cur (s : State) (k : Nat) (x : Partition) : (s.setPart k x).cur = s.cur := rfl
@[simp] theorem State.setPart_fresh (s : State) (k : Nat) (x : Partition) : (s.setPart k x).fresh = s.fresh := rfl
@[simp] theorem State.setPart_warps (s : State) (k : Nat) (x : Partition) : (s.setPart k x).warps = s.warps := rfl
@[simp] theorem State.setPart_blocks (s : State) (k : Nat) (x : Partition) : (s.setPart k x).blocks = s.blocks := rfl
@[simp] theorem State.setPart_cores (s : State) (k : Nat) (x : Partition) : (s.setPart k x).cores = s.cores := rfl
@[simp] theorem State.setPart_clusters (s : State) (k : Nat) (x : Partition) : (s.setPart k x).clusters = s.clusters := rfl
@[simp] theorem State.setPart_stackMem (s : State) (k : Nat) (x : Partition) : (s.setPart k x).stackMem = s.stackMem := rfl
@[simp] theorem State.setPart_dies (s : State) (k : Nat) (x : Partition) : (s.setPart k x).dies = s.dies := rfl
@[simp] theorem State.setPart_mem (s : State) (k : Nat) (x : Partition) : (s.setPart k x).mem = s.mem := rfl
@[simp] theorem State.setPart_poison (s : State) (k : Nat) (x : Partition) : (s.setPart k x).poison = s.poison := rfl
@[simp] theorem State.setPart_zeroLines (s : State) (k : Nat) (x : Partition) : (s.setPart k x).zeroLines = s.zeroLines := rfl
@[simp] theorem State.setPart_l2 (s : State) (k : Nat) (x : Partition) : (s.setPart k x).l2 = s.l2 := rfl
@[simp] theorem State.setPart_records (s : State) (k : Nat) (x : Partition) : (s.setPart k x).records = s.records := rfl
@[simp] theorem State.setPart_recordOrder (s : State) (k : Nat) (x : Partition) : (s.setPart k x).recordOrder = s.recordOrder := rfl
@[simp] theorem State.setPart_holders (s : State) (k : Nat) (x : Partition) : (s.setPart k x).holders = s.holders := rfl
@[simp] theorem State.setPart_windows (s : State) (k : Nat) (x : Partition) : (s.setPart k x).windows = s.windows := rfl
@[simp] theorem State.setPart_flights (s : State) (k : Nat) (x : Partition) : (s.setPart k x).flights = s.flights := rfl
@[simp] theorem State.setPart_launches (s : State) (k : Nat) (x : Partition) : (s.setPart k x).launches = s.launches := rfl
@[simp] theorem State.setPart_launchCount (s : State) (k : Nat) (x : Partition) : (s.setPart k x).launchCount = s.launchCount := rfl
@[simp] theorem State.setPart_saveCount (s : State) (k : Nat) (x : Partition) : (s.setPart k x).saveCount = s.saveCount := rfl
@[simp] theorem State.setPart_queues (s : State) (k : Nat) (x : Partition) : (s.setPart k x).queues = s.queues := rfl
@[simp] theorem State.setPart_contexts (s : State) (k : Nat) (x : Partition) : (s.setPart k x).contexts = s.contexts := rfl
@[simp] theorem State.setPart_layout (s : State) (k : Nat) (x : Partition) : (s.setPart k x).layout = s.layout := rfl
@[simp] theorem State.setPart_mailbox (s : State) (k : Nat) (x : Partition) : (s.setPart k x).mailbox = s.mailbox := rfl
@[simp] theorem State.setPart_staged (s : State) (k : Nat) (x : Partition) : (s.setPart k x).staged = s.staged := rfl
@[simp] theorem State.setPart_device (s : State) (k : Nat) (x : Partition) : (s.setPart k x).device = s.device := rfl
@[simp] theorem State.setPart_booted (s : State) (k : Nat) (x : Partition) : (s.setPart k x).booted = s.booted := rfl
@[simp] theorem State.setPart_bootResult (s : State) (k : Nat) (x : Partition) : (s.setPart k x).bootResult = s.bootResult := rfl
@[simp] theorem State.setPart_images (s : State) (k : Nat) (x : Partition) : (s.setPart k x).images = s.images := rfl
@[simp] theorem State.setPart_corrected (s : State) (k : Nat) (x : Partition) : (s.setPart k x).corrected = s.corrected := rfl
@[simp] theorem State.setPart_adverts (s : State) (k : Nat) (x : Partition) : (s.setPart k x).adverts = s.adverts := rfl
@[simp] theorem State.setPart_crossings (s : State) (k : Nat) (x : Partition) : (s.setPart k x).crossings = s.crossings := rfl
@[simp] theorem State.setPart_generation (s : State) (k : Nat) (x : Partition) : (s.setPart k x).generation = s.generation := rfl
@[simp] theorem State.setPart_capTable (s : State) (k : Nat) (x : Partition) : (s.setPart k x).capTable = s.capTable := rfl
@[simp] theorem State.setPart_micros (s : State) (k : Nat) (x : Partition) : (s.setPart k x).micros = s.micros := rfl
@[simp] theorem State.setPart_suppressed (s : State) (k : Nat) (x : Partition) : (s.setPart k x).suppressed = s.suppressed := rfl
@[simp] theorem State.setPart_ecc (s : State) (k : Nat) (x : Partition) : (s.setPart k x).ecc = s.ecc := rfl
@[simp] theorem State.setPart_xfer (s : State) (k : Nat) (x : Partition) : (s.setPart k x).xfer = s.xfer := rfl
@[simp] theorem State.setPart_powerLimits (s : State) (k : Nat) (x : Partition) : (s.setPart k x).powerLimits = s.powerLimits := rfl
@[simp] theorem State.setPart_spares (s : State) (k : Nat) (x : Partition) : (s.setPart k x).spares = s.spares := rfl
@[simp] theorem State.setPart_attempts (s : State) (k : Nat) (x : Partition) : (s.setPart k x).attempts = s.attempts := rfl
@[simp] theorem State.setPart_cells (s : State) (k : Nat) (x : Partition) : (s.setPart k x).cells = s.cells := rfl
@[simp] theorem State.setPart_links (s : State) (k : Nat) (x : Partition) : (s.setPart k x).links = s.links := rfl
@[simp] theorem State.setPart_routes (s : State) (k : Nat) (x : Partition) : (s.setPart k x).routes = s.routes := rfl
@[simp] theorem State.setPart_peers (s : State) (k : Nat) (x : Partition) : (s.setPart k x).peers = s.peers := rfl
@[simp] theorem State.setPart_msix (s : State) (k : Nat) (x : Partition) : (s.setPart k x).msix = s.msix := rfl
@[simp] theorem State.setPart_issued (s : State) (k : Nat) (x : Partition) : (s.setPart k x).issued = s.issued := rfl
@[simp] theorem State.setPart_warp (s : State) (k : Nat) (x : Partition) (j : Nat) : (s.setPart k x).warp j = s.warp j := rfl
@[simp] theorem State.setPart_block (s : State) (k : Nat) (x : Partition) (j : Nat) : (s.setPart k x).block j = s.block j := rfl
@[simp] theorem State.setPart_core (s : State) (k : Nat) (x : Partition) (j : Nat) : (s.setPart k x).core j = s.core j := rfl
@[simp] theorem State.setPart_cluster (s : State) (k : Nat) (x : Partition) (j : Nat) : (s.setPart k x).cluster j = s.cluster j := rfl
@[simp] theorem State.setPart_stack (s : State) (k : Nat) (x : Partition) (j : Nat) : (s.setPart k x).stack j = s.stack j := rfl
@[simp] theorem State.setPart_die (s : State) (k : Nat) (x : Partition) (j : Nat) : (s.setPart k x).die j = s.die j := rfl
@[simp] theorem State.setPart_launch (s : State) (k : Nat) (x : Partition) (j : Nat) : (s.setPart k x).launch j = s.launch j := rfl
@[simp] theorem State.setPart_queue (s : State) (k : Nat) (x : Partition) (j : Nat) : (s.setPart k x).queue j = s.queue j := rfl
@[simp] theorem State.setPart_context (s : State) (k : Nat) (x : Partition) (j : Nat) : (s.setPart k x).context j = s.context j := rfl
@[simp] theorem State.setPart_link (s : State) (k : Nat) (x : Partition) (j : Nat) : (s.setPart k x).link j = s.link j := rfl
@[simp] theorem State.part_setPart_self (s : State) (k : Nat) (x : Partition) : (s.setPart k x).part k = x := Tab.get_put_self _ _ _ _
theorem State.part_setPart_ne (s : State) (k : Nat) (x : Partition) {j : Nat} (h : j ≠ k) : (s.setPart k x).part j = s.part j :=
  Tab.get_put_ne _ _ _ h
theorem State.part_setPart (s : State) (k : Nat) (x : Partition) (j : Nat) : (s.setPart k x).part j = if j = k then x else s.part j :=
  Tab.get_put _ _ _ _ _

/-! ## State.setLink -/

@[simp] theorem State.setLink_agenda (s : State) (k : Nat) (x : Link) : (s.setLink k x).agenda = s.agenda := rfl
@[simp] theorem State.setLink_turns (s : State) (k : Nat) (x : Link) : (s.setLink k x).turns = s.turns := rfl
@[simp] theorem State.setLink_cur (s : State) (k : Nat) (x : Link) : (s.setLink k x).cur = s.cur := rfl
@[simp] theorem State.setLink_fresh (s : State) (k : Nat) (x : Link) : (s.setLink k x).fresh = s.fresh := rfl
@[simp] theorem State.setLink_warps (s : State) (k : Nat) (x : Link) : (s.setLink k x).warps = s.warps := rfl
@[simp] theorem State.setLink_blocks (s : State) (k : Nat) (x : Link) : (s.setLink k x).blocks = s.blocks := rfl
@[simp] theorem State.setLink_cores (s : State) (k : Nat) (x : Link) : (s.setLink k x).cores = s.cores := rfl
@[simp] theorem State.setLink_clusters (s : State) (k : Nat) (x : Link) : (s.setLink k x).clusters = s.clusters := rfl
@[simp] theorem State.setLink_stackMem (s : State) (k : Nat) (x : Link) : (s.setLink k x).stackMem = s.stackMem := rfl
@[simp] theorem State.setLink_dies (s : State) (k : Nat) (x : Link) : (s.setLink k x).dies = s.dies := rfl
@[simp] theorem State.setLink_mem (s : State) (k : Nat) (x : Link) : (s.setLink k x).mem = s.mem := rfl
@[simp] theorem State.setLink_poison (s : State) (k : Nat) (x : Link) : (s.setLink k x).poison = s.poison := rfl
@[simp] theorem State.setLink_zeroLines (s : State) (k : Nat) (x : Link) : (s.setLink k x).zeroLines = s.zeroLines := rfl
@[simp] theorem State.setLink_l2 (s : State) (k : Nat) (x : Link) : (s.setLink k x).l2 = s.l2 := rfl
@[simp] theorem State.setLink_records (s : State) (k : Nat) (x : Link) : (s.setLink k x).records = s.records := rfl
@[simp] theorem State.setLink_recordOrder (s : State) (k : Nat) (x : Link) : (s.setLink k x).recordOrder = s.recordOrder := rfl
@[simp] theorem State.setLink_holders (s : State) (k : Nat) (x : Link) : (s.setLink k x).holders = s.holders := rfl
@[simp] theorem State.setLink_windows (s : State) (k : Nat) (x : Link) : (s.setLink k x).windows = s.windows := rfl
@[simp] theorem State.setLink_flights (s : State) (k : Nat) (x : Link) : (s.setLink k x).flights = s.flights := rfl
@[simp] theorem State.setLink_launches (s : State) (k : Nat) (x : Link) : (s.setLink k x).launches = s.launches := rfl
@[simp] theorem State.setLink_launchCount (s : State) (k : Nat) (x : Link) : (s.setLink k x).launchCount = s.launchCount := rfl
@[simp] theorem State.setLink_saveCount (s : State) (k : Nat) (x : Link) : (s.setLink k x).saveCount = s.saveCount := rfl
@[simp] theorem State.setLink_queues (s : State) (k : Nat) (x : Link) : (s.setLink k x).queues = s.queues := rfl
@[simp] theorem State.setLink_contexts (s : State) (k : Nat) (x : Link) : (s.setLink k x).contexts = s.contexts := rfl
@[simp] theorem State.setLink_parts (s : State) (k : Nat) (x : Link) : (s.setLink k x).parts = s.parts := rfl
@[simp] theorem State.setLink_layout (s : State) (k : Nat) (x : Link) : (s.setLink k x).layout = s.layout := rfl
@[simp] theorem State.setLink_mailbox (s : State) (k : Nat) (x : Link) : (s.setLink k x).mailbox = s.mailbox := rfl
@[simp] theorem State.setLink_staged (s : State) (k : Nat) (x : Link) : (s.setLink k x).staged = s.staged := rfl
@[simp] theorem State.setLink_device (s : State) (k : Nat) (x : Link) : (s.setLink k x).device = s.device := rfl
@[simp] theorem State.setLink_booted (s : State) (k : Nat) (x : Link) : (s.setLink k x).booted = s.booted := rfl
@[simp] theorem State.setLink_bootResult (s : State) (k : Nat) (x : Link) : (s.setLink k x).bootResult = s.bootResult := rfl
@[simp] theorem State.setLink_images (s : State) (k : Nat) (x : Link) : (s.setLink k x).images = s.images := rfl
@[simp] theorem State.setLink_corrected (s : State) (k : Nat) (x : Link) : (s.setLink k x).corrected = s.corrected := rfl
@[simp] theorem State.setLink_adverts (s : State) (k : Nat) (x : Link) : (s.setLink k x).adverts = s.adverts := rfl
@[simp] theorem State.setLink_crossings (s : State) (k : Nat) (x : Link) : (s.setLink k x).crossings = s.crossings := rfl
@[simp] theorem State.setLink_generation (s : State) (k : Nat) (x : Link) : (s.setLink k x).generation = s.generation := rfl
@[simp] theorem State.setLink_capTable (s : State) (k : Nat) (x : Link) : (s.setLink k x).capTable = s.capTable := rfl
@[simp] theorem State.setLink_micros (s : State) (k : Nat) (x : Link) : (s.setLink k x).micros = s.micros := rfl
@[simp] theorem State.setLink_suppressed (s : State) (k : Nat) (x : Link) : (s.setLink k x).suppressed = s.suppressed := rfl
@[simp] theorem State.setLink_ecc (s : State) (k : Nat) (x : Link) : (s.setLink k x).ecc = s.ecc := rfl
@[simp] theorem State.setLink_xfer (s : State) (k : Nat) (x : Link) : (s.setLink k x).xfer = s.xfer := rfl
@[simp] theorem State.setLink_powerLimits (s : State) (k : Nat) (x : Link) : (s.setLink k x).powerLimits = s.powerLimits := rfl
@[simp] theorem State.setLink_spares (s : State) (k : Nat) (x : Link) : (s.setLink k x).spares = s.spares := rfl
@[simp] theorem State.setLink_attempts (s : State) (k : Nat) (x : Link) : (s.setLink k x).attempts = s.attempts := rfl
@[simp] theorem State.setLink_cells (s : State) (k : Nat) (x : Link) : (s.setLink k x).cells = s.cells := rfl
@[simp] theorem State.setLink_routes (s : State) (k : Nat) (x : Link) : (s.setLink k x).routes = s.routes := rfl
@[simp] theorem State.setLink_peers (s : State) (k : Nat) (x : Link) : (s.setLink k x).peers = s.peers := rfl
@[simp] theorem State.setLink_msix (s : State) (k : Nat) (x : Link) : (s.setLink k x).msix = s.msix := rfl
@[simp] theorem State.setLink_issued (s : State) (k : Nat) (x : Link) : (s.setLink k x).issued = s.issued := rfl
@[simp] theorem State.setLink_warp (s : State) (k : Nat) (x : Link) (j : Nat) : (s.setLink k x).warp j = s.warp j := rfl
@[simp] theorem State.setLink_block (s : State) (k : Nat) (x : Link) (j : Nat) : (s.setLink k x).block j = s.block j := rfl
@[simp] theorem State.setLink_core (s : State) (k : Nat) (x : Link) (j : Nat) : (s.setLink k x).core j = s.core j := rfl
@[simp] theorem State.setLink_cluster (s : State) (k : Nat) (x : Link) (j : Nat) : (s.setLink k x).cluster j = s.cluster j := rfl
@[simp] theorem State.setLink_stack (s : State) (k : Nat) (x : Link) (j : Nat) : (s.setLink k x).stack j = s.stack j := rfl
@[simp] theorem State.setLink_die (s : State) (k : Nat) (x : Link) (j : Nat) : (s.setLink k x).die j = s.die j := rfl
@[simp] theorem State.setLink_launch (s : State) (k : Nat) (x : Link) (j : Nat) : (s.setLink k x).launch j = s.launch j := rfl
@[simp] theorem State.setLink_queue (s : State) (k : Nat) (x : Link) (j : Nat) : (s.setLink k x).queue j = s.queue j := rfl
@[simp] theorem State.setLink_context (s : State) (k : Nat) (x : Link) (j : Nat) : (s.setLink k x).context j = s.context j := rfl
@[simp] theorem State.setLink_part (s : State) (k : Nat) (x : Link) (j : Nat) : (s.setLink k x).part j = s.part j := rfl
@[simp] theorem State.link_setLink_self (s : State) (k : Nat) (x : Link) : (s.setLink k x).link k = x := Tab.get_put_self _ _ _ _
theorem State.link_setLink_ne (s : State) (k : Nat) (x : Link) {j : Nat} (h : j ≠ k) : (s.setLink k x).link j = s.link j :=
  Tab.get_put_ne _ _ _ h
theorem State.link_setLink (s : State) (k : Nat) (x : Link) (j : Nat) : (s.setLink k x).link j = if j = k then x else s.link j :=
  Tab.get_put _ _ _ _ _

/-! ## The issuing warp -/

@[simp] theorem State.setCw_agenda (s : State) (w : Warp) : (s.setCw w).agenda = s.agenda := rfl
@[simp] theorem State.setCw_turns (s : State) (w : Warp) : (s.setCw w).turns = s.turns := rfl
@[simp] theorem State.setCw_cur (s : State) (w : Warp) : (s.setCw w).cur = s.cur := rfl
@[simp] theorem State.setCw_fresh (s : State) (w : Warp) : (s.setCw w).fresh = s.fresh := rfl
@[simp] theorem State.setCw_blocks (s : State) (w : Warp) : (s.setCw w).blocks = s.blocks := rfl
@[simp] theorem State.setCw_cores (s : State) (w : Warp) : (s.setCw w).cores = s.cores := rfl
@[simp] theorem State.setCw_clusters (s : State) (w : Warp) : (s.setCw w).clusters = s.clusters := rfl
@[simp] theorem State.setCw_stackMem (s : State) (w : Warp) : (s.setCw w).stackMem = s.stackMem := rfl
@[simp] theorem State.setCw_dies (s : State) (w : Warp) : (s.setCw w).dies = s.dies := rfl
@[simp] theorem State.setCw_mem (s : State) (w : Warp) : (s.setCw w).mem = s.mem := rfl
@[simp] theorem State.setCw_poison (s : State) (w : Warp) : (s.setCw w).poison = s.poison := rfl
@[simp] theorem State.setCw_zeroLines (s : State) (w : Warp) : (s.setCw w).zeroLines = s.zeroLines := rfl
@[simp] theorem State.setCw_l2 (s : State) (w : Warp) : (s.setCw w).l2 = s.l2 := rfl
@[simp] theorem State.setCw_records (s : State) (w : Warp) : (s.setCw w).records = s.records := rfl
@[simp] theorem State.setCw_recordOrder (s : State) (w : Warp) : (s.setCw w).recordOrder = s.recordOrder := rfl
@[simp] theorem State.setCw_holders (s : State) (w : Warp) : (s.setCw w).holders = s.holders := rfl
@[simp] theorem State.setCw_windows (s : State) (w : Warp) : (s.setCw w).windows = s.windows := rfl
@[simp] theorem State.setCw_flights (s : State) (w : Warp) : (s.setCw w).flights = s.flights := rfl
@[simp] theorem State.setCw_launches (s : State) (w : Warp) : (s.setCw w).launches = s.launches := rfl
@[simp] theorem State.setCw_launchCount (s : State) (w : Warp) : (s.setCw w).launchCount = s.launchCount := rfl
@[simp] theorem State.setCw_saveCount (s : State) (w : Warp) : (s.setCw w).saveCount = s.saveCount := rfl
@[simp] theorem State.setCw_queues (s : State) (w : Warp) : (s.setCw w).queues = s.queues := rfl
@[simp] theorem State.setCw_contexts (s : State) (w : Warp) : (s.setCw w).contexts = s.contexts := rfl
@[simp] theorem State.setCw_parts (s : State) (w : Warp) : (s.setCw w).parts = s.parts := rfl
@[simp] theorem State.setCw_layout (s : State) (w : Warp) : (s.setCw w).layout = s.layout := rfl
@[simp] theorem State.setCw_mailbox (s : State) (w : Warp) : (s.setCw w).mailbox = s.mailbox := rfl
@[simp] theorem State.setCw_staged (s : State) (w : Warp) : (s.setCw w).staged = s.staged := rfl
@[simp] theorem State.setCw_device (s : State) (w : Warp) : (s.setCw w).device = s.device := rfl
@[simp] theorem State.setCw_booted (s : State) (w : Warp) : (s.setCw w).booted = s.booted := rfl
@[simp] theorem State.setCw_bootResult (s : State) (w : Warp) : (s.setCw w).bootResult = s.bootResult := rfl
@[simp] theorem State.setCw_images (s : State) (w : Warp) : (s.setCw w).images = s.images := rfl
@[simp] theorem State.setCw_corrected (s : State) (w : Warp) : (s.setCw w).corrected = s.corrected := rfl
@[simp] theorem State.setCw_adverts (s : State) (w : Warp) : (s.setCw w).adverts = s.adverts := rfl
@[simp] theorem State.setCw_crossings (s : State) (w : Warp) : (s.setCw w).crossings = s.crossings := rfl
@[simp] theorem State.setCw_generation (s : State) (w : Warp) : (s.setCw w).generation = s.generation := rfl
@[simp] theorem State.setCw_capTable (s : State) (w : Warp) : (s.setCw w).capTable = s.capTable := rfl
@[simp] theorem State.setCw_micros (s : State) (w : Warp) : (s.setCw w).micros = s.micros := rfl
@[simp] theorem State.setCw_suppressed (s : State) (w : Warp) : (s.setCw w).suppressed = s.suppressed := rfl
@[simp] theorem State.setCw_ecc (s : State) (w : Warp) : (s.setCw w).ecc = s.ecc := rfl
@[simp] theorem State.setCw_xfer (s : State) (w : Warp) : (s.setCw w).xfer = s.xfer := rfl
@[simp] theorem State.setCw_powerLimits (s : State) (w : Warp) : (s.setCw w).powerLimits = s.powerLimits := rfl
@[simp] theorem State.setCw_spares (s : State) (w : Warp) : (s.setCw w).spares = s.spares := rfl
@[simp] theorem State.setCw_attempts (s : State) (w : Warp) : (s.setCw w).attempts = s.attempts := rfl
@[simp] theorem State.setCw_cells (s : State) (w : Warp) : (s.setCw w).cells = s.cells := rfl
@[simp] theorem State.setCw_links (s : State) (w : Warp) : (s.setCw w).links = s.links := rfl
@[simp] theorem State.setCw_routes (s : State) (w : Warp) : (s.setCw w).routes = s.routes := rfl
@[simp] theorem State.setCw_peers (s : State) (w : Warp) : (s.setCw w).peers = s.peers := rfl
@[simp] theorem State.setCw_msix (s : State) (w : Warp) : (s.setCw w).msix = s.msix := rfl
@[simp] theorem State.setCw_issued (s : State) (w : Warp) : (s.setCw w).issued = s.issued := rfl
@[simp] theorem State.setCw_block (s : State) (w : Warp) (j : Nat) : (s.setCw w).block j = s.block j := rfl
@[simp] theorem State.setCw_core (s : State) (w : Warp) (j : Nat) : (s.setCw w).core j = s.core j := rfl
@[simp] theorem State.setCw_cluster (s : State) (w : Warp) (j : Nat) : (s.setCw w).cluster j = s.cluster j := rfl
@[simp] theorem State.setCw_stack (s : State) (w : Warp) (j : Nat) : (s.setCw w).stack j = s.stack j := rfl
@[simp] theorem State.setCw_die (s : State) (w : Warp) (j : Nat) : (s.setCw w).die j = s.die j := rfl
@[simp] theorem State.setCw_launch (s : State) (w : Warp) (j : Nat) : (s.setCw w).launch j = s.launch j := rfl
@[simp] theorem State.setCw_queue (s : State) (w : Warp) (j : Nat) : (s.setCw w).queue j = s.queue j := rfl
@[simp] theorem State.setCw_context (s : State) (w : Warp) (j : Nat) : (s.setCw w).context j = s.context j := rfl
@[simp] theorem State.setCw_part (s : State) (w : Warp) (j : Nat) : (s.setCw w).part j = s.part j := rfl
@[simp] theorem State.setCw_link (s : State) (w : Warp) (j : Nat) : (s.setCw w).link j = s.link j := rfl
@[simp] theorem State.setCw_cw (s : State) (w : Warp) : (s.setCw w).cw = w := Tab.get_put_self _ _ _ _
theorem State.setCw_warp_ne (s : State) (w : Warp) {j : Nat} (h : j ≠ s.cur.warp) : (s.setCw w).warp j = s.warp j :=
  Tab.get_put_ne _ _ _ h
@[simp] theorem State.setBlock_cw (s : State) (k : Nat) (x : Block) : (s.setBlock k x).cw = s.cw := rfl
@[simp] theorem State.setCore_cw (s : State) (k : Nat) (x : Core) : (s.setCore k x).cw = s.cw := rfl
@[simp] theorem State.later_cw (s : State) (i : Instr) : (s.later i).cw = s.cw := rfl

@[simp] theorem State.later_turns (s : State) (i : Instr) : (s.later i).turns = s.turns := rfl
@[simp] theorem State.later_cur (s : State) (i : Instr) : (s.later i).cur = s.cur := rfl
@[simp] theorem State.later_fresh (s : State) (i : Instr) : (s.later i).fresh = s.fresh := rfl
@[simp] theorem State.later_warps (s : State) (i : Instr) : (s.later i).warps = s.warps := rfl
@[simp] theorem State.later_blocks (s : State) (i : Instr) : (s.later i).blocks = s.blocks := rfl
@[simp] theorem State.later_cores (s : State) (i : Instr) : (s.later i).cores = s.cores := rfl
@[simp] theorem State.later_clusters (s : State) (i : Instr) : (s.later i).clusters = s.clusters := rfl
@[simp] theorem State.later_stackMem (s : State) (i : Instr) : (s.later i).stackMem = s.stackMem := rfl
@[simp] theorem State.later_dies (s : State) (i : Instr) : (s.later i).dies = s.dies := rfl
@[simp] theorem State.later_mem (s : State) (i : Instr) : (s.later i).mem = s.mem := rfl
@[simp] theorem State.later_poison (s : State) (i : Instr) : (s.later i).poison = s.poison := rfl
@[simp] theorem State.later_zeroLines (s : State) (i : Instr) : (s.later i).zeroLines = s.zeroLines := rfl
@[simp] theorem State.later_l2 (s : State) (i : Instr) : (s.later i).l2 = s.l2 := rfl
@[simp] theorem State.later_records (s : State) (i : Instr) : (s.later i).records = s.records := rfl
@[simp] theorem State.later_recordOrder (s : State) (i : Instr) : (s.later i).recordOrder = s.recordOrder := rfl
@[simp] theorem State.later_holders (s : State) (i : Instr) : (s.later i).holders = s.holders := rfl
@[simp] theorem State.later_windows (s : State) (i : Instr) : (s.later i).windows = s.windows := rfl
@[simp] theorem State.later_flights (s : State) (i : Instr) : (s.later i).flights = s.flights := rfl
@[simp] theorem State.later_launches (s : State) (i : Instr) : (s.later i).launches = s.launches := rfl
@[simp] theorem State.later_launchCount (s : State) (i : Instr) : (s.later i).launchCount = s.launchCount := rfl
@[simp] theorem State.later_saveCount (s : State) (i : Instr) : (s.later i).saveCount = s.saveCount := rfl
@[simp] theorem State.later_queues (s : State) (i : Instr) : (s.later i).queues = s.queues := rfl
@[simp] theorem State.later_contexts (s : State) (i : Instr) : (s.later i).contexts = s.contexts := rfl
@[simp] theorem State.later_parts (s : State) (i : Instr) : (s.later i).parts = s.parts := rfl
@[simp] theorem State.later_layout (s : State) (i : Instr) : (s.later i).layout = s.layout := rfl
@[simp] theorem State.later_mailbox (s : State) (i : Instr) : (s.later i).mailbox = s.mailbox := rfl
@[simp] theorem State.later_staged (s : State) (i : Instr) : (s.later i).staged = s.staged := rfl
@[simp] theorem State.later_device (s : State) (i : Instr) : (s.later i).device = s.device := rfl
@[simp] theorem State.later_booted (s : State) (i : Instr) : (s.later i).booted = s.booted := rfl
@[simp] theorem State.later_bootResult (s : State) (i : Instr) : (s.later i).bootResult = s.bootResult := rfl
@[simp] theorem State.later_images (s : State) (i : Instr) : (s.later i).images = s.images := rfl
@[simp] theorem State.later_corrected (s : State) (i : Instr) : (s.later i).corrected = s.corrected := rfl
@[simp] theorem State.later_adverts (s : State) (i : Instr) : (s.later i).adverts = s.adverts := rfl
@[simp] theorem State.later_crossings (s : State) (i : Instr) : (s.later i).crossings = s.crossings := rfl
@[simp] theorem State.later_generation (s : State) (i : Instr) : (s.later i).generation = s.generation := rfl
@[simp] theorem State.later_capTable (s : State) (i : Instr) : (s.later i).capTable = s.capTable := rfl
@[simp] theorem State.later_micros (s : State) (i : Instr) : (s.later i).micros = s.micros := rfl
@[simp] theorem State.later_suppressed (s : State) (i : Instr) : (s.later i).suppressed = s.suppressed := rfl
@[simp] theorem State.later_ecc (s : State) (i : Instr) : (s.later i).ecc = s.ecc := rfl
@[simp] theorem State.later_xfer (s : State) (i : Instr) : (s.later i).xfer = s.xfer := rfl
@[simp] theorem State.later_powerLimits (s : State) (i : Instr) : (s.later i).powerLimits = s.powerLimits := rfl
@[simp] theorem State.later_spares (s : State) (i : Instr) : (s.later i).spares = s.spares := rfl
@[simp] theorem State.later_attempts (s : State) (i : Instr) : (s.later i).attempts = s.attempts := rfl
@[simp] theorem State.later_cells (s : State) (i : Instr) : (s.later i).cells = s.cells := rfl
@[simp] theorem State.later_links (s : State) (i : Instr) : (s.later i).links = s.links := rfl
@[simp] theorem State.later_routes (s : State) (i : Instr) : (s.later i).routes = s.routes := rfl
@[simp] theorem State.later_peers (s : State) (i : Instr) : (s.later i).peers = s.peers := rfl
@[simp] theorem State.later_msix (s : State) (i : Instr) : (s.later i).msix = s.msix := rfl
@[simp] theorem State.later_issued (s : State) (i : Instr) : (s.later i).issued = s.issued := rfl
@[simp] theorem State.later_warp (s : State) (i : Instr) (j : Nat) : (s.later i).warp j = s.warp j := rfl
@[simp] theorem State.later_block (s : State) (i : Instr) (j : Nat) : (s.later i).block j = s.block j := rfl
@[simp] theorem State.later_core (s : State) (i : Instr) (j : Nat) : (s.later i).core j = s.core j := rfl
@[simp] theorem State.later_cluster (s : State) (i : Instr) (j : Nat) : (s.later i).cluster j = s.cluster j := rfl
@[simp] theorem State.later_stack (s : State) (i : Instr) (j : Nat) : (s.later i).stack j = s.stack j := rfl
@[simp] theorem State.later_die (s : State) (i : Instr) (j : Nat) : (s.later i).die j = s.die j := rfl
@[simp] theorem State.later_launch (s : State) (i : Instr) (j : Nat) : (s.later i).launch j = s.launch j := rfl
@[simp] theorem State.later_queue (s : State) (i : Instr) (j : Nat) : (s.later i).queue j = s.queue j := rfl
@[simp] theorem State.later_context (s : State) (i : Instr) (j : Nat) : (s.later i).context j = s.context j := rfl
@[simp] theorem State.later_part (s : State) (i : Instr) (j : Nat) : (s.later i).part j = s.part j := rfl
@[simp] theorem State.later_link (s : State) (i : Instr) (j : Nat) : (s.later i).link j = s.link j := rfl

/-! ## Registers -/

@[simp] theorem Warp.micro_setMicro (w : Warp) (b : Bool) (m : Micro) : (w.setMicro b m).micro b = m := by
  cases b <;> rfl
theorem Warp.micro_setMicro_not (w : Warp) (b : Bool) (m : Micro) : (w.setMicro b m).micro (!b) = w.micro (!b) := by
  cases b <;> rfl
@[simp] theorem Warp.setMicro_regs (w : Warp) (b : Bool) (m : Micro) : (w.setMicro b m).regs = w.regs := by
  cases b <;> rfl
@[simp] theorem Warp.setMicro_ctl (w : Warp) (b : Bool) (m : Micro) : (w.setMicro b m).ctl = w.ctl := by
  cases b <;> rfl
@[simp] theorem Warp.setMicro_stat (w : Warp) (b : Bool) (m : Micro) : (w.setMicro b m).stat = w.stat := by
  cases b <;> rfl
@[simp] theorem Warp.setMicro_block (w : Warp) (b : Bool) (m : Micro) : (w.setMicro b m).block = w.block := by
  cases b <;> rfl
@[simp] theorem Ctl.path_setPath (c : Ctl) (b : Bool) (p : Path) : (c.setPath b p).path b = p := by
  cases b <;> rfl

@[simp] theorem Warp.putS_v (w : Warp) (r : Nat) (x : Word) : (w.putS r x).regs.v = w.regs.v := rfl
@[simp] theorem Warp.putS_s (w : Warp) (r : Nat) (x : Word) : (w.putS r x).regs.s = Tab.put w.regs.s r x := rfl
@[simp] theorem Warp.putS_p (w : Warp) (r : Nat) (x : Word) : (w.putS r x).regs.p = w.regs.p := rfl
@[simp] theorem Warp.putS_nf (w : Warp) (r : Nat) (x : Word) : (w.putS r x).regs.nf = w.regs.nf := rfl
@[simp] theorem Warp.putS_ctl (w : Warp) (r : Nat) (x : Word) : (w.putS r x).ctl = w.ctl := rfl
@[simp] theorem Warp.putS_micro (w : Warp) (r : Nat) (x : Word) (b : Bool) : (w.putS r x).micro b = w.micro b := by
  cases b <;> rfl

/-- A predicate number's bits are the test's values. -/
theorem bitSum_lt (f : Nat → Bool) (n : Nat) : bitSum f n < 2 ^ n := by
  induction n with
  | zero => simp [bitSum]
  | succ n ih => simp only [bitSum, Nat.pow_succ]; split <;> omega

theorem testBit_bitSum (f : Nat → Bool) (n i : Nat) : (bitSum f n).testBit i = (decide (i < n) && f i) := by
  induction n with
  | zero => simp [bitSum]
  | succ n ih =>
    have hlt := bitSum_lt f n
    simp only [bitSum]
    cases hf : f n with
    | false =>
      simp only [if_neg, Bool.false_eq_true, not_false_eq_true, Nat.add_zero, ih]
      by_cases h : i = n
      · subst h; simp [hf]
      · have : decide (i < n) = decide (i < n + 1) := by
          simp only [decide_eq_decide]; omega
        rw [this]
    | true =>
      simp only [if_true]
      rw [Nat.add_comm]
      by_cases h : i = n
      · subst h
        rw [Nat.testBit_two_pow_add_eq, Nat.testBit_lt_two_pow hlt]
        simp [hf]
      · by_cases hi : i < n
        · rw [Nat.testBit_two_pow_add_gt hi, ih]
          have : i < n + 1 := by omega
          simp [hi, this]
        · have hi' : n + 1 ≤ i := by omega
          have : 2 ^ n + bitSum f n < 2 ^ i := by
            calc 2 ^ n + bitSum f n < 2 ^ n + 2 ^ n := by omega
              _ = 2 ^ (n + 1) := by rw [Nat.pow_succ]; omega
              _ ≤ 2 ^ i := Nat.pow_le_pow_right (by omega) hi'
          rw [Nat.testBit_lt_two_pow this]
          have : ¬ i < n + 1 := by omega
          simp [this]

@[simp] theorem getLsbD_laneMask (f : Nat → Bool) (l : Nat) : (laneMask f).getLsbD l = (decide (l < 32) && f l) := by
  unfold laneMask
  rw [BitVec.getLsbD_ofNat, testBit_bitSum]
  cases decide (l < 32) <;> simp

/-- A predicate register after a write holds the new bits in the lanes of the test and its old bits elsewhere. -/
theorem Warp.putP_get (w : Warp) (r : Nat) (act f : Nat → Bool) {l : Nat} (hr : r ≠ 0) (hl : l < 32) :
    (Tab.get 0#32 (w.putP r act f).regs.p r).getLsbD l =
      if act l then f l else (Tab.get 0#32 w.regs.p r).getLsbD l := by
  simp only [Warp.putP, if_neg hr, Tab.get_put_self, getLsbD_laneMask, hl, decide_true, Bool.true_and]

theorem Warp.putP_zero (w : Warp) (act f : Nat → Bool) : w.putP 0 act f = w := rfl

theorem Warp.putP_get_ne (w : Warp) (r : Nat) (act f : Nat → Bool) {q : Nat} (h : q ≠ r) :
    Tab.get 0#32 (w.putP r act f).regs.p q = Tab.get 0#32 w.regs.p q := by
  unfold Warp.putP
  split
  · rfl
  · exact Tab.get_put_ne _ _ _ h

/-- A v-register table after lane writes: the value in a written lane, and the old one everywhere else. -/
theorem get_foldl_put (t : Tab Word) (r : Nat) (act : Nat → Bool) (f : Nat → Word) (ls : List Nat) (k : Nat) :
    Tab.get 0#64 (ls.foldl (fun t l => if act l then Tab.put t (32 * r + l) (f l) else t) t) k =
      match ls.reverse.find? (fun l => act l && (k == 32 * r + l)) with
      | some l => f l
      | none => Tab.get 0#64 t k := by
  induction ls generalizing t with
  | nil => rfl
  | cons x xs ih =>
    simp only [List.foldl_cons, List.reverse_cons, List.find?_append, ih]
    cases h : xs.reverse.find? (fun l => act l && (k == 32 * r + l)) with
    | some l => simp
    | none =>
      by_cases ha : act x = true
      · by_cases hk : k = 32 * r + x
        · simp [ha, hk]
        · have hk' : (k == 32 * r + x) = false := by simpa using hk
          simp [ha, hk', Tab.get_put_ne _ _ _ hk]
      · simp [ha]

theorem get_putLanes (t : Tab Word) (r : Nat) (act : Nat → Bool) (f : Nat → Word) (q : Nat) {l : Nat} (hl : l < 32) :
    Tab.get 0#64 (putLanes t r act f) (32 * q + l) = if q = r ∧ act l = true then f l else Tab.get 0#64 t (32 * q + l) := by
  unfold putLanes
  rw [get_foldl_put]
  cases h : lanes.reverse.find? (fun x => act x && (32 * q + l == 32 * r + x)) with
  | some x =>
    have hx := List.find?_some h
    have hm := List.mem_of_find?_eq_some h
    have hlt : x < 32 := by simpa [lanes] using hm
    simp only [Bool.and_eq_true, beq_iff_eq] at hx
    obtain ⟨ha, he⟩ := hx
    have hq : q = r := by omega
    have hxl : x = l := by omega
    subst hxl
    simp [hq, ha]
  | none =>
    have hn := List.find?_eq_none.mp h l (by simp [lanes, hl])
    simp only
    rw [if_neg]
    rintro ⟨rfl, ha⟩
    simp [ha] at hn

/-- Reading a v-register's lane after a write of lanes. -/
theorem Warp.putV_get (w : Warp) (r : Nat) (act : Nat → Bool) (f : Nat → Word) (q : Nat) {l : Nat} (hl : l < 32) :
    Tab.get 0#64 (w.putV r act f).regs.v (32 * q + l) =
      if q = r ∧ act l = true then f l else Tab.get 0#64 w.regs.v (32 * q + l) :=
  get_putLanes w.regs.v r act f q hl

end Sys2Proof.Machine
end

