-- ==== Sys2Proof/Laws/Operations.lean ====
section
/-! SUPPORT. What each shared operation can do, said once: the fields it may change, and that every memory keeps its
canonical form (log 1). -/

namespace Sys2Proof.Machine

/-! ## Bytes of device memory at their homes -/

/-- From s to t the home slices have worked: memory, its poison, flags, records and flawed cells that were read, reads under
way, what waits on the agenda, what the cores hold, and the budgets charged may have changed; memory keeps its form. -/
structure HomeStep (s t : State) : Prop where
  frame : t = { s with agenda := t.agenda, fresh := t.fresh, cores := t.cores, mem := t.mem, poison := t.poison
                       zeroLines := t.zeroLines, l2 := t.l2, records := t.records, recordOrder := t.recordOrder
                       holders := t.holders, windows := t.windows, flights := t.flights, parts := t.parts
                       corrected := t.corrected }
  wf : s.mem.wf = true → t.mem.wf = true

theorem HomeStep.refl (s : State) : HomeStep s s := ⟨rfl, id⟩

theorem HomeStep.trans {s t u : State} (h : HomeStep s t) (g : HomeStep t u) : HomeStep s u :=
  ⟨g.frame.trans (by rw [h.frame]), fun hw => g.wf (h.wf hw)⟩

theorem HomeStep.foldl {α : Type} (f : State → α → State) (h : ∀ s a, HomeStep s (f s a)) (l : List α) (s : State) :
    HomeStep s (l.foldl f s) := by
  induction l generalizing s with
  | nil => exact .refl s
  | cons a l ih => exact (h s a).trans (ih (f s a))

theorem HomeStep.warps {s t : State} (h : HomeStep s t) : t.warps = s.warps := by rw [h.frame]
theorem HomeStep.blocks {s t : State} (h : HomeStep s t) : t.blocks = s.blocks := by rw [h.frame]
theorem HomeStep.stackMem {s t : State} (h : HomeStep s t) : t.stackMem = s.stackMem := by rw [h.frame]
theorem HomeStep.mailbox {s t : State} (h : HomeStep s t) : t.mailbox = s.mailbox := by rw [h.frame]
theorem HomeStep.launches {s t : State} (h : HomeStep s t) : t.launches = s.launches := by rw [h.frame]
theorem HomeStep.cur {s t : State} (h : HomeStep s t) : t.cur = s.cur := by rw [h.frame]

theorem homeStep_setCore (s : State) (c : Nat) (x : Core) : HomeStep s (s.setCore c x) := ⟨rfl, id⟩

theorem homeStep_later (s : State) (i : Instr) : HomeStep s (s.later i) := ⟨rfl, id⟩

theorem wf_writeCells {m : Memory} (h : Memory.wf m = true) (cells : List (Nat × Byte)) :
    Memory.wf (writeCells m cells) = true := by
  unfold writeCells
  induction cells generalizing m with
  | nil => exact h
  | cons c cs ih => exact ih (Memory.wf_set h c.1 c.2)

/-- Single bytes written in order: a byte reads as the last one written to it, or as before. -/
theorem byte_writeCells (m : Memory) (cells : List (Nat × Byte)) (a : Nat) :
    Memory.byte (writeCells m cells) a = ((cells.reverse.find? fun x => x.1 == a).map (·.2)).getD (m.byte a) := by
  unfold writeCells
  induction cells generalizing m with
  | nil => rfl
  | cons c cs ih =>
    simp only [List.foldl_cons, ih, List.reverse_cons, List.find?_append]
    cases h : cs.reverse.find? fun x => x.1 == a with
    | some x => simp
    | none =>
      by_cases hc : c.1 = a
      · simp [hc]
      · have hn : ¬ a = c.1 := fun e => hc e.symm
        simp [hc, Memory.byte_set, hn]

theorem writeCells_cellsAt (m : Memory) (p : Nat) (bs : List Byte) : writeCells m (cellsAt p bs) = m.write p bs := by
  unfold writeCells
  induction bs generalizing m p with
  | nil => rfl
  | cons b bs ih => simp only [cellsAt, List.foldl_cons, Memory.write, ih]

theorem l2Use_frame (s : State) (l : Nat) (w f : Bool) :
    s.l2Use l w f = { s with l2 := (s.l2Use l w f).l2, zeroLines := (s.l2Use l w f).zeroLines
                             corrected := (s.l2Use l w f).corrected } := by
  unfold State.l2Use
  split <;> rfl

theorem foldl_l2Use (ls : List Nat) (s : State) :
    let t := ls.foldl (fun s l => s.l2Use l true false) s
    t = { s with l2 := t.l2, zeroLines := t.zeroLines, corrected := t.corrected } := by
  induction ls generalizing s with
  | nil => rfl
  | cons l ls ih =>
    simp only [List.foldl_cons]
    refine (ih _).trans ?_
    rw [l2Use_frame s l]

/-- Bytes that reach their homes: those for a device that some route reaches (R375). -/
def State.reaching (s : State) (cells : List (Nat × Byte)) : List (Nat × Byte) := cells.filter fun c => !s.unreachable c.1

/-- Bytes applied at their homes: memory, its poison, its zero flags and the tags of the L2 change, and nothing else. -/
theorem applyCells_frame (s : State) (cells : List (Nat × Byte)) :
    s.applyCells cells = { s with mem := writeCells s.mem (s.reaching cells), poison := poisonAfter s.poison (s.reaching cells),
                                  l2 := (s.applyCells cells).l2, zeroLines := (s.applyCells cells).zeroLines,
                                  corrected := (s.applyCells cells).corrected } :=
  foldl_l2Use _ _

/-- Bytes of the device itself all reach their homes. -/
theorem reaching_here (s : State) (p : Nat) (bs : List Byte) (h : p + bs.length ≤ 2 ^ 64) :
    s.reaching (cellsAt p bs) = cellsAt p bs := by
  unfold State.reaching
  induction bs generalizing p with
  | nil => rfl
  | cons b bs ih =>
    simp only [List.length_cons] at h
    have hp : s.unreachable p = false := by
      have : spaceNum p = 0 := Nat.div_eq_of_lt (by omega)
      simp [State.unreachable, this]
    simp only [cellsAt, List.filter_cons, hp, Bool.not_false, if_true, ih (p + 1) (by omega)]

theorem homeStep_l2Use (s : State) (l : Nat) (w f : Bool) : HomeStep s (s.l2Use l w f) := by
  refine ⟨(l2Use_frame s l w f).trans ?_, fun h => ?_⟩
  · rw [l2Use_frame s l w f]
  · rw [l2Use_frame s l w f]; exact h

theorem homeStep_applyCells (s : State) (cells : List (Nat × Byte)) : HomeStep s (s.applyCells cells) := by
  refine ⟨(applyCells_frame s cells).trans ?_, fun h => ?_⟩
  · rw [applyCells_frame s cells]
  · rw [applyCells_frame s cells]; exact wf_writeCells h _

theorem homeStep_combineAt (s : State) (p : Nat) (op : BitVec 4) (wide : Bool) (v : Word) :
    HomeStep s (s.combineAt p op wide v) :=
  (homeStep_applyCells s _).trans ⟨rfl, id⟩

theorem homeStep_chargeMem (s : State) (core : Nat) : HomeStep s (s.chargeMem core) := by
  unfold State.chargeMem
  simp only
  split
  · exact .refl s
  · exact ⟨rfl, id⟩

theorem homeStep_dropPartials (s : State) (core line : Nat) : HomeStep s (s.dropPartials core line) := by
  unfold State.dropPartials
  simp only
  split
  · exact .refl s
  · exact (((homeStep_setCore s _ _).trans (HomeStep.foldl _ (fun s e => homeStep_combineAt s _ _ _ _) _ _)).trans
      (homeStep_chargeMem _ _)).trans ⟨rfl, id⟩

theorem homeStep_poison (s : State) (ps : List Nat) : HomeStep s { s with poison := ps } := ⟨rfl, id⟩

theorem homeStep_reread (s : State) (core line : Nat) : HomeStep s (s.reread core line) := by
  unfold State.reread
  simp only
  split
  · exact ⟨rfl, id⟩
  · exact .refl s

/-- Whatever a home does before a write, a pull or a recall, is a home step if the pulls it makes are. -/
theorem homeStep_mergeLine {prep : State → Nat → State} (h : ∀ s l, HomeStep s (prep s l)) (core : Nat) (s : State)
    (l : Line) : HomeStep s (State.mergeLine prep core s l) := by
  unfold State.mergeLine
  split
  · simp only
    exact ((((h s _).trans (homeStep_applyCells _ _)).trans (homeStep_chargeMem _ _)).trans (homeStep_poison _ _)).trans
      (homeStep_reread _ _ _)
  · exact .refl s

theorem homeStep_writeBackIf {prep : State → Nat → State} (h : ∀ s l, HomeStep s (prep s l)) (s : State) (core : Nat)
    (test : Line → Bool) : HomeStep s (s.writeBackIf prep core test) := by
  unfold State.writeBackIf
  simp only
  split
  · exact (homeStep_setCore s _ _).trans (HomeStep.foldl _ (fun s l => homeStep_mergeLine h core s l) _ _)
  · exact .refl s

theorem homeStep_recallWith {pull : State → Nat → State} (h : ∀ s l, HomeStep s (pull s l)) (s : State) (line : Nat) :
    HomeStep s (s.recallWith pull line) := by
  unfold State.recallWith
  split
  · exact .refl s
  · exact ((h s line).trans (HomeStep.foldl _ (fun s c => homeStep_dropPartials s c line) _ _)).trans ⟨rfl, id⟩

theorem homeStep_serveWindow (s : State) (line : Nat) : HomeStep s (s.serveWindow line) :=
  HomeStep.trans (t := { s with
      windows := Tab.drop s.windows line
      flights := s.flights.map fun f =>
        if f.line = line ∧ f.core ∈ Tab.get [] s.windows line ∧ f.data = none then
          { f with data := some (s.homeLine line, s.homePoison line) }
        else f }) ⟨rfl, id⟩ (HomeStep.foldl _ (fun s _ => homeStep_later s _) _ _)

theorem homeStep_closeWith {pull : State → Nat → State} (h : ∀ s l, HomeStep s (pull s l)) (s : State) (line : Nat) :
    HomeStep s (s.closeWith pull line) := by
  unfold State.closeWith
  split
  · exact .refl s
  · exact (((homeStep_recallWith h s line).trans (h _ line)).trans (homeStep_l2Use _ _ _ _)).trans
      (homeStep_serveWindow _ line)

theorem homeStep_prepWith {pull : State → Nat → State} (h : ∀ s l, HomeStep s (pull s l)) (s : State) (line : Nat) :
    HomeStep s (s.prepWith pull line) :=
  (homeStep_closeWith h s line).trans (homeStep_recallWith h _ line)

theorem homeStep_pullN (n : Nat) (s : State) (line : Nat) : HomeStep s (State.pullN n s line) := by
  induction n generalizing s line with
  | zero => exact .refl s
  | succ n ih =>
    exact HomeStep.trans (t := { s with records := Tab.drop s.records line
                                        recordOrder := without s.recordOrder line }) ⟨rfl, id⟩
      (HomeStep.foldl _ (fun s (e : Nat × Nat) => homeStep_writeBackIf (homeStep_prepWith ih) s e.1 _) _ _)

theorem homeStep_pullRecord (s : State) (line : Nat) : HomeStep s (s.pullRecord line) := homeStep_pullN _ s line

theorem homeStep_recallLine (s : State) (line : Nat) : HomeStep s (s.recallLine line) :=
  homeStep_recallWith homeStep_pullRecord s line

theorem homeStep_closeWindow (s : State) (line : Nat) : HomeStep s (s.closeWindow line) :=
  homeStep_closeWith homeStep_pullRecord s line

theorem homeStep_writePrep (s : State) (line : Nat) : HomeStep s (s.writePrep line) :=
  homeStep_prepWith homeStep_pullRecord s line

theorem homeStep_readPrep (s : State) (line : Nat) : HomeStep s (s.readPrep line) :=
  ((homeStep_pullRecord s line).trans (homeStep_recallLine _ line)).trans (homeStep_l2Use _ _ _ _)

theorem homeStep_readArrives (s : State) (line : Nat) : HomeStep s (s.readArrives line) :=
  (homeStep_closeWindow s line).trans (homeStep_readPrep _ line)

theorem homeStep_writeBack (s : State) (core : Nat) (test : Line → Bool) : HomeStep s (s.writeBack core test) :=
  homeStep_writeBackIf homeStep_writePrep s core test

theorem homeStep_homeWrite (s : State) (p : Nat) (bs : List Byte) : HomeStep s (s.homeWrite p bs) :=
  (HomeStep.foldl _ homeStep_writePrep _ _).trans (homeStep_applyCells _ _)

theorem homeStep_homeRead (s : State) (p n : Nat) : HomeStep s (s.homeRead p n).1 :=
  HomeStep.foldl _ homeStep_readArrives _ _

theorem homeStep_sendPartials (s : State) (core line : Nat) : HomeStep s (s.sendPartials core line) := by
  unfold State.sendPartials
  split
  · exact (homeStep_closeWindow s line).trans (homeStep_dropPartials _ core line)
  · exact .refl s

theorem homeStep_flushLines (s : State) (core : Nat) : HomeStep s (s.flushLines core) :=
  (homeStep_writeBack s core _).trans (HomeStep.foldl _ (fun s l => homeStep_sendPartials s core l) _ _)

theorem homeStep_dropFills (s : State) (core : Nat) : HomeStep s (s.dropFills core) := ⟨rfl, id⟩

theorem homeStep_dropL1 (s : State) (core : Nat) : HomeStep s (s.dropL1 core) := ⟨rfl, id⟩

theorem homeStep_invalidateClean (s : State) (core : Nat) : HomeStep s (s.invalidateClean core) := ⟨rfl, id⟩

/-! ## Home slices at rest -/

theorem pullRecord_rest (s : State) (l : Nat) (hr : s.records = []) (ho : s.recordOrder = []) : s.pullRecord l = s := by
  unfold State.pullRecord
  simp only [hr, List.length_nil, State.pullN, Tab.get_nil, List.foldl_nil]
  show { s with records := [], recordOrder := without s.recordOrder l } = s
  simp only [ho, without, List.filter_nil]
  rw [← hr, ← ho]

theorem recallLine_rest (s : State) (l : Nat) (hh : s.holders = []) : s.recallLine l = s := by
  simp [State.recallLine, State.recallWith, hh]

theorem closeWindow_rest (s : State) (l : Nat) (hw : s.windows = []) : s.closeWindow l = s := by
  simp [State.closeWindow, State.closeWith, hw]

theorem writePrep_rest (s : State) (l : Nat) (hh : s.holders = []) (hw : s.windows = []) : s.writePrep l = s :=
  (congrArg (State.recallLine · l) (closeWindow_rest s l hw)).trans (recallLine_rest s l hh)

/-- With no partial registered and no window open, a write at the home is the write of its bytes. -/
theorem homeWrite_rest (s : State) (p : Nat) (bs : List Byte) (hh : s.holders = []) (hw : s.windows = []) :
    s.homeWrite p bs = s.applyCells (cellsAt p bs) := by
  have all (ls : List Nat) : ls.foldl State.writePrep s = s := by
    induction ls with
    | nil => rfl
    | cons l ls ih => simp only [List.foldl_cons, writePrep_rest s l hh hw, ih]
  simp only [State.homeWrite, all]

/-- A write to memory of the device itself, at a home at rest: each byte it covers reads as written, and every other one as
before. -/
theorem homeWrite_byte (s : State) (p : Nat) (bs : List Byte) (hh : s.holders = []) (hw : s.windows = [])
    (hp : p + bs.length ≤ 2 ^ 64) (a : Nat) :
    (s.homeWrite p bs).mem.byte a = if p ≤ a ∧ a < p + bs.length then bs.getD (a - p) 0#8 else s.mem.byte a := by
  rw [homeWrite_rest s p bs hh hw, applyCells_frame, reaching_here s p bs hp]
  simp only [writeCells_cellsAt, Memory.byte_write]

theorem readArrives_rest (s : State) (l : Nat) (hr : s.records = []) (ho : s.recordOrder = []) (hh : s.holders = [])
    (hw : s.windows = []) : s.readArrives l = s.l2Use l false false := by
  simp only [State.readArrives, State.readPrep, closeWindow_rest s l hw, pullRecord_rest s l hr ho, recallLine_rest s l hh]

/-- A read at a home at rest gives the bytes as they stand, and touches the tags of the L2 alone, and what of
flawed cells was met. -/
theorem homeRead_rest (s : State) (p n : Nat) (hr : s.records = []) (ho : s.recordOrder = []) (hh : s.holders = [])
    (hw : s.windows = []) :
    (s.homeRead p n).1 = { s with l2 := (s.homeRead p n).1.l2, zeroLines := (s.homeRead p n).1.zeroLines,
                                  corrected := (s.homeRead p n).1.corrected } ∧
      (s.homeRead p n).2 = s.mem.read p n := by
  have all (ls : List Nat) (t : State) (ht : t = { s with l2 := t.l2, zeroLines := t.zeroLines, corrected := t.corrected }) :
      let u := ls.foldl State.readArrives t
      u = { s with l2 := u.l2, zeroLines := u.zeroLines, corrected := u.corrected } := by
    induction ls generalizing t with
    | nil => exact ht
    | cons l ls ih =>
      simp only [List.foldl_cons]
      have e : t.readArrives l = t.l2Use l false false :=
        readArrives_rest t l (by rw [ht]; exact hr) (by rw [ht]; exact ho) (by rw [ht]; exact hh) (by rw [ht]; exact hw)
      rw [e]
      refine ih _ ?_
      rw [l2Use_frame t l, ht]
  have h := all (linesOf (cellsAt p (List.replicate n 0#8))) s rfl
  refine ⟨h, ?_⟩
  show Memory.read (List.foldl State.readArrives s _).mem p n = _
  rw [h]

/-! ## Bytes of the scratchpads -/

/-- From s to t scratchpad accesses have worked: blocks and what the cores hold may have changed, and waiters at barrier
objects been woken; every scratchpad keeps its form. -/
structure ScratchStep (s t : State) : Prop where
  frame : t = { s with warps := t.warps, blocks := t.blocks, cores := t.cores, flights := t.flights }
  wf : (∀ b, (s.block b).scratch.wf = true) → ∀ b, (t.block b).scratch.wf = true

theorem ScratchStep.refl (s : State) : ScratchStep s s := ⟨rfl, id⟩

theorem ScratchStep.trans {s t u : State} (h : ScratchStep s t) (g : ScratchStep t u) : ScratchStep s u :=
  ⟨g.frame.trans (by rw [h.frame]), fun hw => g.wf (h.wf hw)⟩

theorem ScratchStep.foldl {α : Type} (f : State → α → State) (h : ∀ s a, ScratchStep s (f s a)) (l : List α) (s : State) :
    ScratchStep s (l.foldl f s) := by
  induction l generalizing s with
  | nil => exact .refl s
  | cons a l ih => exact (h s a).trans (ih (f s a))

theorem scratchStep_setCore (s : State) (c : Nat) (x : Core) : ScratchStep s (s.setCore c x) := ⟨rfl, id⟩

theorem scratchStep_setBlock (s : State) (b : Nat) (x : Block)
    (h : (s.block b).scratch.wf = true → x.scratch.wf = true) : ScratchStep s (s.setBlock b x) := by
  refine ⟨rfl, fun hw c => ?_⟩
  rw [State.block_setBlock]
  split
  · exact h (hw b)
  · exact hw c

/-- A wait that ends changes the warp that waited, and nothing else. -/
theorem finishWait_frame (s : State) (t : Turn) (x : Wake) (f : Warp → Warp) :
    s.finishWait t x f = { s with warps := (s.finishWait t x f).warps } := by
  unfold State.finishWait
  simp only
  split <;> rfl

theorem scratchStep_finishWait (s : State) (t : Turn) (x : Wake) (f : Warp → Warp) : ScratchStep s (s.finishWait t x f) := by
  refine ⟨?_, fun h b => ?_⟩
  · rw [finishWait_frame]
  · rw [finishWait_frame]; exact h b

theorem scratchStep_endBowait (s : State) (t : Turn) (done : Bool) : ScratchStep s (s.endBowait t done) := by
  unfold State.endBowait
  split
  · simp only
    split
    · exact ScratchStep.trans (t := s.invalidateClean (coreOfWarp t.warp)) ⟨rfl, id⟩ (scratchStep_finishWait _ _ _ _)
    · exact scratchStep_finishWait _ _ _ _
  · exact .refl s

/-- The waiters that a write wakes: warps and what their cores hold may change, and no byte (R312). -/
theorem scratchStep_wakeObjs (s : State) (b off n : Nat) : ScratchStep s (s.wakeObjs b off n) := by
  refine ScratchStep.foldl _ (fun s t => ?_) _ _
  split
  · exact scratchStep_endBowait s t true
  · exact .refl s

theorem scratchStep_dropSegment (s : State) (core seg : Nat) : ScratchStep s (s.dropSegment core seg) := by
  unfold State.dropSegment
  simp only
  split
  · exact .refl s
  · exact (scratchStep_setCore s _ _).trans (ScratchStep.foldl _ (fun s e =>
      (scratchStep_setBlock s _ _ fun h => Memory.wf_write h _ _).trans (scratchStep_wakeObjs _ _ _ _)) _ _)

theorem scratchStep_recallSegment (s : State) (seg : Nat) : ScratchStep s (s.recallSegment seg) := by
  unfold State.recallSegment
  simp only
  split
  · exact .refl s
  · exact (ScratchStep.foldl _ (fun s c => scratchStep_dropSegment s c seg) _ _).trans (scratchStep_setCore _ _ _)

theorem scratchStep_scratchPrep (s : State) (b off n : Nat) : ScratchStep s (s.scratchPrep b off n) :=
  ScratchStep.foldl _ scratchStep_recallSegment _ _

theorem scratchStep_scratchRead (s : State) (b off n : Nat) : ScratchStep s (s.scratchRead b off n).1 :=
  scratchStep_scratchPrep s b off n

theorem scratchStep_scratchWrite (s : State) (b off : Nat) (bs : List Byte) : ScratchStep s (s.scratchWrite b off bs) :=
  ((scratchStep_scratchPrep s b off bs.length).trans (scratchStep_setBlock _ _ _ fun h => Memory.wf_write h _ _)).trans
    (scratchStep_wakeObjs _ _ _ _)

/-- Waking waiters leaves every block as it stands. -/
theorem wakeObjs_blocks (s : State) (b off n : Nat) : (s.wakeObjs b off n).blocks = s.blocks := by
  have one (s : State) (t : Turn) :
      (if s.objDone ((s.warp t.warp).micro t.slotB).wait then s.endBowait t true else s).blocks = s.blocks := by
    split
    · unfold State.endBowait
      split
      · simp only
        rw [finishWait_frame]
        split <;> rfl
      · rfl
    · rfl
  have all (ts : List Turn) (s : State) : (ts.foldl (fun (s : State) t =>
      if s.objDone ((s.warp t.warp).micro t.slotB).wait then s.endBowait t true else s) s).blocks = s.blocks := by
    induction ts generalizing s with
    | nil => rfl
    | cons t ts ih => exact (ih _).trans (one s t)
  exact all _ s

/-- With no partial registered at the block's core, the access changes nothing before it. -/
theorem scratchPrep_rest (s : State) (b off n : Nat) (h : ∀ c, (s.core c).redHolders = []) : s.scratchPrep b off n = s := by
  have one (seg : Nat) : s.recallSegment seg = s := by simp [State.recallSegment, h]
  have all (ls : List Nat) : ls.foldl State.recallSegment s = s := by
    induction ls with
    | nil => rfl
    | cons l ls ih => simp only [List.foldl_cons, one, ih]
  exact all _

/-- A scratchpad write at rest: each byte it covers reads as written, and every other byte of every block as before. -/
theorem scratchWrite_byte (s : State) (b off : Nat) (bs : List Byte) (h : ∀ c, (s.core c).redHolders = []) (c a : Nat) :
    ((s.scratchWrite b off bs).block c).scratch.byte a =
      if c = b ∧ off ≤ a ∧ a < off + bs.length then bs.getD (a - off) 0#8 else (s.block c).scratch.byte a := by
  unfold State.scratchWrite State.block
  rw [scratchPrep_rest s b off bs.length h]
  simp only [wakeObjs_blocks]
  show ((State.setBlock s b _).block c).scratch.byte a = if _ then _ else (s.block c).scratch.byte a
  simp only [State.block_setBlock]
  by_cases hc : c = b
  · subst hc; simp [Memory.byte_write, State.block]
  · simp [hc, State.block]

/-- A stack scratchpad write: each byte it covers reads as written, every other byte of every stack as before, and the
form is kept. -/
theorem stackWrite_byte (s : State) (k off : Nat) (bs : List Byte) (c a : Nat) :
    ((s.stackWrite k off bs).stack c).bytes.byte a =
      if c = k ∧ off ≤ a ∧ a < off + bs.length then bs.getD (a - off) 0#8 else (s.stack c).bytes.byte a := by
  unfold State.stackWrite
  simp only [State.stack_setStack]
  by_cases hc : c = k
  · subst hc; simp [Memory.byte_write]
  · simp [hc]

theorem stackWrite_wf (s : State) (k off : Nat) (bs : List Byte) (h : ∀ c, (s.stack c).bytes.wf = true) (c : Nat) :
    ((s.stackWrite k off bs).stack c).bytes.wf = true := by
  unfold State.stackWrite
  simp only [State.stack_setStack]
  split
  · exact Memory.wf_write (h k) _ _
  · exact h c

theorem stackWrite_frame (s : State) (k off : Nat) (bs : List Byte) :
    s.stackWrite k off bs = { s with stackMem := (s.stackWrite k off bs).stackMem } := rfl

/-- The memories of the state after reset list nothing, and have their form. -/
theorem reset_mem_wf : State.reset.mem.wf = true ∧ (∀ b, (State.reset.block b).scratch.wf = true) ∧
    (∀ k, (State.reset.stack k).bytes.wf = true) ∧ State.reset.mailbox.data.wf = true :=
  ⟨rfl, fun _ => rfl, fun _ => rfl, rfl⟩

/-! ## Traps -/

/-- From s to t warps may have stopped, begun to demote or given a context of the RE back, blocks begun a save and launches
a rollback; no register and no control state of any warp has changed, and no byte of any memory. -/
structure StopStep (s t : State) : Prop where
  frame : t = { s with agenda := t.agenda, warps := t.warps, blocks := t.blocks, cores := t.cores, launches := t.launches }
  warp : ∀ k, (t.warp k).regs = (s.warp k).regs ∧ (t.warp k).ctl = (s.warp k).ctl ∧ (t.warp k).block = (s.warp k).block ∧
    (t.warp k).idx = (s.warp k).idx ∧ (t.warp k).pend = (s.warp k).pend ∧ (t.warp k).dsp = (s.warp k).dsp
  block : ∀ b, t.block b = { s.block b with saving := (t.block b).saving }
  core : ∀ c, t.core c = { s.core c with reWarps := (t.core c).reWarps }

theorem StopStep.refl (s : State) : StopStep s s := ⟨rfl, fun _ => ⟨rfl, rfl, rfl, rfl, rfl, rfl⟩, fun _ => rfl, fun _ => rfl⟩

theorem StopStep.trans {s t u : State} (h : StopStep s t) (g : StopStep t u) : StopStep s u := by
  refine ⟨g.frame.trans (by rw [h.frame]), fun k => ?_, fun b => (g.block b).trans (by rw [h.block b]),
    fun c => (g.core c).trans (by rw [h.core c])⟩
  obtain ⟨a1, a2, a3, a4, a5, a6⟩ := h.warp k
  obtain ⟨b1, b2, b3, b4, b5, b6⟩ := g.warp k
  exact ⟨b1.trans a1, b2.trans a2, b3.trans a3, b4.trans a4, b5.trans a5, b6.trans a6⟩

theorem StopStep.foldl {α : Type} (f : State → α → State) (h : ∀ s a, StopStep s (f s a)) (l : List α) (s : State) :
    StopStep s (l.foldl f s) := by
  induction l generalizing s with
  | nil => exact .refl s
  | cons a l ih => exact (h s a).trans (ih (f s a))

theorem stopStep_later (s : State) (i : Instr) : StopStep s (s.later i) :=
  ⟨rfl, fun _ => ⟨rfl, rfl, rfl, rfl, rfl, rfl⟩, fun _ => rfl, fun _ => rfl⟩

theorem stopStep_setWarp (s : State) (k : Nat) (w : Warp) (h : w.regs = (s.warp k).regs ∧ w.ctl = (s.warp k).ctl ∧
    w.block = (s.warp k).block ∧ w.idx = (s.warp k).idx ∧ w.pend = (s.warp k).pend ∧ w.dsp = (s.warp k).dsp) :
    StopStep s (s.setWarp k w) := by
  refine ⟨rfl, fun j => ?_, fun _ => rfl, fun _ => rfl⟩
  rw [State.warp_setWarp]
  split
  · next e => subst e; exact h
  · exact ⟨rfl, rfl, rfl, rfl, rfl, rfl⟩

theorem stopStep_freeContext (s : State) (c k : Nat) : StopStep s (s.freeContext c k) := by
  have h : StopStep s (s.setCore c { s.core c with reWarps := without (s.core c).reWarps k }) := by
    refine ⟨rfl, fun _ => ⟨rfl, rfl, rfl, rfl, rfl, rfl⟩, fun _ => rfl, fun d => ?_⟩
    rw [State.core_setCore]
    split
    · next e => subst e; rfl
    · rfl
  unfold State.freeContext
  simp only
  cases leastBy _ _ with
  | none => exact h
  | some j => exact h.trans (stopStep_later _ _)

theorem stopStep_demote (s : State) (k : Nat) : StopStep s (s.demote k) := by
  unfold State.demote
  simp only
  split
  · exact .refl s
  · split
    · exact StopStep.trans (stopStep_setWarp s k _ (by exact ⟨rfl, rfl, rfl, rfl, rfl, rfl⟩)) (stopStep_freeContext _ _ _)
    · exact .refl s
  · exact StopStep.trans (stopStep_setWarp s k _ (by exact ⟨rfl, rfl, rfl, rfl, rfl, rfl⟩)) (stopStep_later _ _)

theorem stopStep_haltAtBoundary (s : State) (k : Nat) : StopStep s (s.haltAtBoundary k) := by
  unfold State.haltAtBoundary
  simp only
  split
  · exact stopStep_demote s k
  split
  · exact StopStep.trans (stopStep_setWarp s k _ (by exact ⟨rfl, rfl, rfl, rfl, rfl, rfl⟩)) (stopStep_demote _ _)
  · exact .refl s

theorem stopStep_startSaveOne (s : State) (r : SaveReason) (b : Nat) : StopStep s (s.startSaveOne r b) := by
  unfold State.startSaveOne
  simp only
  refine StopStep.trans ?_ ((StopStep.foldl _ stopStep_haltAtBoundary _ _).trans (stopStep_later _ _))
  refine ⟨rfl, fun _ => ⟨rfl, rfl, rfl, rfl, rfl, rfl⟩, fun c => ?_, fun _ => rfl⟩
  rw [State.block_setBlock]
  split
  · next e => subst e; rfl
  · rfl

/-- A save begins: warps may halt at their packet boundaries, and the blocks take their reason (R385). -/
theorem stopStep_startSave (s : State) (b : Nat) (r : SaveReason) : StopStep s (s.startSave b r) :=
  StopStep.foldl _ (fun s y => stopStep_startSaveOne s r y) _ _

theorem stopStep_stopLaunch (s : State) (l : Nat) : StopStep s (s.stopLaunch l) := by
  unfold State.stopLaunch
  refine StopStep.foldl _ (fun s e => ?_) _ _
  split
  · exact stopStep_haltAtBoundary s _
  · exact .refl s

theorem stopStep_undo (s : State) (l : Nat) : StopStep s (s.undo l) :=
  StopStep.trans (t := s.setLaunch l { s.launch l with undoing := true })
    ⟨rfl, fun _ => ⟨rfl, rfl, rfl, rfl, rfl, rfl⟩, fun _ => rfl, fun _ => rfl⟩ ((stopStep_stopLaunch _ l).trans (stopStep_later _ _))

/-- Taking a trap (R381, R385): no register, no control state and no byte of memory changes. -/
theorem stopStep_takeTrap (s : State) (t : Turn) (i : TrapInfo) : StopStep s (s.takeTrap t i) := by
  have h : StopStep s (((s.setWarp t.warp ((s.warp t.warp).trapped t.slotB i)).demote t.warp).startSave
      (s.warp t.warp).block .trap) := by
    refine ((stopStep_setWarp s _ _ ?_).trans (stopStep_demote _ _)).trans (stopStep_startSave _ _ _)
    refine ⟨?_, ?_, ?_, ?_, ?_, ?_⟩ <;> cases t with | mk k b => cases b <;> rfl
  unfold State.takeTrap
  simp only
  split
  · exact h.trans (stopStep_undo _ _)
  · exact h

theorem stopStep_trap (s : State) (c : Cause) (ta : Word) : StopStep s (s.trap c ta) := stopStep_takeTrap s _ _

theorem stopStep_trapHere (s : State) (c : Cause) : StopStep s (s.trapHere c) := stopStep_takeTrap s _ _

end Sys2Proof.Machine
end

