-- ==== Sys2Proof/Laws/Writes.lean ====
section
/-! SUPPORT. What the shared endings of the register instructions do, said once in the words of the statements: a meaning
that ends in putS, putV or putP writes that register and nothing else of the machine. -/

namespace Sys2Proof.Laws

open Sys2Proof Sys2Proof.Machine Sys2Proof.Claims

/-- Storing new registers into the issuing warp touches nothing but registers. -/
theorem onlyRegisters_setCw (s : State) (g : Regs) (l : Latch) :
    OnlyRegisters s (s.setCw { s.cw with regs := g, latch := l }) := by
  refine ⟨rfl, fun k hk => State.setCw_warp_ne _ _ hk, ?_, ⟨fun _ => rfl, fun _ _ => rfl, fun _ _ => rfl⟩⟩
  simp

/-- A meaning that ends in putS writes that s-register and nothing else (R24, R168). -/
theorem writesS_of_putS {i : Instr} {s : State} {r : Nat} {x : Word} (h : exec i s = .next (s.putS r x)) :
    WritesS i s r x := by
  refine ⟨_, h, onlyRegisters_setCw s _ _, fun q => ?_, ?_, ?_, ?_⟩
  · simp [sReg, State.putS, Warp.putS, Tab.get_put]
  all_goals simp [State.putS, Warp.putS]

/-- A meaning that ends in putV writes the acting lanes of that v-register and nothing else (R23, R39). -/
theorem writesV_of_putV {i : Instr} {s : State} {r : Nat} {act f} (h : exec i s = .next (s.putV r act f)) :
    WritesV i s r act f := by
  refine ⟨_, h, onlyRegisters_setCw s _ _, fun q l hl => ?_, ?_, ?_, ?_⟩
  · simp only [vReg, State.putV, State.setCw_cw, Warp.putV_get _ _ _ _ _ hl]
  all_goals simp [State.putV, Warp.putV]

/-- A meaning that ends in putP writes the acting lanes of that p-register and nothing else, p0 never (R25). -/
theorem writesP_of_putP {i : Instr} {s : State} {r : Nat} {act f} (h : exec i s = .next (s.putP r act f)) :
    WritesP i s r act f := by
  refine ⟨_, h, ?_, fun q l hl => ?_, ?_, ?_, ?_⟩
  · unfold State.putP Warp.putP
    split
    · exact onlyRegisters_setCw s s.cw.regs s.cw.latch
    · exact onlyRegisters_setCw s _ _
  · unfold pBit State.putP
    rw [State.setCw_cw]
    by_cases hr : r = 0
    · subst hr; simp [Warp.putP_zero]
    · by_cases hq : q = r
      · subst hq
        have h0 : (q == 0) = false := by simpa using hr
        rw [Warp.putP_get _ _ _ _ hr hl, h0]
        by_cases ha : act l = true <;> simp [ha, hr]
      · rw [Warp.putP_get_ne _ _ _ _ hq]; simp [hq]
  all_goals (unfold State.putP Warp.putP; split <;> simp)

/-- A guarded scalar word that is taken writes its destination (R39, R168). -/
theorem scalar_taken {s : State} {h : Hdr} {d : BitVec 6} {x : Word} (ht : s.taken h = true) :
    s.scalar h d x = .next (s.putS d.toNat x) := by
  simp [State.scalar, ht]

/-- The immediate of a word behind the prefixes that wait for it (R49). -/
theorem imm_eq_immediate (s : State) (i : BitVec 6) : s.imm i = immediate s.mic.pfx i := by
  unfold State.imm immediate immBits immWidth sextNat
  match s.mic.pfx with
  | [] => simp only [BitVec.toInt_eq_toNat_cond]; split <;> split <;> omega
  | [p] =>
    have hp := p.isLt; have hi := i.isLt
    simp only [BitVec.toInt_eq_toNat_cond, BitVec.toNat_append]
    rw [← Nat.shiftLeft_add_eq_or_of_lt (by omega), Nat.shiftLeft_eq]
    have e : (p.toNat * 64 + i.toNat) % 2 ^ 24 = p.toNat * 2 ^ 6 + i.toNat := by omega
    rw [e]; split <;> split <;> omega
  | p :: q :: _ =>
    have hp := p.isLt; have hi := i.isLt; have hq := q.isLt
    simp only [BitVec.toInt_eq_toNat_cond, BitVec.toNat_append]
    rw [← Nat.shiftLeft_add_eq_or_of_lt (a := q.toNat) (by omega), ← Nat.shiftLeft_add_eq_or_of_lt (by omega),
      Nat.shiftLeft_eq, Nat.shiftLeft_eq]
    split <;> split <;> omega

end Sys2Proof.Laws
end

