-- ==== Sys2Proof/Tests/Slice0.lean ====
section
/-! SUPPORT. Tests of the model against what the spec prints: ill-formed terms that the checks refuse, words written out
from the encodings, and the results of the spec's worked examples. -/

namespace Sys2Proof.Tests

set_option Elab.async false

open Sys2Proof Sys2Proof.Machine Sys2Proof.Claims

set_option maxRecDepth 100000

/-! ## WellFormed: an ill-formed term for each check, and a neighbour that passes -/

def never : Hdr := { c := false, u := false, n := true, p := 0#3 }
def reuse : Hdr := { c := false, u := true, n := false, p := 0#3 }
def p0 : Hdr := under 0#3

/-- N = 1 with P = 0 (R39); U = 1 where field a names no register (R52). -/
theorem test_wf_header : (Instr.sadd never 1#6 2#6 3#6).wf = false ∧ (Instr.sadd reuse 1#6 2#6 3#6).wf = true ∧
    (Instr.ret reuse).wf = false ∧ (Instr.ret p0).wf = true ∧ (Instr.trap reuse 0#6 1#6).wf = false ∧
    (Instr.trap reuse 4#6 1#6).wf = true := by decide

/-- Pairs start even and quads at a multiple of 4 (R46). -/
theorem test_wf_groups : (Instr.vpack p0 3#6 1#6 2#6).wf = false ∧ (Instr.unpackNibbles p0 2#6 5#6).wf = false ∧
    (Instr.unpackHighBits p0 6#6 1#6).wf = false ∧ (Instr.ldg p0 2#2 5#6 1#6 0#3).wf = false ∧
    (Instr.ldg p0 3#2 6#6 1#6 0#3).wf = false ∧ (Instr.ldbQ p0 7#6 1#6 0#3).wf = false ∧
    (Instr.wld p0 9#6 4#6).wf = false ∧ (Instr.cp p0 8#6 11#6 12#6).wf = false ∧ (Instr.unpackHighBits p0 8#6 1#6).wf = true ∧
    (Instr.ldg p0 3#2 8#6 1#6 0#3).wf = true := by decide

/-- Codes that the rules reserve: a standard descriptor above 20, an operation of `red` above 5, a width code above 3, a
scope above 4, a target 3 of `prf`, an element width above 3 of `ldrag` (R106, R186, R196, R270, R271, R300). -/
theorem test_wf_codes : (Instr.setnfCode p0 1#2 21#6).wf = false ∧ (Instr.setnfCode p0 1#2 20#6).wf = true ∧
    (Instr.red p0 1#6 2#6 0#1 6#3 0#2).wf = false ∧ (Instr.scan p0 1#6 2#6 0#1 7#3 0#2).wf = false ∧
    (Instr.vclz p0 1#6 2#6 4#3).wf = false ∧ (Instr.vlane p0 1#6 4#3).wf = false ∧ (Instr.fenceSc p0 5#3).wf = false ∧
    (Instr.prf p0 0#4 3#2 1#6 0#3).wf = false ∧ (Instr.ldrag p0 2#6 1#6 4#3 0#3).wf = false := by decide

/-- Device steps name units that exist. -/
theorem test_wf_units : (Instr.blockPlace 0 256).wf = false ∧ (Instr.queueDoorbell 0 0 64 0).wf = false ∧
    (Instr.queueDoorbell 2 0 0 0).wf = false ∧ (Instr.statusRead 0 4).wf = false ∧ (Instr.inval 0 4096 0 0 0).wf = false ∧
    (Instr.sleepExpire 12288).wf = false ∧ (Instr.blockExit 4096).wf = false ∧ (Instr.phaseStepDown 4 0).wf = false ∧
    (Instr.phaseStepUp 0 4).wf = false ∧ (Instr.infieldTestDue 64).wf = false ∧ (Instr.copyPiece 0 2).wf = false := by decide

/-- Link events name links, lanes, routers and attempts that exist (R13, R15, R373, R405). -/
theorem test_wf_links : (Instr.laneLoss (.dieToDie 0 3) 0).wf = false ∧ (Instr.laneLoss (.dieToDie 0 0) 64).wf = false ∧
    (Instr.laneLoss (.dieToDie 3 2) 63).wf = true ∧ (Instr.laneLoss (.domain 0) 16).wf = false ∧
    (Instr.linkRetrainComplete (.domain 12)).wf = false ∧ (Instr.linkLevelRetry (.mesh 0 16 0 0 none) 1 true).wf = false ∧
    (Instr.linkLevelRetry (.mesh 0 15 1 0 none) 5 true).wf = true ∧
    (Instr.linkLevelRetry (.mesh 0 15 1 0 none) 6 true).wf = false ∧
    (Instr.linkLevelRetry (.domain 0) 6 true).wf = true ∧
    (Instr.releaseRecord (.inbound 0 256) 0 0 []).wf = false := by decide

/-! ## Decoding words that the spec prints (R45, R51) -/

/-- The instruction of four bytes in memory order. -/
def read4 (w : W32) : Option Instr := ((decode (leBytes w.toNat 4)).toOption).map (·.1)

theorem test_decode_control : read4 0x04080004#32 = some (.bra (under 1#3) 4#18) ∧ read4 0x0018000B#32 = some (.rcv false 11#18) ∧
    read4 0x001C0000#32 = some (.join false) ∧ read4 0x0030503D#32 = some (.loop p0 5#6 61#6) ∧
    read4 0x003C0001#32 = some (.nprOn p0) ∧ read4 0x0040400C#32 = some (.sreg p0 4#6 0#6 12#6) := by decide +kernel

theorem test_decode_system : read4 0x002400C1#32 = some (.trap p0 3#6 1#6) ∧ read4 0x00280005#32 = some (.brk p0 5#6) ∧
    read4 0x005C0002#32 = some (.svc p0 0#6 2#6) ∧ read4 0x00580000#32 = some (.stop p0) ∧
    read4 0x0048200E#32 = some (.setnfCode p0 2#2 14#6) ∧ read4 0x004861C0#32 = some (.setnfReg p0 2#2 7#6) ∧
    read4 0x004C1083#32 = some (.post p0 1#6 2#6 3#6) := by decide +kernel

theorem test_decode_scalar : read4 0x0004061A#32 = some (.imx 0x61A#18) ∧ read4 0x00903120#32 = some (.saddi p0 3#6 4#6 32#6) ∧
    read4 0x006030C4#32 = some (.sadd p0 3#6 3#6 4#6) ∧ read4 0x0094200F#32 = some (.smovi p0 2#6 15#6) ∧
    read4 0x00D70000#32 = some (.bufld p0 48#6 0#6 0#6) ∧ read4 0x00D02000#32 = some (.sst p0 2#6 0#6 0#3) := by decide +kernel

theorem test_decode_vector : read4 0xC8E440C2#32 = some (.vadd { c := true, u := true, n := false, p := 2#3 } 1#2 4#6 3#6 2#6) ∧
    read4 0x01045086#32 = some (.vmul p0 1#2 5#6 2#6 6#6) ∧ read4 0x018C4042#32 = some (.vamin p0 3#2 4#6 1#6 2#6) ∧
    read4 0x014DA101#32 = some (.vcmp p0 3#2 3#3 2#3 4#6 1#6) ∧
    read4 0x021C61C5#32 = some (.vcvt p0 6#6 7#6 0#2 1#2 1#2) := by decide +kernel

theorem test_decode_lanes : read4 0x02845240#32 = some (.rsqrt p0 5#6 9#6 0#2) ∧ read4 0x02A44081#32 = some (.exd p0 4#6 2#6 1#2) ∧
    read4 0x02C47192#32 = some (.shfli p0 7#6 6#6 18#6) ∧ read4 0x02D080C1#32 = some (.red p0 8#6 3#6 0#1 0#3 1#2) ∧
    read4 0x02D490C1#32 = some (.scan p0 9#6 3#6 0#1 0#3 1#2) := by decide +kernel

theorem test_decode_memory : read4 0x03344081#32 = some (.ldg p0 1#2 4#6 2#6 1#3) ∧
    read4 0x03403168#32 = some (.stl p0 0#2 3#6 5#6 5#3 0#3) ∧ read4 0x03808002#32 = some (.ldbD p0 8#6 0#6 2#3) ∧
    read4 0x03B86052#32 = some (.ldrag p0 6#6 1#6 2#3 2#3) ∧ read4 0x03BCC003#32 = some (.prf p0 3#4 0#2 0#6 3#3) ∧
    read4 0x037050C2#32 = some (.stg p0 0#2 5#6 3#6 2#3) := by decide +kernel

theorem test_decode_sync : read4 0x03884081#32 = some (.atomg p0 4#6 2#6 1#3) ∧ read4 0x03945002#32 = some (.redg p0 5#6 0#6 2#3) ∧
    read4 0x039C0011#32 = some (.fenceAr p0 1#3) ∧ read4 0x03AC6081#32 = some (.bowait p0 6#6 2#6 0#2 1#3) ∧
    read4 0x03A440DA#32 = some (.bomark p0 4#6 3#6 3#2 2#3) ∧ read4 0x03B40000#32 = some (.bar p0 0#6 0#4) ∧
    read4 0x03B401C1#32 = some (.bar p0 7#6 1#4) := by decide +kernel

theorem test_decode_tiles : read4 0x03C14598#32 = some (.cp p0 20#6 22#6 24#6) ∧ read4 0x03C4828C#32 = some (.cpm p0 8#6 10#6 12#6) ∧
    read4 0x03C88100#32 = some (.wld p0 8#6 4#6) ∧ read4 0x03D0A100#32 = some (.mma p0 10#6 4#6) ∧
    read4 0x03D8C105#32 = some (.aread p0 12#6 4#6 5#6) ∧
    read4 0x03E14598#32 = some (.ttr p0 20#6 22#6 24#6) ∧ read4 0x03E40180#32 = some (.tscl p0 6#6) := by decide +kernel

theorem test_decode_baton : read4 0x03EC0000#32 = some (.batonTake p0) ∧ read4 0x03EC0001#32 = some (.batonGive p0) ∧
    read4 0x03EC7002#32 = some (.batonTry p0 7#6) ∧ read4 0x03F00000#32 = some (.rwctlOff p0) ∧
    read4 0x03F00001#32 = some (.rwctlOn p0) ∧ read4 0x03F00143#32 = some (.rwctlMask p0 5#6) ∧
    read4 0x03F07184#32 = some (.rwctlCnt p0 7#6 6#6) := by decide +kernel

/-- The name under which a word is refused. -/
def refusal (w : W32) : Option DecodeError :=
  match decodeWord w with
  | .ok _ => none
  | .error e => some e

/-- A reserved opcode, a set unused bit, an odd pair and a word of guard N = 1, P = 0 are refused, each by its name. -/
theorem test_decode_refuses : refusal 0x00D80000#32 = some .reserved ∧ refusal 0x03F80000#32 = some .reserved ∧
    refusal 0x00200001#32 = some .unusedField ∧ refusal 0x02203000#32 = some .illFormed ∧
    refusal 0x206030C4#32 = some .illFormed ∧ (decode [0#8, 0#8, 0#8]).toOption = none := by decide +kernel

/-! ## A small state: one warp of a loaded program on core 0 -/

/-- The first step after reset issues the word that stands in memory. -/
def loaded : State := State.reset.withFetchWord 32 0

/-- The warp with registers that its chain group reads and finds. -/
def withRegs (r : Regs) (s : State) : State :=
  s.setCw { s.cw with regs := r, ma := { s.mic with src := r, mid := true } }

/-- Registers given one by one: words of s-registers, words of lanes, lane masks and descriptors. -/
def regs (ss : List (Nat × Word)) (vs : List (Nat × Nat × Word)) (ps : List (Nat × W32)) : Regs :=
  { s := ss, v := vs.foldl (fun t e => Tab.put t (32 * e.1 + e.2.1) e.2.2) [], p := ps }

/-- The small state with some registers. -/
def state (ss : List (Nat × Word)) (vs : List (Nat × Nat × Word)) (ps : List (Nat × W32)) : State :=
  withRegs { regs ss vs ps with nf := [(0, Config.standardOf 11), (1, Config.standardOf 13), (2, Config.standardOf 14),
    (3, Config.standardOf 6)] } loaded

/-- The state with a prefix before the word. -/
def prefixed (x : BitVec 18) (s : State) : State := s.setMic { s.mic with pfx := [x] }

/-- The state after an instruction. -/
def after (i : Instr) (s : State) : State :=
  match exec i s with
  | .next t => t
  | _ => s

/-- The cause that the warp has recorded, if it has stopped. -/
def trapOf (s : State) : Option (Nat × Nat) :=
  if s.cw.stat = .stopped then some (s.cw.cause.toNat, s.cw.taddr.toNat) else none

/-! ## Results that the spec works out -/

/-- R168: division by zero, a wrap, and shifts by 64 or more. -/
theorem test_scalar : let s := state [(1, 7#64), (3, 70#64), (4, 0x8000000000000000#64)] [] []
    sReg (after (.sdivu p0 2#6 1#6 2#6) s) 2 = 0xFFFFFFFFFFFFFFFF#64 ∧ sReg (after (.sremu p0 2#6 1#6 2#6) s) 2 = 7#64 ∧
    sReg (after (.ssub p0 1#6 2#6 1#6) s) 1 = 0xFFFFFFFFFFFFFFF9#64 ∧ sReg (after (.sshl p0 2#6 1#6 3#6) s) 2 = 0#64 ∧
    sReg (after (.ssar p0 2#6 4#6 3#6) s) 2 = 0xFFFFFFFFFFFFFFFF#64 ∧ sReg (after (.sclz p0 2#6 1#6) s) 2 = 61#64 := by
  decide +kernel

/-- R49's example: `saddi s3, s4, 100000` behind its prefix; R169: `smask` by 0. -/
theorem test_immediates : let s := state [(4, 5#64)] [] []
    sReg (after (.saddi p0 3#6 4#6 32#6) (prefixed 0x61A#18 s)) 3 = 100005#64 ∧
    sReg (after (.smovi p0 3#6 61#6) s) 3 = 0xFFFFFFFFFFFFFFFD#64 ∧ sReg (after (.smask p0 3#6 4#6 0#6) s) 3 = 5#64 ∧
    sReg (after (.smask p0 3#6 4#6 2#6) s) 3 = 1#64 := by decide +kernel

/-- A word whose guard no lane meets has no effect (R40). -/
theorem test_guard : let s := state [(1, 1#64), (2, 2#64)] [] [(3, 0#32)]
    sReg (after (.sadd (under 3#3) 1#6 1#6 2#6) s) 1 = 1#64 ∧
    sReg (after (.sadd { under 3#3 with n := true } 1#6 1#6 2#6) s) 1 = 3#64 ∧
    trapOf (after (.vadd (under 3#3) 0#2 1#6 2#6 3#6) s) = none := by decide +kernel

/-- R177, R181: the example of `amin.3` and `cmp.3.lt`; R148: i32 wraps. -/
theorem test_vector_int :
    let s := state [] [(1, 0, 0x0000000700000003#64), (2, 0, 0x0000000100000001#64), (4, 0, 0x0000000600000005#64)] []
    vReg (after (.vamin p0 3#2 4#6 1#6 2#6) s) 4 0 = 0x0000000600000004#64 ∧
    vReg (after (.vadd p0 3#2 4#6 1#6 2#6) s) 4 0 = 0x0000000800000004#64 ∧
    pBit (after (.vcmp p0 3#2 3#3 2#3 4#6 1#6) (after (.vamin p0 3#2 4#6 1#6 2#6) s)) 3 0 = false := by decide +kernel

/-- R184's example of `cvt`, and the FORMAT trap of its part 2. -/
theorem test_cvt : let s := state [] [(7, 0, 0x439600003F800000#64)] []
    vReg (after (.vcvt p0 6#6 7#6 0#2 1#2 1#2) s) 6 0 = 0x43963F8000000000#64 ∧
    (trapOf (after (.vcvt p0 6#6 7#6 0#2 1#2 2#2) s)).map (·.1) = some 4 := by decide +kernel

/-- R187's example of `perm`. -/
theorem test_perm : let s := state [] [(1, 0, 0x1122334455667788#64), (2, 0, 0x8080808007060504#64)] []
    vReg (after (.vperm p0 3#6 1#6 2#6) s) 3 0 = 0x0000000011223344#64 := by decide +kernel

/-- R152 to R158, R163: worked conversions. -/
theorem test_conversions :
    let e4m3 := nfOf (Config.standardOf 14)
    let fp := nfOf (Config.standardOf 11)
    roundVal e4m3 (decodeElem fp 0x43960000) = 0x79 ∧ roundVal e4m3 (decodeElem fp 0x447A0000) = 0x7E ∧
    roundVal (nfOf (Config.standardOf 15)) (decodeElem fp 0x447A0000) = 0x64 ∧ roundVal fp (Val.ofInt 16777217) = 0x4B800000 ∧
    roundVal (nfOf (Config.standardOf 19)) (decodeElem fp 0x3E940000) = 0x52 ∧
    roundVal (nfOf (Config.standardOf 13)) (decodeElem (nfOf (Config.standardOf 19)) 0xE5) = 0xBF28 ∧
    roundVal (nfOf (Config.standardOf 20)) (decodeElem fp 0x3DB851EC) = 0x7B ∧
    roundVal (nfOf (Config.standardOf 12)) (decodeElem (nfOf (Config.standardOf 18)) 0xB) = 0xBE00 := by decide +kernel

/-- R190's example of `exd.1`, an exact power of two; R193's example of `shfli`. -/
theorem test_lanes :
    let s := state [] [(2, 0, 0x4040#64), (4, 0, 0x40A0#64), (6, 0, 0x0000000B0000000A#64), (6, 1, 0x0000000D0000000C#64)] []
    field (vReg (after (.exd p0 4#6 2#6 1#2) s) 4 0) 16 0 = 0x3E80 ∧
    vReg (after (.shfli p0 7#6 6#6 18#6) s) 7 1 = 0x0000000C0000000B#64 ∧
    vReg (after (.shfli p0 7#6 6#6 18#6) s) 7 0 = 0x0000000A00000000#64 := by decide +kernel

/-- R197, R198: the example of `red.add.1` and `scan.add.1`, with lanes 0 to 3 active. -/
theorem test_reductions :
    let s := state [] [(3, 0, 0x4380#64), (3, 1, 0x3F80#64), (3, 2, 0x3F80#64), (3, 3, 0xC380#64)] [(1, 0xF#32)]
    vReg (after (.red (under 1#3) 8#6 3#6 0#1 0#3 1#2) s) 8 0 = 0x3F80#64 ∧
    vReg (after (.scan (under 1#3) 9#6 3#6 0#1 0#3 1#2) s) 9 0 = 0x4380438043804380#64 ∧
    vReg (after (.scan (under 1#3) 9#6 3#6 0#1 0#3 1#2) s) 9 3 = 0#64 := by decide +kernel

/-- R99: the divergence of the example's packet 21: the taken lanes take slot B at the target. -/
theorem test_branch : let s := state [] [] [(1, 0x0000FFFF#32)]
    ((after (.bra (under 1#3) 4#18) s).cw.pend.map fun p => (p.ctl.a.pc, p.ctl.a.mask, p.ctl.b.pc, p.ctl.b.mask)) =
      some (1, 0xFFFF0000#32, 4, 0x0000FFFF#32) := by decide +kernel

/-- R100: `loop` counts down and stays until zero; `call` writes s63. -/
theorem test_loop : let s := state [(5, 1#64), (6, 9#64)] [] []
    sReg (after (.loop p0 6#6 3#6) s) 6 = 8#64 ∧ ((after (.loop p0 6#6 3#6) s).cw.pend.map fun p => p.ctl.a.pc) = some 3 ∧
    ((after (.loop p0 5#6 3#6) s).cw.pend.map fun p => p.ctl.a.pc) = some 1 ∧
    trapOf (after (.loop p0 6#6 61#6) s) = some (6, 0x100000) ∧
    sReg (after (.call p0 3#18) s) 63 = 1#64 := by decide +kernel

/-- R147: `setnf` of code 14 loads e4m3; an invalid descriptor traps FORMAT. -/
theorem test_setnf : let s := state [(7, 0x7#64)] [] []
    nfReg (after (.setnfCode p0 3#2 14#6) s) 3 = 0x0000004200E1A082#64 ∧
    (trapOf (after (.setnfReg p0 2#2 7#6) s)).map (·.1) = some 4 := by decide +kernel

/-- R381: `trap s3, 1` records SOFTWARE with S[3] + 1 and its own address. -/
theorem test_trap : let t := after (.trap p0 3#6 1#6) (state [(3, 0x40#64)] [] [])
    trapOf t = some (0x0C, 0x41) ∧ t.cw.waddr = 0x100000#64 ∧ t.cw.pass = true ∧ (t.block 0).saving = some .trap := by
  decide +kernel

/-- R258, R259: a store through swizzle 5 is read back through it; a misaligned lane traps ALIGN. -/
theorem test_scratch : let s := state [] [(5, 0, 0x1234#64), (3, 0, 0xA1B2C3D4#64), (6, 0, 2#64)] [(1, 1#32)]
    let t := after (.stl (under 1#3) 0#2 3#6 5#6 5#3 0#3) s
    vReg (after (.ldl (under 1#3) 0#2 4#6 5#6 5#3 0#3) t) 4 0 = 0xA1B2C3D4#64 ∧
    trapOf (after (.ldl (under 1#3) 0#2 4#6 6#6 0#3 0#3) s) = some (5, 2) := by decide +kernel

/-- R312, R313: the last arrival of a phase completes it: the phase turns and arr takes the count again. -/
theorem test_object : let s := state [(1, 1#64)] [] []
    let t := after (.boset p0 1#6 0#6 0#2 0#3) s
    let u := after (.bomark p0 4#6 0#6 0#2 0#3) t
    (t.block 0).scratch.num 0 8 = objectWord 0 0 1 1 ∧ (u.block 0).scratch.num 0 8 = objectWord 1 0 1 1 ∧ sReg u 4 = 0#64 ∧
    trapOf (after (.boset p0 2#6 0#6 0#2 0#3) s) = some (6, 0) := by decide +kernel

/-- R293, R297: lanes that meet at one word are applied in ascending order, each with the value it met. -/
theorem test_atomics : let s := prefixed 0#18 (state [] [(4, 0, 5#64), (4, 1, 7#64)] [(1, 3#32)])
    let t := after (.atoml (under 1#3) 4#6 5#6 0#3 0#3) s
    vReg t 4 0 = 0#64 ∧ vReg t 4 1 = 5#64 ∧ (t.block 0).scratch.num 0 4 = 12 := by decide +kernel

/-- R210's example: the groups of a sum are rounded one by one, to 2^24. -/
theorem test_accumulate :
    accFloat (nfOf (Config.standardOf 13)) (nfOf (Config.standardOf 13))
      (fun i => if i = 0 then 0x4B80 else if i = 1 ∨ i = 32 then 0x3F80 else 0) (fun _ => 0x3F80) (fun _ => 127) (fun _ => 127) 0 =
      0x4B800000 := by decide +kernel

/-- R86's example: 4 blocks and 6 ways at FULL, and at a capacity of 5,163 rows 3 blocks and 10 ways. -/
theorem test_carve : let r : LaunchRec := { warps := 8, regs := 32, scratchL := 262144, l1min := 4 }
    r.carve 5888 = some { regRows := 256, scratchRows := 1024, slots := 4, ways := 6 } ∧
    r.carve 5163 = some { regRows := 256, scratchRows := 1024, slots := 3, ways := 10 } := by decide +kernel

/-- R12's example: core 173 lies in stack 2 and cluster 43. R16, R266: channels. -/
theorem test_places : stackOf 173 = 2 ∧ clusterOf 173 = 43 ∧ dramPlace (2 ^ 60 * 3 + 0x200) = 256 * 3 + 1 ∧
    dramPlace (2 ^ 63 + 0x1100) = 17 := by decide +kernel

end Sys2Proof.Tests
end

