-- ==== Sys2Proof/Tests/Witness.lean ====
section
/-! SUPPORT. For each statement about the words of a program, states and operands that meet the hypotheses of its
clauses, so that none of them is empty. -/

namespace Sys2Proof.Tests

set_option Elab.async false

open Sys2Proof Sys2Proof.Machine Sys2Proof.Claims

set_option maxRecDepth 100000
set_option synthInstance.maxSize 1024

/-! ## Variations of the small state, and what holds of every entry of a table -/

def withCore (f : Core → Core) (s : State) : State := s.setCore 0 (f (s.core 0))
def withBlock (f : Block → Block) (s : State) : State := s.setBlock 0 (f (s.block 0))
def withLaunch (f : Launch → Launch) (s : State) : State := s.setLaunch 0 (f (s.launch 0))
def withWarp (f : Warp → Warp) (s : State) : State := s.setCw (f s.cw)
def withRecord (f : LaunchRec → LaunchRec) (s : State) : State := withLaunch (fun l => { l with record := f l.record }) s
def p1 : Hdr := under 1#3

theorem get_all {α : Type} (P : α → Prop) (d : α) (t : Tab α) (hd : P d) (ht : ∀ e ∈ t, P e.2) (k : Nat) :
    P (Tab.get d t k) := by
  induction t with
  | nil => exact hd
  | cons e t ih =>
    simp only [Tab.get]
    split
    · exact ht e (by simp)
    · exact ih fun x hx => ht x (by simp [hx])

theorem ok_of {ε α : Type} {x : Except ε α} (p : α → Bool) (h : (x.toOption.map p) = some true) :
    ∃ a, x = .ok a ∧ p a = true := by
  cases x with
  | error _ => simp [Except.toOption] at h
  | ok a => exact ⟨a, rfl, by simpa [Except.toOption] using h⟩

/-- A wait at a barrier object, as a test. -/
def objectWait : Wait → Bool
  | .bowait _ _ _ _ _ _ => true
  | _ => false

/-- No table of the state lists what a scratchpad at rest does not have. -/
abbrev Rested (s : State) : Prop :=
  ((∀ e ∈ s.cores, e.2.redHolders = []) ∧ ∀ e ∈ s.blocks, e.2.poison = []) ∧ ∀ e ∈ s.stackMem, e.2.poison = []

theorem settled_scratch {s : State} (h : Rested s) : SettledScratch s :=
  ⟨get_all (fun x : Core => x.redHolders = []) {} s.cores rfl h.1.1,
    get_all (fun x : Block => x.poison = []) {} s.blocks rfl h.1.2,
    get_all (fun x : Stack => x.poison = []) {} s.stackMem rfl h.2⟩

theorem quiet_scratch {s : State} (h : Rested s)
    (hw : ∀ e ∈ s.warps, ∀ x, objectWait (e.2.micro x).wait = false) : QuietScratch s := by
  refine ⟨settled_scratch h, fun k x => ?_⟩
  have := get_all (fun w : Warp => ∀ x, objectWait (w.micro x).wait = false) {} s.warps (by decide) hw k x
  rintro ⟨_, _, _, _, _, _, e⟩
  simp only [State.warp] at e
  simp [e, objectWait] at this

/-- Context 1 with page tables in a window of its partition, which map the first GiB at its own address. -/
def mapped (s : State) : State :=
  { (s.setPart 0 { s.part 0 with win0 := [(0, 2 ^ 30)] }).setContext 1 (some { root := 0x300001#64 }) with
    mem := [(0x300000, 0x301001), (0x301000, 0x302001), (0x302000, 0xFF)].foldl
      (fun (m : Memory) (e : Nat × Nat) => Memory.write m e.1 (leBytes e.2 8)) s.mem }

/-- The small state's page is the entry of its core's TLB that a lookup finds, and it leads to p. -/
abbrev Finds (s : State) (k : Kind) (va n p : Nat) : Prop :=
  tlbFind (s.core s.here).tlb s.myCtx va k = some loadedPage ∧ loadedPage.phys va = p ∧ p < 2 ^ 64 ∧ p % n = 0

theorem reaches {s : State} {k : Kind} {va n p : Nat} (h : Finds s k va n p) : ReachesByTlb s k va n p := ⟨loadedPage, h⟩

/-- What `PlainAccess` asks of a state, as a test. -/
abbrev AtRest (s : State) : Prop :=
  QuietHome s ∧ OrderedL1 s s.here ∧ (s.block s.myBlock).watch = [] ∧ (s.block s.myBlock).replay = false ∧
    s.myLaunch.record.snap = false ∧ s.cw.rel = [] ∧ s.mic.wake = .none

theorem unpoisoned {s : State} (h : s.mic.wake = .none) : Unpoisoned s := fun a => by simp [h]

theorem plain_access {s : State} (h : AtRest s) : PlainAccess s :=
  ⟨h.1, h.2.1, h.2.2.1, h.2.2.2.1, h.2.2.2.2.1, h.2.2.2.2.2.1, unpoisoned h.2.2.2.2.2.2⟩

/-! ## Scalar and vector words -/

theorem witness_ScalarResults : loaded.taken p0 = true := by decide +kernel

/-- The last lane of a word that `sget` reads, and the first that traps; lanes whose first is 0, and the last alone. -/
theorem witness_ScalarFormResults :
    let s := state [(1, 31#64), (2, 32#64)] [] []
    let t := withWarp (fun w => { w with ctl := { w.ctl with a := { w.ctl.a with mask := 0x80000000#32 } } }) s
    s.taken p0 = true ∧ (s.rdS 1).toNat < 32 ∧ 32 ≤ (s.rdS 2).toNat ∧ s.inMask 0 = true ∧
      t.inMask 31 = true ∧ (∀ j < 31, t.inMask j = false) ∧ t.taken p0 = true := by decide +kernel

def nfState (code : Nat) : State := withRegs { regs [] [] [] with nf := [(0, Config.standardOf code)] } loaded

/-- Descriptors of 8 and 32 bits, signed and unsigned, and one of 64 bits that holds to the range's ends. -/
theorem witness_IntegerVectorResults :
    IntDescriptor ((nfState 2).rdNf 0) 0 8 false ∧ IntDescriptor ((nfState 3).rdNf 0) 1 8 false ∧
      IntDescriptor ((nfState 6).rdNf 0) 0 32 false ∧ IntDescriptor (0x0000004400000400#64) 0 64 true ∧
      (nfState 6).taken p0 = true := by
  unfold IntDescriptor; decide +kernel

/-- fp32, a 6-bit format, a 4-bit one and the tapered one. -/
theorem witness_RealVectorResults :
    (∀ c ∈ [11, 16, 18, 19], nfValid ((nfState c).rdNf 0) = true ∧ 2 ≤ (nfOf ((nfState c).rdNf 0)).kind ∧
      (nfOf ((nfState c).rdNf 0)).kind ≤ 3 ∧ (nfState c).taken p0 = true) ∧
    (nfOf ((nfState 19).rdNf 0)).width = 8 ∧ (nfOf ((nfState 16).rdNf 0)).width = 6 := by decide +kernel

/-- A comparison under the tapered format; a word that no lane meets; scales under any word, reals under a shift. -/
theorem witness_CompareResults :
    nfValid ((nfState 19).rdNf 0) = true ∧ (nfOf ((nfState 19).rdNf 0)).kind ≤ 3 ∧ (nfState 19).taken p0 = true ∧
      (nfState 20).taken p1 = false ∧
      ((acceptRows p0 0#2 1#6 2#6 3#6 1#3 0#3).map fun e => e.2 (nfOf ((nfState 20).rdNf 0))).all (· == false) = true ∧
      ((acceptRows p0 0#2 1#6 2#6 3#6 1#3 0#3).map fun e => e.2 (nfOf ((nfState 11).rdNf 0))).countP (· == false) = 4 := by
  decide +kernel

theorem witness_SelectResult : p0.p = 0#3 ∧ p0.n = false := by decide

/-- A ratio of 4 with its last part; a part too many; a ratio of 8. -/
theorem witness_ConversionResults :
    let r (a b : Nat) := max (nfOf (Config.standardOf a)).cont (nfOf (Config.standardOf b)).cont /
      min (nfOf (Config.standardOf a)).cont (nfOf (Config.standardOf b)).cont
    let s := withRegs { regs [] [] [] with
      nf := [(0, Config.standardOf 11), (1, Config.standardOf 14), (2, Config.standardOf 13), (3, Config.standardOf 10)] } loaded
    (∀ i < 4, nfValid (s.rdNf i) = true) ∧ s.taken p0 = true ∧ r 11 14 ≤ 4 ∧ (3#2).toNat < r 11 14 ∧
      r 11 13 ≤ (2#2).toNat ∧ 4 < r 10 14 := by decide +kernel

/-- The three formats, another one, a case of the table, and an exponent that is an integer. -/
theorem witness_SpecialFunctionResults :
    SpecialFormat (nfOf (Config.standardOf 11)) ∧ SpecialFormat (nfOf (Config.standardOf 12)) ∧
      SpecialFormat (nfOf (Config.standardOf 13)) ∧ ¬ SpecialFormat (nfOf (Config.standardOf 14)) ∧
      (nfState 11).taken p0 = true ∧ specialCase 0 (decodeElem fp32 0) .nan = some (.inf false) ∧
      specialCase 4 (decodeElem fp32 0x3F800000) .nan = some (Val.ofInt 0) ∧
      decodeElem fp32 0xC0400000 = .fin (decide ((-3 : Int) < 0)) ((-3 : Int).natAbs * 2 ^ 22) (-(22 : Nat)) ∧
      sumVals 0 [decodeElem fp32 0x40400000, (decodeElem fp32 0x3F800000).neg] =
        .fin (decide ((2 : Int) < 0)) ((2 : Int).natAbs * 2 ^ 23) (-(23 : Nat)) ∧
      (∃ m i, decodeElem fp32 0x40400000 = .fin false m i ∧ m ≠ 0) ∧
      ∀ fn ∈ [0, 1, 3, 4, 5, 6, 7, 8, 9], let x := decodeElem fp32 0x40280000
        specialCase fn x (decodeElem fp32 0x3F800000) = none ∧ (enclosed fn x (decodeElem fp32 0x3F800000)).isSome = true := by
  refine ⟨?_, ?_, ?_, ?_, ?_, ?_, ?_, ?_, ?_, ⟨_, _, rfl, ?_⟩, ?_⟩
  all_goals first
    | decide +kernel
    | (unfold SpecialFormat; decide +kernel)

/-- The last elements that `bcast` names at 8 and 64 bits, the first beyond, and the first mode beyond. -/
theorem witness_LaneMoves :
    let s := state [(1, 255#64), (2, 799#64), (3, 800#64), (4, 1024#64)] [] []
    let i (r : Nat) := (s.rdS r).toNat
    let n (r : Nat) := 32 * (64 / (8 * 2 ^ (i r / 2 ^ 8 % 4)))
    s.taken p0 = true ∧ (∀ r ∈ [1, 2], i r < 2 ^ 10 ∧ i r % 2 ^ 8 < n r) ∧ n 3 ≤ i 3 % 2 ^ 8 ∧ 2 ^ 10 ≤ i 4 := by
  decide +kernel

/-- A scale format, 16 elements in a lane, and formats that reductions take. -/
theorem witness_WarpReductions :
    3 < (nfOf ((nfState 20).rdNf 0)).kind ∧ (nfOf ((nfState 18).rdNf 0)).cont = 4 ∧ (5#3).toNat ≤ 5 ∧
      ∀ c ∈ [6, 10, 16, 19], nfValid ((nfState c).rdNf 0) = true ∧ (nfOf ((nfState c).rdNf 0)).kind ≤ 3 ∧
        (nfOf ((nfState c).rdNf 0)).cont ≠ 4 ∧ (nfState c).taken p0 = true := by decide +kernel

/-! ## Control words -/

/-- A state whose slot A has some lanes and slot B others. -/
def slots (a b : W32) (rpc : W32) (dsp : Nat) (s : State) : State :=
  withWarp (fun w => { w with dsp := dsp, ctl := { w.ctl with
    a := { live := true, pc := 0, mask := a }, b := { live := decide (b ≠ 0#32), pc := 3, mask := b }, rpc := rpc } }) s

/-- No lane, every lane and a part of the lanes taken; targets below 0, at 2^31 and inside; the other slot empty, live
with room on the stack, and live with none; the target of a `loop` below 0. -/
theorem witness_BranchResults :
    let s := state [(5, 0x80000000#64), (6, 1#64), (7, 2#64), (63, 0x7FFFFFFF#64)] [] [(1, 0x0000FFFF#32), (2, 0#32)]
    let t := slots 0x0000FFF0#32 0x0000000F#32 0xFFFFFFFF#32 0 s
    IsTaken s (under 2#3) 0#32 ∧ IsTaken s p0 0xFFFFFFFF#32 ∧ IsTaken s p1 0x0000FFFF#32 ∧
      (branchRows s p0 0x3FFFF#18 5#6).map (·.2) = [-1, 0x80000000] ∧ (branchRows s p0 3#18 6#6).map (·.2) = [3, 1] ∧
      s.mask &&& ~~~0xFFFFFFFF#32 = 0#32 ∧ s.mask &&& ~~~0x0000FFFF#32 ≠ 0#32 ∧ (s.cw.ctl.path true).live = false ∧
      IsTaken (withRegs { regs [] [] [(1, 0xF00#32)] with nf := [] } t) p1 0xF00#32 ∧ t.mask &&& ~~~0xF00#32 ≠ 0#32 ∧
      (t.cw.ctl.path true).live = true ∧ 64 ≤ (slots 0xFFF0#32 0xF#32 0#32 64 s).cw.dsp ∧
      (t.push { frame := false, pc := 3, mask := 0xF00#32, rpc := t.cw.ctl.rpc, arr := 0#32 }).toOption.isSome = true ∧
      s.taken (under 2#3) = false ∧ s.taken p0 = true ∧ (s.rdS 63).toNat < 2 ^ 31 ∧ 2 ^ 31 ≤ (s.rdS 5).toNat ∧
      s.rdS 6 - 1#64 = 0#64 ∧ s.rdS 7 - 1#64 ≠ 0#64 ∧ s.pc + immediate s.mic.pfx 63#6 = -1 := by
  unfold IsTaken; decide +kernel

/-- The small state with its warp inside a region that an `rcv` has opened, its frame on the stack; slot B live or not. -/
def inRegion (b : W32) : State :=
  let s := slots (0xFFFFF#32 &&& ~~~b) b 0#32 0 (state [] [] [(1, 0xFF#32), (2, 0#32)])
  withWarp (fun w => { w with ctl := { w.ctl with rmask := 0xFFFFF#32, exited := 0xFFF00000#32 } })
    ((s.push { frame := true, pc := 0, mask := 0xFFFFFFFF#32, rpc := 0xFFFFFFFF#32, arr := 0#32 }).toOption.getD s)

def frame0 : Entry := { frame := true, pc := 0, mask := 0xFFFFFFFF#32, rpc := 0xFFFFFFFF#32, arr := 0#32 }

theorem holds_none {s : State} (h : s.cw.dsp = 0) : StackHolds s [] := ⟨h.symm, by simp, by simp⟩

theorem holds_frame {s : State} {p : Nat} (hd : s.cw.dsp = 1) (hp : Finds s .read (s.cw.pbase + 0#64).toNat 16 p)
    (hs : seenNum s s.here p 16 = entryNum frame0) : StackHolds s [frame0] := by
  refine ⟨hd.symm, by simp, fun i hi => ⟨p, frame0, ?_⟩⟩
  obtain rfl : i = 0 := by simpa using hi
  exact ⟨reaches hp, rfl, by decide, hs⟩

/-- What a `join` and an `exit` make of the path of slot A, as settle sees it. -/
def joined (s : State) : Ctl := { s.cw.ctl.setPath false {} with rarr := s.cw.ctl.rarr ||| s.mask }
def exited (s : State) (tk : W32) : Ctl :=
  { s.cw.ctl.setPath false {} with exited := s.cw.ctl.exited ||| tk }

/-- A region opened over an empty slot and over a live one; an empty stack and one that holds a frame; a `join` that
closes its region, one that a live slot leaves open, and one outside its region; `exit` of no lane, of some and of all.
-/
theorem witness_RegionResults :
    (PlainAccess (inRegion 0#32) ∧ StackHolds (inRegion 0#32) [frame0]) ∧
      (PlainAccess (inRegion 0xF0000#32) ∧ StackHolds (inRegion 0xF0000#32) [frame0]) ∧ StackHolds loaded [] ∧
      (((inRegion 0#32).cw.ctl.path true).live = false ∧ ((inRegion 0xF0000#32).cw.ctl.path true).live = true ∧
        (∀ s ∈ [inRegion 0#32, inRegion 0xF0000#32], s.cw.dsp < 63 ∧ s.cw.ctl.rpc = BitVec.ofNat 32 s.pc ∧
          s.cw.ctl.rpc ≠ 0xFFFFFFFF#32 ∧ 0 ≤ s.pc + (11#18).toInt ∧ s.pc + (11#18).toInt < 2 ^ 31 ∧
          s.pc + (0x3FFFF#18).toInt < 0 ∧ (settledRegions (joined s) [frame0]).isSome = true ∧
          ∀ i ∈ [1, 2], Finds s .write (s.cw.pbase + BitVec.ofNat 64 (16 * i)).toNat 16 (s.cw.pbase.toNat + 16 * i)) ∧
        64 < (slots 0xF#32 0xF0#32 0#32 63 loaded).cw.dsp + 1 + 1 ∧
        (refilled 2 (loaded.cw.ctl.setPath false { loaded.path with pc := 1 }) []).isSome = true ∧
        loaded.cw.ctl.rpc ≠ BitVec.ofNat 32 loaded.pc ∧ settledRegions (joined (inRegion 0#32)) [] = none ∧
        (settledRegions (exited (inRegion 0#32) 0xFFFFF#32) [frame0]).isSome = true ∧
        IsTaken (inRegion 0#32) (under 2#3) 0#32 ∧ IsTaken (inRegion 0#32) p1 0xFF#32 ∧
        IsTaken (inRegion 0#32) p0 0xFFFFF#32) := by
  refine ⟨⟨plain_access ?_, holds_frame (p := (inRegion 0#32).cw.pbase.toNat) ?_ ?_ ?_⟩,
    ⟨plain_access ?_, holds_frame (p := (inRegion 0xF0000#32).cw.pbase.toNat) ?_ ?_ ?_⟩, holds_none ?_, ?_⟩
  all_goals first
    | decide +kernel
    | (unfold AtRest QuietHome OrderedL1; decide +kernel)
    | (unfold IsTaken; decide +kernel)

def passing : State := withWarp (fun w => { w with pass := true }) loaded

/-- With and without the pass flag; under a guard that no lane meets. -/
theorem witness_TrapWordResults :
    loaded.taken p0 = true ∧ loaded.cw.pass = false ∧ passing.cw.pass = true ∧ loaded.taken p1 = false := by decide +kernel

/-- A trap of a warp whose block is one of those that are saved, and a warp of another block. -/
theorem witness_TrapEntry :
    (Cause.illegal ≠ .poison) ∧ (loaded.warp 0).block ∈ loaded.members (loaded.warp 0).block ∧
      (let s := loaded.setWarp 5 { block := 1 }
       (s.warp 5).block ∉ s.members (s.warp 0).block) := by decide +kernel

/-- A warp that may be promoted and one that may not; an npr span begun and not; the RE; a sleep of no time. -/
theorem witness_WaitAndHintResults :
    loaded.taken p0 = true ∧ loaded.taken p1 = false ∧ (∃ s : State, s.taken p0 = true ∧ s.promotable s.cur.warp = true) ∧
      (∃ s : State, s.taken p0 = true ∧ s.promotable s.cur.warp = false) ∧
      loaded.cw.npr = false ∧ (withWarp (fun w => { w with npr := true }) loaded).cw.npr = true ∧
      loaded.cw.holds = [] ∧ loaded.cw.trailing = [] ∧ loaded.cw.sole = false ∧ loaded.cw.requested = false ∧
      (withWarp (fun w => { w with engine := .re }) loaded).cw.engine = .re := by
  refine ⟨by decide +kernel, by decide +kernel, ⟨loaded, by decide +kernel⟩,
    ⟨loaded.setContext 1 (some { ibud := [0] }), by decide +kernel⟩, by decide +kernel⟩

/-- Numbers of each kind: a register that may be written, a counter, a hole among the counters, numbers beyond. -/
theorem witness_SpecialRegisterResults :
    let n (s : State) : Nat := (optional s 1#6).toNat + immediateU s.mic.pfx 0#6
    let s (k : Word) := state [(1, k), (2, 0x0FEBC202#64), (3, 7#64)] [] []
    (specialRegisters loaded).length = 21 ∧ (∀ e ∈ specialRegisters (s 0#64), n (s (BitVec.ofNat 64 e.1)) = e.1) ∧
      (∀ k ∈ [0x40, 0x52, 0x60, 0x6A, 0x70, 0x74], IsCounter (n (s (BitVec.ofNat 64 k)))) ∧
      (∀ k ∈ [0x53, 0x5F, 0x6B, 0x7F], ¬ IsCounter (n (s (BitVec.ofNat 64 k)))) ∧ n (s 0x15#64) = 0x15 ∧ n (s 0x3F#64) = 0x3F ∧
      n (s 0x80#64) = 0x80 ∧ (s 0#64).taken p0 = true ∧ nfValid ((s 0#64).rdS 2) = true ∧ nfValid ((s 0#64).rdS 3) = false ∧
      (20#6).toNat ≤ 20 := by
  unfold IsCounter; decide +kernel

/-- The small state with a range in s1, s2 and a release fence of a scope pending for its lanes. -/
def fenced (n scope : Nat) : State :=
  withWarp (fun w => { w with rel := [⟨scope, 0xFF#32, false⟩] }) (state [(2, BitVec.ofNat 64 n)] [] [])

/-- An empty range and the longest one; no fence pending, one that stays and one that is completed. -/
theorem witness_CodeModificationResults :
    QuietScratch (fenced 1 3) ∧ QuietHome (fenced 1 3) ∧ OrderedL1 (fenced 1 3) (fenced 1 3).here ∧
      (∀ n ∈ [0, 1, 2 ^ 32], ∀ sc ∈ [2, 3, 4], let s := fenced n sc
        s.taken p0 = true ∧ (s.rdS 2).toNat = n ∧
          ((∃ r ∈ s.cw.rel, 3 ≤ r.scope ∧ r.lanes &&& s.mask ≠ 0#32) ↔ 3 ≤ sc)) := by
  refine ⟨quiet_scratch ?_ ?_, ?_⟩
  all_goals first
    | decide +kernel
    | (unfold QuietHome OrderedL1; decide +kernel)

/-! ## Memory words -/

/-- Lanes 0 and 31 at addresses that are the last of a size, or one beyond it, or misaligned. -/
def pair (x y : Nat) : State := state [] [(1, 0, BitVec.ofNat 64 x), (1, 31, BitVec.ofNat 64 y)] [(1, 0x80000001#32)]

/-- Lane 31 is the lowest misaligned lane; lane 0 is beyond the block's 16384 bytes, and no stack memory is allocated. -/
theorem witness_AccessTraps :
    let s := pair 0 2
    let t := pair 0x4000 0
    s.active p1 31 = true ∧ laneAddress s 1#6 0#3 0 0 31 % 4 ≠ 0 ∧
      (∀ j < 31, s.active p1 j = true → laneAddress s 1#6 0#3 0 0 j % 4 = 0) ∧
      (∀ j < 32, t.active p1 j = true → laneAddress t 1#6 0#3 0 0 j % 4 = 0) ∧ t.active p1 0 = true ∧
      t.placeOf t.myBlock .l (laneAddress t 1#6 0#3 0 0 0) 4 = none ∧
      t.placeOf t.myBlock .c (laneAddress t 1#6 0#3 0 0 0) 4 = none ∧
      (pair 0 0).placeOf t.myBlock .k 0 4 = none := by decide +kernel

def allocated (s : State) : State := s.setStack 0 { allocs := [(0, 4096, 1024)] }

/-- The last words of the scratchpad, of the cluster window's first block and of a stack allocation. -/
theorem witness_ScratchpadAccesses :
    let s := allocated (pair 0 0x3FFC)
    let t := allocated (pair 0 0x3FC)
    QuietScratch s ∧ QuietScratch t ∧
      (∀ l < 32, s.active p1 l = true → laneAddress s 1#6 0#3 0 (prefixOffset s) l % 4 = 0 ∧
        s.placeOf s.myBlock .l (laneAddress s 1#6 0#3 0 (prefixOffset s) l) 4 = some (.scratch 0 (if l = 0 then 0 else 0x3FFC)) ∧
        s.placeOf s.myBlock .c (laneAddress s 1#6 0#3 0 (prefixOffset s) l) 4 = some (.scratch 0 (if l = 0 then 0 else 0x3FFC))) ∧
      (∀ l < 32, t.active p1 l = true → laneAddress t 1#6 0#3 0 (prefixOffset t) l % 4 = 0 ∧
        t.placeOf t.myBlock .k (laneAddress t 1#6 0#3 0 (prefixOffset t) l) 4 =
          some (.stack 0 (if l = 0 then 4096 else 4096 + 0x3FC))) ∧
      s.cw.rel = [] ∧ s.myLaunch.record.audit = false ∧ (s.block s.myBlock).replay = false ∧ Unpoisoned s ∧ Unpoisoned t := by
  refine ⟨quiet_scratch ?_ ?_, quiet_scratch ?_ ?_, ?_, ?_, ?_, ?_, ?_, unpoisoned ?_, unpoisoned ?_⟩ <;> decide +kernel

/-- What the words of a warp at rest in memory ask of its state, as a test. -/
abbrev Plain (s : State) : Prop :=
  QuietHome s ∧ OrderedL1 s s.here ∧ (s.block s.myBlock).watch = [] ∧ (s.block s.myBlock).replay = false ∧
    s.cw.rel = [] ∧ s.myLaunch.record.audit = false ∧ s.myLaunch.record.snap = false ∧ s.mic.wake = .none

/-- Lanes 0 and 31 reach memory for reads of up to 16 bytes. -/
theorem witness_GlobalLoads : let s := pair 0x10 0x1FF0
    (∀ n ∈ [4, 8, 16], ∀ l < 32, s.active p1 l = true → laneAddress s 1#6 0#3 0 (prefixOffset s) l % n = 0 ∧
      ReachesByTlb s .read (laneAddress s 1#6 0#3 0 (prefixOffset s) l) n (if l = 0 then 0x10 else 0x1FF0)) ∧
    Plain s ∧ 4 * 2 ^ (2#2).toNat = 16 := by
  refine ⟨fun n hn l hl ha => ⟨?_, reaches ?_⟩, ?_⟩
  · revert n l; decide +kernel
  · revert n l; decide +kernel
  · unfold Plain QuietHome OrderedL1; decide +kernel

/-- Lanes 0 and 31 write the same word. -/
theorem witness_GlobalStores : let s := pair 0x1FFC 0x1FFC
    (∀ l < 32, s.active p1 l = true → laneAddress s 1#6 0#3 0 (prefixOffset s) l % 4 = 0 ∧
      ReachesByTlb s .write (laneAddress s 1#6 0#3 0 (prefixOffset s) l) 4 0x1FFC) ∧ Plain s := by
  refine ⟨fun l hl ha => ⟨?_, reaches ?_⟩, ?_⟩
  · revert l; decide +kernel
  · revert l; decide +kernel
  · unfold Plain QuietHome OrderedL1; decide +kernel

/-- The pool's last word and the first beyond its 8; an aligned address and one that is not. -/
theorem witness_UniformGlobalAccesses : let s := state [(1, 7#64), (2, 8#64), (3, 0x2000#64), (4, 0x2001#64)] [] []
    let j (x : Nat) := (s.rdS x + BitVec.ofInt 64 (immediate s.mic.pfx 0#6)).toNat
    let a (x : Nat) := (s.rdS 48 + s.rdS x + BitVec.ofInt 64 (prefixOffset s)).toNat
    ReachesByTlb s .read (a 3) 8 0x2000 ∧ ReachesByTlb s .write (a 3) 8 0x2000 ∧
      ReachesByTlb s .read ((s.myLaunch.record.pool + 8 * j 1) % 2 ^ 64) 8 (2 ^ 21 + 56) ∧
      (s.taken p0 = true ∧ s.myLaunch.record.poolwords ≤ j 2 ∧ j 1 < s.myLaunch.record.poolwords ∧ a 4 % 8 ≠ 0 ∧
        a 3 % 8 = 0 ∧ (s.myLaunch.record.pool + 8 * j 1) % 2 ^ 64 % 8 = 0) ∧ Plain s := by
  refine ⟨reaches ?_, reaches ?_, reaches ?_, ?_, ?_⟩
  all_goals first
    | decide +kernel
    | (unfold Plain QuietHome OrderedL1; decide +kernel)

/-! ## Atomics, fences, barriers, gathers, cards and exchanges -/

/-- The prefix of an atomic: operation, width, scope and order (R50). -/
def attributes (op width scope order : Nat) (s : State) : State :=
  prefixed (BitVec.ofNat 18 (op + 16 * width + 64 * scope + 512 * order)) s

/-- Lanes of a word that meet at one place in global memory. -/
theorem meet {s : State} {q : Nat} (n : Nat) (h : ∀ l < 32, s.active p1 l = true →
    laneAddress s 1#6 0#3 0 0 l % n = 0 ∧ Finds s .atomic (laneAddress s 1#6 0#3 0 0 l) n q) (l : Nat) (hl : l < 32)
    (ha : s.active p1 l = true) : AtPlace s .g (laneAddress s 1#6 0#3 0 0 l) n (.global q) :=
  ⟨(h l hl ha).1, q, reaches (h l hl ha).2, rfl⟩

/-- Two lanes at one word and two lanes at two words, in each space. -/
theorem witness_AtomicResults : let s := attributes 12 2 4 3 (pair 0x1FF8 0x1FF8)
    let t := attributes 9 0 0 0 (pair 0 0x3FFC)
    (QuietScratch s ∧ ∀ l < 32, s.active p1 l = true → AtPlace s .g (laneAddress s 1#6 0#3 0 0 l) 8 (.global 0x1FF8)) ∧
      QuietScratch t ∧ (Plain s ∧ Plain t ∧ CleanL1 s s.here ∧ CleanL1 t t.here) ∧
      (attrWidth s ≤ 2 ∧ attrOp s ≤ 12 ∧ attrOp t = 9 ∧ attrBytes t = 4 ∧
        (∀ l < 32, s.active p1 l = true → laneAddress s 1#6 0#3 0 0 l = 0x1FF8) ∧
        ∀ sp ∈ [Space.l, .c], ∀ l < 32, t.active p1 l = true → laneAddress t 1#6 0#3 0 0 l = (if l = 0 then 0 else 0x3FFC) ∧
          t.placeOf t.myBlock sp (laneAddress t 1#6 0#3 0 0 l) 4 = some (.scratch 0 (if l = 0 then 0 else 0x3FFC))) := by
  refine ⟨⟨quiet_scratch ?_ ?_, meet 8 ?_⟩, quiet_scratch ?_ ?_, ?_, ?_⟩
  all_goals first
    | decide +kernel
    | (unfold Plain QuietHome OrderedL1 CleanL1; decide +kernel)

/-- A release of each scope beyond the block's, a relaxed one and one of the block's scope, in both spaces and without L1
ways; a first lane that meets the word. -/
theorem witness_ReductionResults : let s := attributes 10 1 1 2 (pair 0x1FF8 0x1FF8)
    let t := attributes 10 0 0 0 (pair 0x40 0x7C)
    (QuietScratch s ∧ ∀ l < 32, s.active p1 l = true → AtPlace s .g (laneAddress s 1#6 0#3 0 0 l) 8 (.global 0x1FF8)) ∧
      QuietScratch t ∧ (Plain s ∧ Plain t ∧ CleanL1 s s.here ∧ CleanL1 t t.here) ∧
      (attrWidth s ≤ 1 ∧ attrOp s ≤ 12 ∧ attrOp s ≠ 9 ∧ attrWidth t ≤ 1 ∧ attrOp t ≠ 9) ∧
      (s.taken p1 = true ∧ t.taken p1 = true ∧ attrOrder s = 2 ∧ attrScope s ≠ 0 ∧ attrOrder t = 0 ∧
        ∀ l < 32, t.active p1 l = true →
          t.placeOf t.myBlock .c (laneAddress t 1#6 0#3 0 0 l) 4 = some (.scratch 0 (if l = 0 then 0x40 else 0x7C))) ∧
      (let u := attributes 10 1 0 2 (pair 0x1FF8 0x1FF8)
       let v := withCore (fun c => { c with carve := { c.carve with ways := 0 } }) u
       (∀ x ∈ [u, v], Plain x ∧ CleanL1 x x.here ∧ attrOrder x = 2 ∧ attrScope x = 0 ∧
         ∀ l < 32, x.active p1 l = true → laneAddress x 1#6 0#3 0 0 l % 8 = 0 ∧
           Finds x .atomic (laneAddress x 1#6 0#3 0 0 l) 8 0x1FF8) ∧
         (u.core u.here).carve.ways ≠ 0 ∧ (v.core v.here).carve.ways = 0) := by
  refine ⟨⟨quiet_scratch ?_ ?_, meet 8 ?_⟩, quiet_scratch ?_ ?_, ?_, ?_, ?_, ?_⟩
  all_goals first
    | decide +kernel
    | (unfold Plain QuietHome OrderedL1 CleanL1; decide +kernel)

/-- A fence with no release pending and with one for some lanes, and the narrowest scope and another. -/
theorem witness_FenceResults :
    QuietScratch loaded ∧ QuietHome loaded ∧ OrderedL1 loaded loaded.here ∧
      (loaded.taken p0 = true ∧ loaded.cw.rel = [] ∧ (fenced 1 2).taken p0 = true ∧
        (fenced 1 2).cw.rel = [⟨2, 0xFF#32, false⟩] ∧ (0#3).toNat = 0 ∧ (4#3).toNat ≠ 0) := by
  refine ⟨quiet_scratch ?_ ?_, ?_⟩
  all_goals first
    | decide +kernel
    | (unfold QuietHome OrderedL1; decide +kernel)

/-- The small state with an object at the start of its block's scratchpad, and an operand in s2. -/
def object (phase bytes arr count v : Nat) : State :=
  withBlock (fun b => { b with scratch := Memory.write [] 0 (leBytes (objectWord phase bytes arr count) 8) })
    (state [(2, BitVec.ofNat 64 v)] [] [])

/-- The object's word is one arrival from its end, a slot of another warp waits there, and this slot's wait was kept. -/
def awaited : State := (object 0 0 1 1 0).setWarp 1
  { stat := .running, idx := 1, ctl := { a := { live := true } }, ma := { wait := .bowait 0 0 false 5 4 3#2 } }

/-- The warp's wait was saved, and is restored with it. -/
def woken (w : Wake) (s : State) : State := s.setMic { s.mic with wakes := [(s.mic.word, w)] }

/-- An object with and without arrivals to come; operands on both sides of each limit; a kept wait; a waiter that the last
arrival wakes; a barrier's missing and last participants. -/
theorem witness_BarrierResults :
    (∀ s ∈ [object 0 0 1 1 0xFFFF, object 1 5 0 3 (2 ^ 32 + 1), woken (.bowait 0 true 7) (object 0 0 1 1 0)],
      (Rested s ∧ ∀ e ∈ s.warps, ∀ x, objectWait (e.2.micro x).wait = false) ∧ CleanL1 s s.here ∧ QuietHome s ∧
        s.cw.rel = [] ∧ s.taken p0 = true ∧ ∀ sp ∈ [Space.l, .c], s.placeOf s.myBlock sp 0 8 = some (.scratch 0 0)) ∧
    ((object 0 0 1 1 0).block 0).scratch.num 0 8 = objectWord 0 0 1 1 ∧
    ((object 1 5 0 3 0).block 0).scratch.num 0 8 = objectWord 1 5 0 3 ∧
    (object 0 0 1 1 0).mic.wake = .none ∧ (woken (.bowait 0 true 7) loaded).mic.wake = .bowait 0 true 7 ∧
    (woken (.done true) (object 0 0 1 1 0)).mic.wake = .done true ∧
    (let v (n : Nat) := ((object 0 0 1 1 n).rdS 2).toNat
     v 0xFFFF % 2 ^ 63 < 2 ^ 16 ∧ v 0xFFFF % 2 ^ 16 ≠ 0 ∧ ¬ v 0x10000 % 2 ^ 63 < 2 ^ 16 ∧ v (2 ^ 31 - 1) < 2 ^ 31 ∧
      ¬ v (2 ^ 31) < 2 ^ 31 ∧ v 1 < 2 ∧ ¬ v 2 < 2 ∧ v (2 ^ 32 + 1) = 1 * 2 ^ 32 + 1 ∧ 2 ≤ v 2 % 2 ^ 32) ∧
    (let s := awaited
     Rested s ∧ CleanL1 s s.here ∧ QuietHome s ∧ s.cw.rel = [] ∧ s.taken p0 = true ∧ s.cur.warp ≠ 1 ∧
       (s.block 0).scratch.num 0 8 = objectWord 0 0 1 1 ∧ s.placeOf s.myBlock .l 0 8 = some (.scratch 0 0) ∧
       (s.warp 1).stat = .running ∧ ((s.warp 1).ctl.path false).live = true ∧
       ((s.warp 1).micro false).wait = .bowait 0 0 (decide (0 = 1)) 5 4 3#2) ∧
    (let s := withBlock (fun b => { b with warps := 2 }) (state [(1, 2#64), (2, 1#64)] [] [])
     let t := s.setWarp 1 { stat := .running, block := 0, idx := 1 }
     s.taken p0 = true ∧ (s.rdS 1).toNat / 2 ^ s.cw.idx % 2 = 0 ∧ (s.rdS 2).toNat / 2 ^ s.cw.idx % 2 = 1 ∧ s.cw.idx < 32 ∧
      (s.block s.myBlock).warps ≤ 32 ∧ s.warpAt s.myBlock s.cw.idx = some s.cur.warp ∧ s.endedAt 0 1 = true ∧
      t.endedAt 0 1 = false ∧ (Tab.get ({} : Bar) (t.block 0).bars 0).arrived.getLsbD 1 = false ∧ s.mic.wake = .none ∧
      (woken (.bar 3 true) s).mic.wake = .bar (3#4).toNat true ∧ (woken (.bar 3 false) s).mic.wake = .bar (3#4).toNat false ∧
      t.warpAt t.myBlock t.cw.idx = some t.cur.warp) := by
  unfold CleanL1 QuietHome; decide +kernel

/-- Row entries in memory: lane 0 inside a row of two elements, lane 31 outside it; an entry with a high word. -/
def rows (high : Byte) : State :=
  { state [] [(1, 0, 0x0000000100000001#64), (1, 31, 0x0000000200000001#64)] [(1, 0x80000001#32)] with
    mem := Memory.write loaded.mem 0x10 [0#8, 1#8, 0#8, 0#8, 0#8, 0#8, 0#8, 0#8, 2#8, 0#8, 0#8, 0#8, high] }

/-- Entries of a row inside and outside, one with a high word; lines that a prefetch names, there and not. -/
theorem witness_GatherResults :
    (∀ s ∈ [rows 0#8, rows 1#8], Plain s ∧ s.active p1 0 = true ∧
      ∀ l < 32, s.active p1 l = true → field (s.rdV 1 l) 32 0 = 1 ∧ Finds s .read 0x10 16 0x10) ∧
    (3#3).toNat ≤ 3 ∧ coreByte (rows 0#8) 0 0x18 = 2#8 ∧ coreByte (rows 0#8) 0 0x1C = 0#8 ∧
    coreByte (rows 1#8) 0 0x1C = 1#8 ∧ field ((rows 0#8).rdV 1 0) 32 1 < 2 ∧ ¬ field ((rows 0#8).rdV 1 31) 32 1 < 2 ∧
    Finds (rows 0#8) .read 0x108 8 0x108 ∧ (∀ i ≤ 15, Finds (rows 0#8) .read (128 * i) 1 (128 * i)) ∧
    (loaded.core 0).hits 0 128 = false ∧ loaded.flights = [] := by
  unfold Plain QuietHome OrderedL1; decide +kernel

/-- The small state in a task region whose queues hold two cards, with some cards in its block's queue, through the core's
TLB or mapped for the command processor too. -/
def region (ended : Bool) (n : Nat) : State :=
  withLaunch (fun l => { l with
      ended := ended, ring := [(0, { cards := List.replicate n 7#512, slots := List.range n, put := n })]
      record := { l.record with region := true, cards := 2, cardarea := 0x8000 } })
    (state [(1, 0#64), (2, 5#64), (3, 6#64), (4, 0x2000#64), (5, 0x2001#64)] [] [])

/-- A queue with room, a full one, an empty one before and after the region's end; selectors good and bad; a card area
that the command processor reaches and one that it does not. -/
theorem witness_JobCardResults :
    loaded.myLaunch.record.region = false ∧ loaded.taken p0 = true ∧
      (∀ s ∈ [region false 0, region false 1, region false 2, region true 0, mapped (region false 0)],
        s.taken p0 = true ∧ s.myLaunch.record.region = true ∧ s.postTarget (s.rdS 1).toNat = some 0 ∧
          s.postTarget (s.rdS 2).toNat = some 0 ∧ s.postTarget (s.rdS 3).toNat = none ∧ (s.rdS 4).toNat % 64 = 0 ∧
          (s.rdS 5).toNat % 64 ≠ 0 ∧ (s.rdS 2).toNat % 8 = 5 ∧ (s.rdS 1).toNat % 8 ≠ 5 ∧ Plain s ∧ CleanL1 s s.here ∧
          Finds s .write 0x2000 64 0x2000 ∧ Finds s .read 0x2000 64 0x2000 ∧ s.ringBlock 0 0 = some 0 ∧
          (s.block 0).takers = [] ∧ s.myLaunch.record.cardarea % 64 = 0) ∧
      (region false 0).myLaunch.ended = false ∧ (region true 0).myLaunch.ended = true ∧
      ((region false 0).cardQueue 0 0).cards = [] ∧ ((region false 1).cardQueue 0 0).cards = [7#512] ∧
      (region false 2).myLaunch.record.cards ≤ ((region false 2).cardQueue 0 0).cards.length ∧
      ((region false 1).cardQueue 0 0).cards.length < (region false 1).myLaunch.record.cards ∧
      (region false 1).cur.num ∉ ((region false 1).block 0).takers ∧ (region false 1).cpXlate 1 0x8000 .read = none ∧
      ((mapped (region false 1)).cpXlate 1 0x8000 .read).any (·.2 == 0x8000) = true ∧
      ((region false 1).cardQueue 0 0).slots.headD 0 = 0 ∧
      (region false 0).sysXlate 1 0x8000 = none ∧ ((mapped (region false 0)).sysXlate 1 0x8000).any (·.2 == 0x8000) = true := by
  unfold Plain QuietHome OrderedL1 CleanL1; decide +kernel

/-- A second block of the grid, in block slot b, whose warp waits in an exchange, runs or has stopped. -/
def partnerAt (b : Nat) (stat : WarpStat) (wait : Wait) (sel : Nat) : State :=
  withRecord (fun r => { r with gridX := 2 })
    (((state [(1, BitVec.ofNat 64 sel)] [] []).setBlock b { used := true, lin := 1, warps := 1 }).setWarp (b / 16 * 48 + 1)
      { stat := stat, block := b, ma := { wait := wait } })

/-- A second block in another cluster. -/
def partner (wait : Wait) (sel : Nat) : State := partnerAt 64 .running wait sel

/-- A block that has been saved, its second warp's slot ended. -/
def kept (s : State) : State :=
  withLaunch (fun l => { l with saved := [{ lin := 1, slot := 0, stopped := false, evicted := false, holder := false
                                            kept := [{ idx := 0, word := 0, pendOther := false, cause := 0#8, sig := 0#64, ended := true }] }] }) s

/-- A selector of the warp itself, of no warp, of a partner that runs, of one that waits with the same tag or another,
of one in the own cluster, waiting or not, and of one that has ended; an exchange that has been made already. -/
theorem witness_ExchangeResults :
    let s := partner .none (1 + 7 * 2 ^ 40)
    let t := partner (.xswap 4 5 0xFFFFFFFF#32 0 0 7) (1 + 7 * 2 ^ 40)
    let n (s : State) := (s.rdS 1).toNat
    s.taken p0 = true ∧ n (partner .none (2 ^ 48)) = 2 ^ 48 ∧ n (partner .none 2) = 2 ∧
      (n (partner .none 0) = (s.block s.myBlock).lin ∧ s.cw.idx = 0) ∧ n s = 1 + 0 * 2 ^ 32 + 7 * 2 ^ 40 ∧
      s.myLaunch.record.gridX * s.myLaunch.record.gridY * s.myLaunch.record.gridZ = 2 ∧ s.myLaunch.record.warps = 1 ∧
      (s.block s.myBlock).lin ≠ 1 ∧ 1 ∉ (s.launch (s.block s.myBlock).launch).exited ∧
      (s.launch (s.block s.myBlock).launch).saved = [] ∧
      (∃ e ∈ ((kept s).launch 0).saved, e.lin = n s % 2 ^ 32 ∧ ∃ q ∈ e.kept, q.idx = n s / 2 ^ 32 % 2 ^ 5 ∧ q.ended = true) ∧
      s.blockOf (s.block s.myBlock).launch 1 = some 64 ∧ 64 / 16 / 4 ≠ s.here / 4 ∧ s.warpAt 64 0 = some 193 ∧
      s.liveWarp 193 = true ∧ s.partnerWait 193 (s.block s.myBlock).lin s.cw.idx = none ∧ 193 ≠ s.cur.warp ∧
      t.blockOf (t.block t.myBlock).launch 1 = some 64 ∧ t.warpAt 64 0 = some 193 ∧ t.liveWarp 193 = true ∧
      t.partnerWait 193 (t.block t.myBlock).lin t.cw.idx = some (⟨193, false⟩, 4, 5, 0xFFFFFFFF#32, 7) ∧
      ((partner (.xswap 4 5 0xFFFFFFFF#32 0 0 8) 1).partnerWait 193 0 0 = some (⟨193, false⟩, 4, 5, 0xFFFFFFFF#32, 8)) ∧
      (∀ w ∈ [Wait.none, .xswap 4 5 0xFFFFFFFF#32 0 0 7], let u := partnerAt 16 .running w 1
        u.blockOf 0 1 = some 16 ∧ 16 / 16 / 4 = u.here / 4 ∧ u.warpAt 16 0 = some 49 ∧ 49 ≠ u.cur.warp ∧ u.liveWarp 49 = true ∧
          (u.partnerWait 49 0 0).isSome = decide (w ≠ .none)) ∧
      (partnerAt 64 .ended .none 1).blockOf 0 1 = some 64 ∧ (partnerAt 64 .ended .none 1).warpAt 64 0 = some 193 ∧
      (partnerAt 64 .ended .none 1).liveWarp 193 = false ∧
      s.mic.wake = .none ∧ (woken (.swapped 3#32 []) s).mic.wake = .swapped 3#32 [] := by
  decide +kernel

end Sys2Proof.Tests
end

