-- ==== Sys2Proof/Tests/WitnessUnits.lean ====
section
/-! SUPPORT. For each statement about the tile units, the command processor and launches, states and operands that meet
the hypotheses of its clauses. -/

namespace Sys2Proof.Tests

set_option Elab.async false

open Sys2Proof Sys2Proof.Machine Sys2Proof.Claims

set_option maxRecDepth 100000
set_option synthInstance.maxSize 1024

/-! ## Tile words, the baton, the rewrite stage -/

/-- Operands of a copy of one row of 16 bytes between the two ends of the block's scratchpad, and of a multicast of it;
s12 to s14 name tiles that do not exist. -/
def tiles : State :=
  state [(4, 0#64), (5, plainShape 0 16 1), (6, 0x3FF0#64), (7, plainShape 0 16 1), (8, 16#64), (9, plainShape 1 16 1),
    (10, 0x1000010#64), (11, 0x40000000000000#64), (12, 1#64), (13, 0xFFFFFFFFFFFFFFFF#64)] [] []

/-- A clear of accumulators, as the tile queue holds it. -/
def clearing : TileOp :=
  { op := 0xF7, word := 0#32, warp := 0, block := 0, slotB := false, vals := [0, 0, 0, 0, 0], f1 := 0, f2 := 0 }

def held : HeldWord := { tile := clearing, group := 0, ctl := {}, pend := none }

/-- The warp holds the baton, and some words are held; the tile queue is full. -/
def holder (n : Nat) (s : State) : State :=
  withCore (fun c => { c with baton := some 0, window := List.replicate n held }) s

def full (s : State) : State := withCore (fun c => { c with queue := List.replicate 8 clearing }) s

/-- A chain group of a tile word and a word of another kind. -/
def accompanied (s : State) : State := s.setMic { s.mic with pkt := [0x83DC0000#32, 0x006030C4#32, 0#32] }

/-- The holder's words with 7 words held and with 8, alone in their group and not; a copy whose checks pass, with room
in the queue and without, and one whose checks fail; members of a chain on the RE; a tile word of a warp without the
baton. -/
theorem witness_TileWordResults :
    let onRe (s : State) := withWarp (fun w => { w with engine := .re }) (holder 0 s)
    tiles.taken p0 = true ∧ tiles.mic.wake ≠ .met ∧ (woken .met tiles).mic.wake = .met ∧
      coreOfBlock tiles.myBlock = tiles.here ∧ tiles.cw.rel = [] ∧
      (∀ op ∈ [0xF2, 0xF4, 0xF5, 0xFD], ForWindow (holder 7 tiles) op) ∧ AloneInGroup (holder 7 tiles) ∧
      ¬ AloneInGroup (accompanied (holder 7 tiles)) ∧ ((holder 7 tiles).core 0).window.length < 8 ∧
      8 ≤ ((holder 8 tiles).core 0).window.length ∧ ¬ ForWindow tiles 0xF0 ∧ ¬ ForWindow (onRe tiles) 0xF4 ∧
      InChain (onRe tiles) 0xF4 11#6 ∧ ¬ InChain (onRe tiles) 0xF4 4#6 ∧
      ((tiles.checkTile (tiles.tileOf 0xF0 4#6 6#6 8#6) []).toOption.map fun x => x.1.tileRoom x.2 && x.1.cw.rel.isEmpty) =
        some true ∧
      (((onRe tiles).checkTile ((onRe tiles).tileOf 0xF5 0#6 4#6 0#6) []).toOption.map fun x => x.1.tileRoom x.2) = some true ∧
      ((tiles.checkTile (tiles.tileOf 0xF0 4#6 6#6 8#6) []).toOption.map fun x => (full tiles).tileRoom x.2) = some false ∧
      (tiles.checkTile (tiles.tileOf 0xF0 4#6 12#6 8#6) []).toOption.isSome = false ∧
      (tiles.core 0).baton ≠ some tiles.cur.warp := by
  unfold ForWindow InChain AloneInGroup; decide +kernel

theorem witness_CopyWordResults :
    tiles.taken p0 = true ∧ tiles.mic.wake ≠ .met ∧ coreOfBlock tiles.myBlock = tiles.here ∧ (tiles.core 0).queue.length < 8 ∧
      (tiles.core 0).ranges.length ≤ 14 ∧ (tiles.block tiles.myBlock).scratchSize ≤ 2 ^ 21 ∧
      (∀ n ∈ [16, (tiles.rdS 4).toNat, (tiles.rdS 6).toNat], n % 16 = 0) ∧
      (tiles.rdS 4).toNat + (1 - 1) * 16 + 16 ≤ (tiles.block tiles.myBlock).scratchSize ∧
      (tiles.rdS 6).toNat + (1 - 1) * 16 + 16 = (tiles.block tiles.myBlock).scratchSize ∧ tiles.rdS 7 = plainShape 0 16 1 ∧
      tiles.rdS 5 = plainShape 0 16 1 ∧ tiles.rdS 8 = BitVec.ofNat 64 16 ∧ tiles.rdS 9 = plainShape 1 16 1 ∧
      tiles.myLaunch.record.gang = 1 ∧ tiles.rdS 10 = BitVec.ofNat 64 (2 ^ (24 + tiles.here % 4) + 16) ∧
      ((holder 0 tiles).core 0).baton = some (holder 0 tiles).cur.warp ∧ tiles.cw.rel = [] ∧
      (withWarp (fun w => { w with engine := .re }) (holder 0 tiles)).cw.engine ≠ .ie ∧ (tiles.rdS 4).toNat / 2 ^ 37 % 2 ^ 17 = 0 ∧
      (tiles.rdS 4).toNat / 2 ^ 30 % 2 = 0 ∧ (tiles.rdS 4).toNat / 2 ^ 18 % 4 = 0 := by decide +kernel

/-- The holder; a free baton of this context and of another, and one whose taker's engine was saved; a baton that another
warp holds; a rule table that the core applies already, and another one. -/
theorem witness_BatonResults :
    let idle (s : State) : Prop := (s.core 0).queue = [] ∧ (s.core 0).streamBusy = none ∧ (s.core 0).loadBusy = none
    let free (s : State) : Prop := (s.core 0).baton = none ∧ (s.core 0).batonQueue = [] ∧
      ((s.core 0).batonCtx = s.myCtx ∨ idle s) ∧
      ∀ x ∈ (s.core 0).savedEngines.find? fun e => e.holder == some s.cur.warp,
        idle s ∧ (s.core 0).ranges.length + (x.ops.flatMap s.rangesOf).length ≤ 16
    let other := withCore (fun c => { c with baton := some 5, batonQueue := [10] }) loaded
    let same := withCore (fun c => { c with batonCtx := 1, table := loaded.tableKey 1 }) loaded
    let busy := withCore (fun c => { c with
      batonCtx := 1, streamBusy := some clearing
      savedEngines := [{ block := 0, holder := some 0, ops := [], bank0 := {}, bank1 := {}, accum := [], overflow := false }] }) loaded
    loaded.taken p0 = true ∧ loaded.mic.wake ≠ .met ∧ (woken .met loaded).mic.wake = .met ∧ ((holder 0 loaded).core 0).baton = some (holder 0 loaded).cur.warp ∧ free loaded ∧
      (loaded.core 0).batonCtx ≠ loaded.myCtx ∧ (free same ∧ same.myCtx = 1 ∧ (same.core 0).table = same.tableKey same.myCtx) ∧
      (other.core 0).baton ≠ some other.cur.warp ∧ ¬ free other ∧ ¬ free busy ∧
      (let u := withCore (fun c => { c with table := some (3, []) }) loaded
       (u.core 0).table ≠ u.tableKey 1) := by decide +kernel

/-- No word held; a holder whose held words are flushed, one whose held word traps, and one whose flush finds no room;
masks and selectors on both sides of their limits. -/
theorem witness_RewriteControlResults :
    let s := state [(1, 7#64), (2, 8#64), (3, 0#64), (4, 127#64), (5, 128#64)] [] []
    let t := holder 1 s
    let bad := withCore (fun c => { c with window := [{ held with tile := { clearing with op := 0xF2, vals := [8, 0, 0, 0, 0] } }] }) t
    let x (r : Nat) := (s.rdS r).toNat
    s.taken p0 = true ∧ (s.core s.here).baton ≠ some s.cur.warp ∧ (t.core t.here).baton = some t.cur.warp ∧
      (t.core t.here).window ≠ [] ∧ (t.flushWindow t.here).cw.stat = t.cw.stat ∧
      ((t.flushWindow t.here).core t.here).window = [] ∧ (bad.flushWindow bad.here).cw.stat ≠ bad.cw.stat ∧
      ((full t).flushWindow t.here).cw.stat = t.cw.stat ∧ (((full t).flushWindow t.here).core t.here).window ≠ [] ∧
      x 1 % 2 = 1 ∧ x 1 < 8 ∧ 8 ≤ x 2 ∧ x 3 % 2 = 0 ∧ x 4 < 128 ∧ 128 ≤ x 5 ∧
      (let v := withCore (fun c => { c with table := t.tableKey t.myCtx }) t
       (v.core v.here).table = v.tableKey v.myCtx) ∧
      (let v := withCore (fun c => { c with table := s.tableKey s.myCtx }) (holder 0 s)
       (v.core v.here).table = v.tableKey v.myCtx ∧ (v.core v.here).baton = some v.cur.warp ∧
         (v.core v.here).window = [] ∧ v.cw.skip = 0) ∧
      (let u := withCore (fun c => { c with table := some (9, []) }) s
       (u.core u.here).table ≠ u.tableKey u.myCtx) := by decide +kernel

/-! ## Rings and records -/

/-- The first partition of the small state, with a window and rings; the completion ring has some entries. -/
def ringed (used : Nat) (s : State) : State :=
  s.setPart 0 { s.part 0 with
    win0 := [(0, 2 ^ 30)], completion := { base := 0x200000, size := 64, configured := true, tail := used },
    event := { base := 0x201000, size := 64, configured := true }, control := { base := 0x202000, size := 64, configured := true },
    admin := { base := 0x203000, size := 64, configured := true } }

/-- An unconfigured ring, an empty one, one with its last entry before it is full, a full one; a launch that is open. -/
theorem witness_CompletionEntries :
    (∀ s ∈ [loaded, ringed 0 loaded, ringed 62 loaded, ringed 63 loaded], QuietHome s ∧ (s.part 0).backlog = []) ∧
    (loaded.part 0).completion.configured = false ∧ ((ringed 62 loaded).part 0).completion.configured = true ∧
    (((ringed 62 loaded).part 0).completion.tail + 1) % 64 ≠ 0 ∧
    (((ringed 63 loaded).part 0).completion.tail + 1) % 64 = ((ringed 63 loaded).part 0).completion.head ∧
    (loaded.launch 0).open = true ∧ (loaded.launch 0).started = true := by
  unfold QuietHome; decide +kernel

/-- A queue of 16 units whose head record stands at the last unit, of some bytes. -/
def recorded (bs : List Byte) (units : Nat) : State :=
  { ((ringed 0 loaded).setQueue 0
      { bound := true, ctx := 1, base := 0x210000, size := 16, head := 15, tail := (15 + units) % 16 }) with
    mem := (Memory.write (Memory.write [] 0x2103C0 (bs.take 64)) 0x210000 (bs.drop 64)) }

/-- The bytes of a record from the 8-byte words that are not zero. -/
def unitsOf (units : Nat) (ws : List (Nat × Nat)) : List Byte :=
  (List.range (64 * units)).map fun i => BitVec.ofNat 8
    (((ws.find? fun w => w.1 ≤ i ∧ i < w.1 + 8).map fun w => w.2 / 256 ^ (i - w.1)).getD 0)

/-- The images have started. -/
def started (s : State) : State := { s with booted := true }

def headerWord (kind units : Nat) : Nat := 3 + kind * 2 ^ 16 + units * 2 ^ 32 + 0x77 * 2 ^ 40

/-- A launch record of two units: code, entry and a grid of one block, warps 1, registers 8, 4 ways, 16384 bytes. -/
def launchBytes (code : Nat) : List Byte :=
  unitsOf 2 [(0, headerWord 1 2), (8, code), (32, 1 + 2 ^ 32), (40, 1 + 2 ^ 32 + 8 * 2 ^ 40 + 4 * 2 ^ 48), (48, 16384),
    (56, 2 * 2 ^ 32), (64, 2 ^ 24), (72, 2 ^ 29)]

/-- The semaphore at 0x2000 holds 5; the queue waits for it, or has a SIGNAL waiting for launch 0. -/
def waits (value : Nat) (equal done : Bool) : State :=
  let s := mapped (withLaunch (fun l => { l with phase := if done then .done else .running }) (ringed 0 loaded))
  { s.setQueue 0 { bound := true, ctx := 1, base := 0x210000, size := 16, hold := .wait 0x2000 value equal 3 true
                   signals := [⟨0x2000, 1, true, 4, true, 2, [0]⟩] } with mem := Memory.write s.mem 0x2000 [5#8] }

/-- NOP, WAIT and SIGNAL records that keep their maps and that break them; a launch record that is good, and one whose
code base is misaligned; a semaphore met; earlier launches done and not. -/
theorem witness_CommandRecordResults :
    (∀ e ∈ [(0, 0x0), (0, 0x1), (2, 0x2000), (2, 0x2001), (3, 0x2000), (3, 0x2001)],
      LastRecord (recorded (unitsOf 1 [(0, headerWord e.1 1), (8, e.2)]) 1) 0 0 e.1 1) ∧
    ZerosAt (recordByte (recorded (unitsOf 1 [(0, headerWord 0 1)]) 1) 0 0) 8 56 ∧
    ¬ ZerosAt (recordByte (recorded (unitsOf 1 [(0, headerWord 0 1), (8, 1)]) 1) 0 0) 8 56 ∧
    (∀ k ∈ [2, 3], SemaphoreBody (recordByte (recorded (unitsOf 1 [(0, headerWord k 1), (8, 0x2000)]) 1) 0 0) ∧
      ¬ SemaphoreBody (recordByte (recorded (unitsOf 1 [(0, headerWord k 1), (8, 0x2001)]) 1) 0 0)) ∧
    (∀ e ∈ [(0x100000, true), (0x100001, false)],
      let s := recorded (launchBytes e.1) 2
      let f := recordByte s 0 0
      let h := headerOf (numAt f 0 8)
      let r := launchOf h ((List.range 128).map f) (s.part 0)
      LastRecord s 0 0 1 2 ∧
        (mapOk h ((List.range 128).map f) r = true ∧ recordOk r (s.coresOf 0).length = true ↔ e.2 = true)) ∧
    (∀ e ∈ [(5, true), (4, false)], ((waits e.1 e.2 true).cpRead 1 1 0x2000 8).map (fun x => leNat x.2) = some 5) ∧
    (∀ done ∈ [true, false],
      ((waits 5 true done).setQueue 0 { (waits 5 true done).queue 0 with signals := [] }).cpXlate 1 0x2000 .atomic |>.any
        fun x => x.2 == 0x2000 && x.1.records.isEmpty && x.1.holders.isEmpty && x.1.windows.isEmpty && x.1.poison.isEmpty) ∧
    ((waits 5 true true).launch 0).phase = .done ∧ ((waits 5 true false).launch 0).phase ≠ .done ∧
    (∀ units ∈ [0, 5],
      let s := started { (recorded (unitsOf 1 [(0, headerWord 9 units)]) 1) with parts := (ringed 0 loaded).parts }
      let u := s.readDispositions 0
      let g := recordByte u 0 0
      0 < s.layout ∧ (s.part 0).port = 0 ∧ s.booted = true ∧ QuietHome u ∧ (u.queue 0).bound = true ∧
        (u.queue 0).hold = .free ∧ (u.queue 0).skip = 0 ∧ (u.queue 0).head < (u.queue 0).size ∧ BadHeader g ∧
        max (numAt g 4 1) 1 = max units 1 ∧ (0 + (u.queue 0).size - (u.queue 0).head) % (u.queue 0).size = 1) ∧
    (let q := (waits 5 true true).queue 0
     q.hold = .wait 0x2000 5 true 3 true ∧ q.head = q.tail ∧ q.signals = [⟨0x2000, 1, true, 4, true, 2, [0]⟩]) ∧
    QuietHome (waits 5 true true) ∧ (waits 5 true true).cpXlate 1 0x40000000 .atomic = none := by
  unfold QuietHome LastRecord SemaphoreBody ZerosAt BadHeader; decide +kernel

/-! ## The host's accesses and its requests -/

/-- The control and admin rings hold one request, of some bytes, and the queue a record. -/
def asked (control admin : List Byte) : State :=
  let s := ringed 0 loaded
  { (s.setQueue 0 { bound := true, ctx := 1, base := 0x210000, size := 16 }).setContext 1 (some {}) with
    mem := Memory.write (Memory.write (Memory.write s.mem 0x202000 control) 0x203000 admin) 0x210000
      (unitsOf 1 [(0, headerWord 0 1)]) }

def controlBytes (kind ctx va len : Nat) : List Byte :=
  (unitsOf 1 [(0, kind + ctx * 2 ^ 16), (8, va), (16, len), (24, 9)]).take 32

/-- The owner of a page and a port that is not; sizes good and bad; a ring that is outstanding and one that is not, with
its entries inside a window and outside; heads in range; a waiting mailbox and one that is free. -/
theorem witness_HostAccessResults :
    let s := ringed 0 loaded
    QuietHome s ∧ 0 < s.layout ∧ (s.part 0).port = 0 ∧
      ¬ (s.part 0).port = 1 ∧ 64 = 2 ^ 6 ∧ ((loaded.part 0).ring .event).configured = false ∧
      (¬ Outstanding (s.part 0) .event) ∧ Outstanding ((ringed 3 loaded).part 0) .completion ∧
      (0, 2 ^ 30) ∈ (s.part 0).win0 ++ (s.part 0).win1 ∧ 63 < (s.part 0).completion.size ∧ (s.part 0).backlog = [] ∧
      (∀ n ≤ 16, ∀ w ∈ (loaded.part 0).win0 ++ (loaded.part 0).win1, ¬ (w.1 ≤ 0 ∧ 0 + 2 ^ n ≤ w.1 + w.2)) ∧
      s.mailbox.command / 2 ^ 31 % 2 = 0 ∧ { s.mailbox with command := 2 ^ 31 }.command / 2 ^ 31 % 2 = 1 := by
  unfold QuietHome Outstanding; decide +kernel

/-- Doorbells of tails beyond their ring, in it, and at a request that is good and one that is not. -/
theorem witness_HostAccessResults_doorbells :
    let s := ringed 0 loaded
    let s := started s
    let u := started (asked (controlBytes 1 1 0x10000 0x10000) (unitsOf 1 [(0, 5), (8, 7), (24, 300)]))
    let v := started (asked (controlBytes 4 1 0x10000 0x10000) (unitsOf 1 [(0, 7), (8, 7), (24, 300)]))
    QuietHome u ∧ QuietHome v ∧ u.readDispositions 0 = u ∧ (u.part 0).control.heads = [] ∧ (u.part 0).admin.heads = [] ∧
      numAt (fun i => v.mem.byte ((v.part 0).control.base + i)) 0 1 = 4 ∧
      numAt (fun i => v.mem.byte ((v.part 0).admin.base + i)) 0 1 = 7 ∧
      s.booted = true ∧ (loaded.queue 0).bound = false ∧ (u.queue 0).bound = true ∧ (u.queue 0).size = 16 ∧
      (let v := u.setQueue 0 { u.queue 0 with tail := 1 }
       LastRecord v 0 0 0 1) ∧
      ((u.part 0).control.head + 1) % 64 = 1 ∧ (u.part 0).control.head ≠ 1 ∧
      (let f (i : Nat) : Byte := u.mem.byte ((u.part 0).control.base + 32 * (u.part 0).control.head + i)
       numAt f 1 1 = 0 ∧ numAt f 4 4 = 0 ∧ (u.context (numAt f 2 2)).map (·.part) = some 0 ∧ numAt f 0 1 = 1 ∧
         numAt f 8 8 % 65536 = 0 ∧ numAt f 16 8 % 65536 = 0) ∧
      (let f (i : Nat) : Byte := u.mem.byte ((u.part 0).admin.base + 64 * (u.part 0).admin.head + i)
       ZerosAt f 1 7 ∧ numAt f 0 1 = 5 ∧ numAt f 24 4 = 300 ∧ ZerosAt f 16 8 ∧ ZerosAt f 28 36) := by
  unfold QuietHome LastRecord ZerosAt; decide +kernel

/-- A copy in the tile queue that uses a page. -/
def copying (s : State) : State := withCore (fun c => { c with queue := [{ clearing with pages := [(0x10000, 0x10000)] }] }) s

/-- A context record at an address: id, partition 0 and a root. -/
def installing (id : Nat) : State :=
  let s := (ringed 0 loaded).setContext 1 (some {})
  { s with mem := Memory.write s.mem 0x220000 (unitsOf 1 [(0, id), (8, 0x300001)]) }

/-- Pages of the range in use and not; records that can be installed and not; a context that is idle and one that is
not; queues that can be bound and not; a tag that no launch has, and one that the launch with blocks has; limits at
their ends and beyond. -/
theorem witness_RequestResults :
    (copying loaded).pagesInUse 1 0x10000 0x10000 = true ∧ (copying loaded).pagesInUse 1 0 (2 ^ 64) = true ∧
      (copying loaded).pagesInUse 1 0x20000 0x10000 = false ∧ loaded.pagesInUse 1 0 (2 ^ 64) = false ∧
      (∀ id ∈ [0, 1, 2, 4095], (installing id).contextOk 0 ((installing id).mem.read 0x220000 64) = decide (2 ≤ id)) ∧
      QuietHome (installing 2) ∧ ((installing 2).launch 0).undoing = false ∧
      (0, 2 ^ 30) ∈ ((installing 2).part 0).win0 ++ ((installing 2).part 0).win1 ∧
      (((installing 2).context 1).map (·.part)) = some 0 ∧ (installing 2).context 2 = none ∧
      (installing 2).contextIdle 1 = false ∧
      (withLaunch (fun l => { l with phase := .done }) (installing 2)).contextIdle 1 = true ∧
      ((installing 2).queue 0).head = ((installing 2).queue 0).tail ∧ ((installing 2).queue 0).hold = .free ∧
      ((installing 2).queue 0).signals = [] ∧ (installing 2).openOf 0 1 = [] ∧ (installing 2).openOf 0 0 = [0] ∧
      ((installing 2).launch 0).record.tag = 0 ∧
      ((installing 2).openOf 0 0).find? (fun l => ((installing 2).launch l).record.tag == 0) = some 0 ∧
      ((installing 2).launch 0).ending = none ∧ ((installing 2).launch 0).open = true ∧ (installing 2).residents 0 ≠ [] ∧
      ¬ KeepsStatus ((installing 2).launch 0) ∧
      (∀ st ∈ [2, 9], let s := withLaunch (fun l => { l with ending := some st }) (installing 2)
        (KeepsStatus (s.launch 0) ↔ st = 2) ∧ s.openOf 0 0 = [0] ∧ (s.launch 0).record.tag = 0) ∧
      KeepsStatus ((withLaunch (fun l => { l with undoing := true }) (installing 2)).launch 0) := by
  unfold QuietHome KeepsStatus; decide +kernel

/-- The mailbox holds a request with an argument and the configuration in force, or another layout. -/
def mailed (op arg layout : Nat) (s : State) : State :=
  { s with mailbox := { command := 2 ^ 31 + op, argument := arg
                        data := Memory.write (Memory.write [] 0 s.configBytes) 6 [BitVec.ofNat 8 layout] } }

/-- A record that keeps its map and changes the layout, with a context installed and none; one without a map; numbers of
devices at their end and beyond; an operation that the mailbox does not know. -/
theorem witness_MailboxResults :
    let t := mailed 1 0 2 loaded
    let bs := t.mailbox.data.read 0 1296
    t.mailbox.command / 2 ^ 31 % 2 = 1 ∧ t.mailbox.command % 256 = 1 ∧ configOk bs = true ∧
      (∃ i ∈ t.installed, ((t.context i).map (·.part)).getD 0 ∈ t.touched bs) ∧ { t with contexts := [] }.installed = [] ∧
      configOk ((loaded.mailbox.data).read 0 1296) = false ∧ (mailed 3 64 1 loaded).mailbox.argument = 64 ∧
      loaded.installed ≠ [] ∧ (mailed 3 63 1 loaded).mailbox.argument < 64 ∧ State.reset.installed = [] ∧
      (mailed 5 0 1 loaded).mailbox.command % 256 = 5 ∧ (mailed 4 0x300000 1 loaded).mailbox.command % 256 = 4 ∧
      DeviceAddress 0x300000 ∧ ¬ DeviceAddress (2 ^ 41) ∧ ¬ DeviceAddress (2 ^ 63 + 2 ^ 60) ∧
      QuietHome (mailed 4 0x300000 1 loaded) ∧ Tab.sorted loaded.cores = true ∧ (loaded.core 0).codes = [] ∧
      ((withCore (fun c => { c with codes := [(7, 4)] }) loaded).core 0).codes ≠ [] := by
  unfold DeviceAddress QuietHome; decide +kernel

/-! ## Launches and saves -/

/-- The small state's launch in a partition of one stack, with a grid of g blocks, of which the first stands on core 0. -/
def launching (g : Nat) : State :=
  { withRecord (fun r => { r with gridX := g, arenasize := 2 ^ 27, phasewait := 5 }) loaded with layout := 4 }

/-- It has not started, in a core pool of n rows, and waits for its phase. -/
def unstarted (n scratch : Nat) : State :=
  withRecord (fun r => { r with phwait := true, scratchL := scratch })
    (withLaunch (fun l => { l with started := false, next := 0, phase := .waiting })
      { launching 2 with cores := (List.range 64).map fun c => (c, { rows := n }) })

/-- A launch of a higher priority waits for a core too. -/
def behind : State :=
  let s := launching 2
  s.setLaunch 1 { s.launch 0 with order := 1, record := { (s.launch 0).record with prio := 9 } }

/-- A block of a launch that runs; a first placement that is refused, one that waits, and one that fits. -/
theorem witness_PlacementResults :
    (∀ s ∈ [launching 2, unstarted 6144 1638400, unstarted 800 16384, unstarted 6144 16384], Placing s 0) ∧
      ((launching 2).launch 0).started = true ∧ (launching 2).unitCores 0 0 = some [0] ∧
      (launching 2).slotsFor 0 1 = true ∧ (launching 2).turnOf 0 = true ∧ (behind.turnOf 0 = false ∧ Placing behind 0) ∧ ((launching 2).launch 0).record.unit = 1 ∧
      ((launching 2).launch 0).record.region = false ∧ ((launching 2).launch 0).record.gang = 1 ∧
      ((launching 2).launch 0).record.scratchK = 0 ∧ 0 ∈ (launching 2).coresOf ((launching 2).launch 0).part ∧
      (launching 2).coreTakes 0 0 = true ∧ (launching 2).coreMatches ((launching 2).launch 0).record 0 = true ∧
      ((launching 2).core 0).carve.slots ≤ 16 ∧ ((unstarted 6144 16384).launch 0).started = false ∧
      (unstarted 6144 1638400).verdict 0 = .refuse 6 ∧ (unstarted 800 16384).verdict 0 = .waits ∧
      ((unstarted 800 16384).launch 0).phase ≠ .held ∧ ((unstarted 800 16384).launch 0).record.phasewait ≠ 0 ∧
      (unstarted 6144 16384).verdict 0 = .fits := by
  unfold Placing; decide +kernel

/-- Every core but core 0 has failed, and core 0 is full. -/
def crowded : State :=
  withRecord (fun r => { r with bpc := 1 }) { launching 2 with
    cores := (0, (launching 2).core 0) :: (List.range 63).map fun c => (c + 1, { failed := true }) }

/-- A block that needs more rows than a core can have; a gang of two of which only one core is in service; a launch that
no core can hold now, which waits for a phase or not, and one that a core can hold. -/
theorem witness_PlacementResults_verdict :
    let need (r : LaunchRec) : Nat := r.warps * r.regs + r.scratchL / 256 + 128 * r.l1min
    let now (s : State) (c : Nat) : Bool :=
      !(s.core c).offline (s.die (c / 64)).phase && decide (need (s.launch 0).record ≤ (s.core c).rows - 256)
    let two := withRecord (fun r => { r with gang := 2 }) crowded
    let wide := withRecord (fun r => { r with gang := 2 }) (launching 2)
    5888 < need ((unstarted 6144 1638400).launch 0).record ∧
      (need (two.launch 0).record ≤ 5888 ∧ (two.launch 0).record.region = false ∧
        ∀ c ∈ two.coresOf 0, c ≠ 0 → (two.core c).offline 3 = true) ∧
      (∀ w, let s := withRecord (fun r => { r with phwait := w }) (unstarted 800 16384)
        need (s.launch 0).record ≤ 5888 ∧ (s.launch 0).record.region = false ∧ (s.launch 0).record.gang = 1 ∧
          (s.launch 0).record.phwait = w ∧ ∀ c ∈ s.coresOf 0, now s c = false) ∧
      (need (wide.launch 0).record ≤ 5888 ∧ (wide.launch 0).record.gang = 2 ∧ 0 ∈ wide.coresOf 0 ∧
        ∀ c < 2, now wide c = true ∧ (wide.core c).offline 3 = false ∧
          need (wide.launch 0).record ≤ (wide.core c).rowsAt 3 - 256) := by decide +kernel

/-- A region of two blocks of which the second has exited; its comet stands at a position. -/
def comet (at_ : Nat) (back : Bool) : State :=
  withLaunch (fun l => { l with comet := at_, cometBack := back, exited := [0, 1], record := { l.record with region := true } })
    { launching 2 with blocks := [] }

/-- The warp of the small state has ended. -/
def ended (replay : Bool) : State :=
  withBlock (fun b => { b with replay := replay }) (withWarp (fun w => { w with stat := .ended }) (launching 1))

theorem witness_LaunchLifeResults :
    (let x := (launching 2).launch 0
     x.open = true ∧ x.next < x.record.gridX * x.record.gridY * x.record.gridZ) ∧
      (crowded.launch 0).open = true ∧ crowded.drainChoice 0 = some 0 ∧ crowded.headOf 0 = some 0 ∧
      crowded.headOf 0 ≠ some 1 ∧ QuietHome (launching 2) ∧ OrderedL1 (launching 2) 1 ∧
      (0 ∈ (launching 2).waitingLaunches ∧ ((launching 2).core 1).draining = none ∧
        (∀ e ∈ [(some 0, some 0), (some 5, some 0)], let s := (launching 2).setCore 1 { draining := e.1 }
          (s.core 1).draining = e.1 ∧ s.headOf 0 = e.2 ∧ 5 ∉ s.waitingIn 0) ∧
        (∀ y ∈ (launching 2).blocks, ¬ y.1 / 16 = 1) ∧ 1 ∈ (launching 2).coresOf 0 ∧ (launching 2).coreOpen 1 = true ∧
        ((launching 2).die (1 / 64)).step = none ∧
        (((launching 2).launch 0).record.carve (((launching 2).core 1).rows - 256)).isSome = true) ∧
      (∀ s ∈ [launching 2, unstarted 800 16384], ((withLaunch (fun l => { l with phase := .held }) s).launch 0).phase = .held) ∧
      (withLaunch (fun l => { l with phase := .held }) (launching 2)).verdict 0 = .fits ∧
      (withLaunch (fun l => { l with phase := .held }) (unstarted 800 16384)).verdict 0 ≠ .fits ∧
      ((unstarted 800 16384).launch 0).record.phasewait ≠ 0 ∧
      ((launching 2).launch 0).record.phasewait ≠ 0 ∧
      (∀ e ∈ [(0, false), (0, true), (1, true)], let s := comet e.1 e.2
        let x := s.launch 0
        x.open = true ∧ x.record.region = true ∧ x.started = true ∧ x.ended = false ∧ s.idleAt 0 x.comet = true ∧
          x.cometBlack = false ∧ s.blackAt 0 0 = false ∧ (∀ y ∈ s.blocks, y.2.takers = [])) ∧
      (∀ s ∈ [withLaunch (fun x => { x with cometBlack := true }) (comet 0 true),
          (comet 0 true).setCardQueue 0 0 { (comet 0 true).cardQueue 0 0 with black := true }],
        let x := s.launch 0
        x.open = true ∧ x.record.region = true ∧ x.started = true ∧ x.ended = false ∧ s.idleAt 0 0 = true ∧ x.comet = 0 ∧
          x.cometBack = true ∧ (x.cometBlack = true ∨ s.blackAt 0 0 = true)) ∧
      (∀ r, let s := ended r
        (s.block 0).used = true ∧ (∀ k ∈ s.warpsOf 0, (s.warp k).stat = .ended) ∧ s.unitsClear 0 = true ∧
          (s.block 0).launch = 0 ∧ (s.block 0).replay = r) ∧
      AllExited (withLaunch (fun l => { l with exited := [0, 1] }) { launching 2 with blocks := [] }) 0 ∧
      ¬ AllExited (launching 2) 0 := by
  unfold AllExited QuietHome OrderedL1; decide +kernel

/-- The small state's warp waits for the baton, and its block is being saved for a reason. -/
def saving (r : Option SaveReason) : State :=
  mapped (ringed 0 (withBlock (fun b => { b with saving := r })
    (withWarp (fun w => { w with ma := { w.ma with wait := .baton } }) (launching 1))))

/-- A saved block of a launch without scratchpad, of 8 v-registers, with a first word of its image: one ended warp. -/
def saved (word : Nat) : State :=
  let s := { withCore (fun c => { c with carve := { c.carve with regRows := 8, scratchRows := 0 } }) (mapped (ringed 0 (withLaunch
    (fun l => { l with saved := [{ lin := 0, slot := 0, stopped := false, evicted := false, holder := false }]
                       record := { l.record with regs := 8, scratchL := 0 } }) (launching 1)))) with blocks := [] }
  { s with mem := [(0, word), (8, 8 * 2 ^ 48), (96, 7168), (384, 0xFEBC202), (392, 0xFE3C102), (400, 0x4200E1A082),
      (408, 0x400000200)].foldl (fun (m : Memory) (e : Nat × Nat) => Memory.write m (s.slotBase 0 0 + e.1) (leBytes e.2 8)) s.mem }

/-- A launch of a higher priority waits for a core, all of which but the one with the small state's block are out of
service; that block waits for the baton or runs on. -/
def crowding (aged waits : Bool) : State :=
  let s := withBlock (fun b => { b with saving := none })
    (withWarp (fun w => { w with ma := { w.ma with wait := if waits then .baton else .none } }) (launching 1))
  let s : State := { s with cores := (0, s.core 0) :: (List.range 63).map fun c => (c + 1, { rows := 6144, failed := true }) }
  s.setLaunch 1 { s.launch 0 with
    order := 1, aged := aged, started := true, next := 0, phase := .waiting, exited := []
    record := { (s.launch 0).record with prio := 6, regs := 16, gridX := 2 } }

/-- A block that gives way to a launch of a higher priority, by itself or, once that has aged, by force; and one whose
cluster's test is due. -/
theorem witness_SaveResults_room :
    (let s := crowding false true
     (s.members 0).all s.preemptible = true ∧ (s.block 0).saving = none ∧ s.partOfStack (0 / 1024) = 0 ∧
       s.headOf 0 = some 1 ∧ (s.launch 1).part = 0 ∧ FewestFor s 1 [0]) ∧
    (let s := crowding true false
     (s.members 0).all s.preemptible = false ∧ (s.block 0).used = true ∧ (s.block 0).saving = none ∧ 1 ∈ s.waitingIn 0 ∧
       (s.launch 1).part = 0 ∧ (s.launch 1).aged = true ∧ s.wantsRoom 1 = true ∧ s.victimSets 1 = [] ∧ 0 ∈ s.coresOf 0 ∧
       (s.launch 1).record.region = false ∧ (s.launch 1).record.gang = 1 ∧ (∀ e ∈ s.blocks, e.1 = 0) ∧
       (s.block 0).launch ≠ 1 ∧ ((s.lacking [0]).unitCores 1 0).isSome = true) ∧
    TestDueOn ((saving none).setCluster 0 { (saving none).cluster 0 with testDue := true }) [0] ∧
    ¬ TestDueOn (saving none) [0] ∧ (saving none).waitingIn 0 = [] ∧
    (saving none).headOf 0 = none := by
  unfold FewestFor TestDueOn; decide +kernel

/-- Blocks that can be pre-empted, and be saved. -/
theorem witness_SaveResults_save :
    ((saving none).members 0).all (saving none).preemptible = true ∧ ((saving none).block 0).saving = none ∧
      ((saving none).block 0).used = true ∧ ((saving (some .forced)).block 0).saving = some .forced ∧
      (∀ r ∈ [.preempt, .trap, .step, .evict], (saving (some r)).savable 0 = true) ∧ (saving none).members 0 = [0] ∧
      ((saving none).block 0).replay = false ∧ ((saving none).block 0).launch = 0 ∧
      (let s := (saving (some .evict)).setDie 0
        { step := some { target := 1, source := 3, stage := 1, evicted := 0, copied := 0 } }
       s.savable 0 = true ∧ (s.block 0).saving = some .evict ∧ (s.die 0).step.isSome = true) := by
  decide +kernel

/-- A saved block whose image is not good, with another block of its launch on a core; units that are not to be
restored. -/
theorem witness_SaveResults_resident :
    (let s := (withRecord (fun r => { r with gridX := 2 }) (saved 0)).setBlock 16 { used := true, lin := 1, warps := 1 }
     (s.launch 0).open = true ∧ (s.launch 0).undoing = false ∧ (s.launch 0).ending = none ∧ s.residents 0 = [16] ∧
       s.turnToRestore 0 0 = true ∧ s.unitCores 0 0 = some [0] ∧ s.savedUnit 0 0 = (s.launch 0).saved ∧
       (s.launch 0).saved.length = 1 ∧
       (s.launch 0).saved.all (fun e => imageBad (s.readImage 0 e).2 (s.launch 0).record) = true) ∧
    ((withLaunch (fun x => { x with undoing := true }) (saved 0)).launch 0).runs = false ∧
    (launching 2).unitReady 0 0 = false ∧ (saved 0).unitReady 0 0 = true := by
  decide +kernel

/-- A saved block whose image is good, and one whose image is not. -/
theorem witness_SaveResults :
    let good : Nat := 0x53 + 0x56 * 2 ^ 8 + 0x49 * 2 ^ 16 + 2 ^ 32 + 2 ^ 56
    (∀ w ∈ [good, 0], let s := saved w
      (s.launch 0).open = true ∧ (s.launch 0).undoing = false ∧ (s.launch 0).ending = none ∧
        (s.launch 0).record.unit = 1 ∧ 0 ∉ (s.launch 0).exited ∧ s.residents 0 = [] ∧ s.turnToRestore 0 0 = true ∧
        (s.launch 0).saved.all (fun e => e.kept.all (·.reply.isNone)) = true ∧ s.savedUnit 0 0 = (s.launch 0).saved ∧ (s.launch 0).saved.length = 1 ∧
        (s.launch 0).saved.all (!·.stopped) = true ∧ s.unitCores 0 0 = some [0] ∧
        s.coreMatches (s.launch 0).record 0 = true ∧ (s.core 0).carve.slots ≤ 16) ∧
      (saved good).launch 0 = (saved 0).launch 0 ∧
      ((saved good).launch 0).saved.all (fun e =>
        let bs := ((saved good).readImage 0 e).2
        !imageBad bs ((saved good).launch 0).record && decide (numAt (fun i => bs.getD i 0#8) 15 1 / 4 % 2 = 0)) = true ∧
      ((saved 0).launch 0).saved.all (fun e => imageBad ((saved 0).readImage 0 e).2 ((saved 0).launch 0).record) = true ∧
      (∀ e ∈ [(400, true), (100, false)], ((saved good).launch 0).saved.all (fun x =>
        let s : State := { saved good with poison := [(saved good).slotBase 0 0 / 8 + e.1] }
        (let (u, bs) := s.readImage 0 x; (u.savedPoison 0 x bs.length).all (poisonKept (s.launch 0).record) == e.2)) = true) := by
  decide +kernel

end Sys2Proof.Tests
end

