-- ==== Sys2Proof/Tests/WitnessDevices.lean ====
section
/-! SUPPORT. For each statement about timers, tile units, phases, reliability, the memory system and the step, states and
operands that meet the hypotheses of its clauses. -/

namespace Sys2Proof.Tests

set_option Elab.async false

open Sys2Proof Sys2Proof.Machine Sys2Proof.Claims

set_option maxRecDepth 100000
set_option synthInstance.maxSize 1024

/-! ## Timers, the baton's queue, run-ahead contexts -/

/-- An object of phase 0, and a slot that waits for it with a token and a limit. -/
def waiting (tok : Bool) (limit : Nat) : State :=
  withWarp (fun w => { w with ma := { w.ma with wait := .bowait 0 0 tok limit 4 0#2 } }) (object 0 0 1 1 0)

/-- The warp of slot 0 first in the baton's queue; the context that used the engine last, whether the engine still works,
and whether a save has recorded one for the warp. -/
def queued (ctx : Nat) (busy saved : Bool) : State :=
  withCore (fun c => { c with batonQueue := [0, 2], batonCtx := ctx, streamBusy := if busy then some clearing else none
                              savedEngines := if saved then [{ block := 0, holder := some 0, ops := [clearing], bank0 := {},
                                                               bank1 := {}, accum := [], overflow := true }] else [] }) loaded

/-- A warp whose promotion was requested, with some contexts taken by warps of an engine state. -/
def requested (n : Nat) (sole : Bool) : State :=
  (List.range n).foldl (fun (s : State) i => s.setWarp (i + 1) { stat := .running, engine := .re, requested := true })
    (withCore (fun c => { c with reWarps := (List.range n).map (· + 1) })
      (withWarp (fun w => { w with requested := !sole, sole := sole }) loaded))

/-- The warps 1 to 4 are on an engine. -/
def engines (e : Engine) (s : State) : State :=
  [1, 2, 3, 4].foldl (fun s i => s.setWarp i { s.warp i with engine := e }) s

/-- The warp inside an `npr` span, of which some cycles have passed; its slot at a word of a packet; on an engine. -/
def spanned (n : Nat) : State := withWarp (fun w => { w with npr := true, nprCount := n }) loaded
def engaged (e : Engine) (mid : Bool) : State :=
  withWarp (fun w => { w with engine := e, ma := { w.ma with pkt := [0#32], mid := mid } }) loaded

theorem witness_TimerResults :
    (let s := spanned 16384
     (s.warp 0).npr = true ∧ (s.warp 0).stat = .running ∧ 16384 ≤ (s.warp 0).nprCount ∧ (s.core 0).window = [] ∧
       ∀ x ∈ (s.core 0).queue, x.back = none) ∧
      (loaded.warp 0).npr = false ∧ ((spanned 16383).warp 0).nprCount < 16384 ∧
      (∀ e ∈ [(false, 0), (false, 5), (true, 0)], ((waiting e.1 e.2).warp 0).stat = .running ∧
        (((waiting e.1 e.2).warp 0).micro false).wait = .bowait 0 0 e.1 e.2 4 0#2) ∧
      ((object 0 0 1 1 0).block 0).scratch.num 0 8 / 2 ^ 63 = 0 ∧
      (∀ e ∈ [(1, true, false), (0, true, false), (0, false, false), (1, false, true)], let s := queued e.1 e.2.1 e.2.2
        (s.core 0).baton = none ∧ (s.core 0).batonQueue = 0 :: [2] ∧ 0 / 2 = 0) ∧
      loaded.myCtx = 1 ∧ ¬ EngineOpen (queued 0 true false) ((queued 0 true false).core 0) 1 0 ∧
      (∀ s ∈ [queued 1 true false, queued 0 false false, queued 1 false true], EngineOpen s (s.core 0) 1 0) ∧
      (∀ s ∈ [queued 1 true false, queued 0 false false], ∀ e ∈ (s.core 0).savedEngines, e.holder ≠ some 0) ∧
      ((queued 1 false true).core 0).savedEngines.all (fun e =>
        e.holder == some 0 && e.ops.all fun o => coreOfBlock o.block == 0) = true ∧ (loaded.warp 0).cls = none ∧ ((requested 3 false).warp 0).cls = some 4 ∧
      ((requested 4 true).warp 0).cls = some 3 ∧
      (∀ e ∈ [(3, false), (4, false), (4, true)], let s := requested e.1 e.2
        (s.warp 0).engine = .ie ∧ (s.warp 0).granted = false ∧ (s.warp 0).stat = .running ∧ (s.warp 0).cls ≠ none ∧
          s.promotable 0 = true ∧ (s.core 0).reWaiting = [] ∧ (s.leaving 0).length = 0 ∧
          ([0].filter fun j => s.eligible j && decide ((s.warp j).turnOf ≤ (s.warp 0).turnOf)).length = 1) ∧
      ((requested 3 false).core 0).reWarps.length < 4 ∧ 4 ≤ ((requested 4 false).core 0).reWarps.length ∧
      (requested 4 false).displaced 0 4 = none ∧
      (∀ e ∈ [Engine.promoting, .re], let s := engines e (requested 4 true)
        4 ≤ (s.core 0).reWarps.length ∧ (s.leaving 0).length = 0 ∧ (s.displaced 0 3).any (fun j => (s.warp j).engine == e) = true) ∧
      (∀ m, let s := withWarp (fun w => { w with granted := true }) (engaged .ie m)
        (s.warp 0).granted = true ∧ (s.warp 0).atBoundary = !m ∧ (s.warp 0).stat = .running ∧ (s.core 0).window = []) ∧
      (∀ e ∈ [(false, true), (true, true), (false, false)],
        let s := withWarp (fun w => { w with displaced := e.1, requested := e.2 }) (engaged .promoting false)
        (s.warp 0).granted = false ∧ (s.warp 0).engine = .promoting ∧ (s.warp 0).displaced = e.1 ∧
          (s.warp 0).triggered = e.2) ∧
      (loaded.warp 0).granted = false ∧ (loaded.warp 0).engine = .ie ∧
      (∀ m, ((engaged .demoting m).warp 0).engine = .demoting ∧ ((engaged .demoting m).warp 0).drained = !m) ∧
      (let s := withCore (fun c => { c with reWaiting := [1] }) (withWarp (fun w => { w with engine := .demoting }) loaded)
       (s.warp 0).drained = true ∧ (s.warp 0).engine = .demoting ∧ (s.core 0).reWaiting ≠ []) ∧
      (let s := withCore (fun c => { c with copy0 := some ⟨clearing, 0, 0, []⟩, copy1 := some ⟨clearing, 0, 0, []⟩ }) loaded
       (s.core 0).copy0 ≠ none ∧ (s.core 0).copy1 ≠ none) := by
  unfold EngineOpen; decide +kernel

/-! ## Tile units -/

/-- An instruction of the block's, with its values; shapes of plain tiles. -/
def tile (op : Nat) (vals : List Word) (f1 : Word) : TileOp := { clearing with op := op, vals := vals, f1 := f1 }

def streaming (x : TileOp) : State :=
  withCore (fun c => { c with streamBusy := some x, bank0 := { c.bank0 with loaded := true, fmt := Config.standardOf 13 } }) loaded
def loading (x : TileOp) : State := withCore (fun c => { c with loadBusy := some x }) loaded

theorem plain (s : State) (b : Nat) (base shape : Word) (z stride rows len : Nat) (h : (s.block b).scratchSize ≤ 2 ^ 21 ∧
    shape = BitVec.ofNat 64 (z * 2 ^ 32 + 0 * 2 ^ 27 + stride * 2 ^ 11 + (rows - 1)) ∧ 1 ≤ rows ∧ rows ≤ 2 ^ 11 ∧
    stride < 2 ^ 16 ∧ base.toNat + (rows - 1) * stride + len ≤ (s.block b).scratchSize) :
    PlainTile s b base shape z stride rows len :=
  ⟨h.1, ⟨0, by decide, h.2.1⟩, ⟨h.2.2.1, h.2.2.2.1, h.2.2.2.2.1⟩, h.2.2.2.2.2⟩

def weights : TileOp := tile 0xF2 [0, plainShape 0 384 2, 0, 0, 0] 0
def product : TileOp := tile 0xF4 [0, plainShape 0 384 2, 0x200000000#64, 0, 0] (Config.standardOf 13)
def chainHead : TileOp := tile 0xF4 [0, plainShape 0 384 2, 0x40000000000000#64, 0, 0] (Config.standardOf 13)
def reading : TileOp := tile 0xF6 [0, plainShape 0 256 2, 0x400000000#64, 0, 0] (Config.standardOf 11)
def filling : TileOp := tile 0xFD [0x3FF0#64, plainShape 0 16 1, 0xFF#64, 0, 16#64] 0

/-- Each instruction in its unit, on tiles of the block's scratchpad, one of them at its end; one that may start; one of a
chain and a copy at the head of the queue. -/
theorem witness_TileUnitResults :
    let first (x : TileOp) : State := withCore (fun c => { c with queue := [x] }) loaded
    (∀ s ∈ [streaming product, loading weights, first clearing, first chainHead, first filling], QuietScratch s) ∧
      coreOfBlock clearing.block = 0 ∧
      ((first clearing).startable 0 true = some clearing ∧ UnitFree (first clearing) 0 .stream ∧ clearing.chained = false ∧
        isCopy clearing.op = false ∧ Untaxed (first clearing) clearing) ∧
      ((first filling).startable 0 false = some filling ∧ UnitFree (first filling) 0 .load ∧ filling.chained = false ∧
        isCopy filling.op = false ∧ Untaxed (first filling) filling) ∧
      ((first chainHead).startable 0 true = some chainHead ∧ ((first chainHead).core 0).streamBusy = none ∧
        chainHead.chained = true) ∧
      (let x : TileOp := { filling with op := 0xF0, vals := [0x80#64, plainShape 0 16 1, 0#64, plainShape 0 16 1, 16#64] }
       (first x).startable 0 false = some x ∧ ((first x).core 0).loadBusy = none ∧ isCopy x.op = true) ∧
      ((streaming clearing).core 0).streamBusy = some clearing ∧ clearing.op = 0xF7 ∧
      (tile 0xF9 [0, 0, 0, 0, 0] 0).op = 0xF9 ∧ ((tile 0xF9 [0, 0, 0, 0, 0] 0).val 2).toNat / 2 ^ 31 % 2 = 0 ∧
      (((loading weights).core 0).loadBusy = some weights ∧ weights.op = 0xF2 ∧
        PlainTile (loading weights) 0 (weights.val 0) (weights.val 1) 0 384 2 384 ∧ (weights.val 2).toNat / 2 ^ 53 % 2 = 0) ∧
      (((streaming product).core 0).streamBusy = some product ∧ product.op = 0xF4 ∧
        PlainTile (streaming product) 0 (product.val 0) (product.val 1) 0 384 2 384 ∧
        (product.val 2).toNat / 2 ^ 54 % 4 = 0 ∧ (nfOf (Config.standardOf 13)).isInt = false ∧
        ((streaming product).core 0).bank0.fmt = Config.standardOf 13) ∧
      (((streaming reading).core 0).streamBusy = some reading ∧ reading.op = 0xF6 ∧
        PlainTile (streaming reading) 0 (reading.val 0) (reading.val 1) 0 256 2 (8 * (nfOf reading.f1).cont) ∧
        8 * (nfOf reading.f1).cont ≤ 256 ∧ (reading.val 4).toNat / 2 ^ 31 % 2 = 0 ∧
        (reading.val 2).toNat / 2 ^ 35 % 2 = 0 ∧ (reading.val 2).toNat / 2 ^ 36 % 2 = 0) ∧
      (((loading filling).core 0).loadBusy = some filling ∧ filling.op = 0xFD ∧
        PlainTile (loading filling) 0 (filling.val 0) (filling.val 1) 0 16 1 ((filling.val 4).toNat % 2 ^ 11) ∧
        (filling.val 4).toNat / 2 ^ 31 % 2 = 0) := by
  intro first
  refine ⟨?_, ?_, ?_, ?_, ?_, ?_, ?_, ?_, ?_, ?_, ⟨?_, ?_, plain _ _ _ _ _ _ _ _ ?_, ?_⟩,
    ⟨?_, ?_, plain _ _ _ _ _ _ _ _ ?_, ?_⟩, ⟨?_, ?_, plain _ _ _ _ _ _ _ _ ?_, ?_⟩,
    ⟨?_, ?_, plain _ _ _ _ _ _ _ _ ?_, ?_⟩⟩
  case refine_1 =>
    simp only [List.forall_mem_cons, List.not_mem_nil, false_implies, implies_true, and_true]
    refine ⟨?_, ?_, ?_, ?_, ?_⟩ <;> exact quiet_scratch (by decide +kernel) (by decide +kernel)
  all_goals first | decide +kernel | (unfold UnitFree Untaxed; decide +kernel)

def scaling : TileOp := tile 0xF9 [0, 0, 0x80000400#64, 0, 0] 0
def weightColumns : TileOp := tile 0xF3 [0, plainShape 0 64 64, 0, 0, 0] (Config.standardOf 2)
def transposing : TileOp := tile 0xF8 [0#64, plainShape 0 2 4, 0x100#64, plainShape 0 4 2, 0] (Config.standardOf 2)
def converting : TileOp :=
  { tile 0xFA [0#64, plainShape 0 64 2, 0x100#64, plainShape 0 16 2, 16#64] (Config.standardOf 11) with f2 := Config.standardOf 2 }

/-- Core 1 executes the `mmarx` of a chain at whose head the product stands. -/
def chaining : State :=
  (streaming chainHead).setCore 1 { streamBusy := some (tile 0xF5 [0, 0, 0x200000000#64, 0, 0] 0)
                                    bank0 := { loaded := true, fmt := Config.standardOf 13 } }

/-- A scaling of accumulators; weights by columns; rows transposed and converted; a chain of two cores. -/
theorem witness_TileUnitResults_rows :
    (∀ s ∈ [streaming scaling, loading weightColumns, loading transposing, loading converting, chaining], QuietScratch s) ∧
      ((∀ s ∈ [streaming scaling, streaming product, streaming reading], CleanEngine (s.core 0)) ∧
        ∀ j < 4, CleanEngine (chaining.core (0 + j))) ∧
      (((streaming scaling).core 0).streamBusy = some scaling ∧ scaling.op = 0xF9 ∧ (scaling.val 2).toNat / 2 ^ 31 % 2 = 1) ∧
      ((nfOf weightColumns.f1).width = 8 ∧ (weightColumns.val 2).toNat / 2 ^ 53 % 2 = 0 ∧ 64 ≤ 3072 / 8 ∧
        PlainTile (loading weightColumns) 0 (weightColumns.val 0) (weightColumns.val 1) 0 64 64 (8 * 8)) ∧
      ((nfOf transposing.f1).width = 8 ∧ 2 * 1 ≤ 2 ∧ (transposing.val 4).toNat / 2 ^ 31 % 2 = 0 ∧
        PlainTile (loading transposing) 0 (transposing.val 0) (transposing.val 1) 0 2 4 (2 * 1) ∧
        PlainTile (loading transposing) 0 (transposing.val 2) (transposing.val 3) 0 4 2 (4 * 1)) ∧
      ((nfOf converting.f1).cont = 32 ∧ (nfOf converting.f2).cont = 8 ∧ (converting.val 4).toNat = 16 ∧
        PlainTile (loading converting) 0 (converting.val 0) (converting.val 1) 0 64 2 (16 * 32 / 8) ∧
        PlainTile (loading converting) 0 (converting.val 2) (converting.val 3) 0 16 2 (16 * 8 / 8)) ∧
      ((chaining.core 0).streamBusy = some chainHead ∧ (chainHead.val 2).toNat / 2 ^ 54 % 4 = 1 ∧
        (chaining.core (0 + 1 + 0)).streamBusy.isSome = true ∧
        (nfOf (chaining.core (0 + 1 + 0)).bank0.fmt).isInt = false ∧
        PlainTile chaining 0 (chainHead.val 0) (chainHead.val 1) 0 384 2 384) := by
  refine ⟨?_, ?_, ?_, ⟨?_, ?_, ?_, plain _ _ _ _ _ _ _ _ ?_⟩, ⟨?_, ?_, ?_, plain _ _ _ _ _ _ _ _ ?_, plain _ _ _ _ _ _ _ _ ?_⟩,
    ⟨?_, ?_, ?_, plain _ _ _ _ _ _ _ _ ?_, plain _ _ _ _ _ _ _ _ ?_⟩, ⟨?_, ?_, ?_, ?_, plain _ _ _ _ _ _ _ _ ?_⟩⟩
  case refine_1 =>
    simp only [List.forall_mem_cons, List.not_mem_nil, false_implies, implies_true, and_true]
    refine ⟨?_, ?_, ?_, ?_, ?_⟩ <;> exact quiet_scratch (by decide +kernel) (by decide +kernel)
  all_goals first | decide +kernel | (unfold CleanEngine; decide +kernel)

/-- A chain of two cores at its rendezvous. -/
def chainMember : TileOp := { tile 0xF5 [0, 0, 0, 0, 0] 0 with warp := 48, block := 16 }
def chain : State :=
  let s := withRecord (fun r => { r with gang := 2, gridX := 2 }) (withCore (fun c => { c with queue := [chainHead], baton := some 0 }) loaded)
  (s.setBlock 16 { used := true, lin := 1, warps := 1 }).setCore 1
    { queue := [chainMember], baton := some 48, bank0 := { loaded := true, fmt := Config.standardOf 13 } }

def copyOp : TileOp := tile 0xF0 [0x3FF0#64, plainShape 0 16 1, 0, plainShape 0 16 1, 16#64] 0

/-- A chain that is complete; a window with nothing, and one word that is delivered, with room in the queue and without; a
copy with both descriptor slots free, one free and none; a copy's last piece, at the end of the scratchpad. -/
theorem witness_CopyAndChainEvents :
    let last : Copy := ⟨copyOp, 0, 0, []⟩
    let x : TileOp := { copyOp with vals := [128, plainShape 0 16 1, 64, plainShape 0 16 1, 16#64] }
    let s := withCore (fun c => { c with copy0 := some last }) loaded
    ((chain.chainReady 0).any fun e => e.1 == chainHead && e.2 == [chainMember]) = true ∧ chainHead.core = 0 ∧
      chainMember.core ≠ 0 ∧ chain.memberFault chainHead chainMember = none ∧ (loaded.core 0).window = [] ∧
      (loaded.core 0).baton = none ∧
      (∀ e ∈ [(holder 1 loaded, true), (full (holder 1 loaded), false)],
        (e.1.core 0).window = [held] ∧ ((e.1.warp 0).micro false).wait ≠ .chain false ∧
          (e.1.decideWindow 0 true matches .deliver) = true ∧
          ((e.1.checkTile held.tile []).toOption.map fun y => e.1.tileRoom y.2 == e.2 && y.2.core == 0 && !y.2.chained) =
            some true) ∧
      (∀ e ∈ [(none, none), (some last, none), (some last, some last)],
        let s := withCore (fun c => { c with queue := [x], copy0 := e.1, copy1 := e.2 }) loaded
        s.startable 0 false = some x ∧ isCopy x.op = true ∧ (s.core 0).loadBusy = none) ∧
      ((s.core 0).copy0 = some last ∧ QuietScratch s ∧ s.copyBudget copyOp = 0 ∧ copyOp.op = 0xF0 ∧
         copyOp.val 4 = BitVec.ofNat 64 16 ∧ PlainTile s copyOp.block (copyOp.val 0) (copyOp.val 1) 0 16 1 16 ∧
         PlainTile s copyOp.block (copyOp.val 2) (copyOp.val 3) 0 16 1 16) := by
  intro last x s
  refine ⟨?_, ?_, ?_, ?_, ?_, ?_, ?_, ?_, ?_, quiet_scratch (by decide +kernel) (by decide +kernel), ?_, ?_, ?_,
    plain _ _ _ _ _ _ _ _ ?_, plain _ _ _ _ _ _ _ _ ?_⟩ <;> decide +kernel

/-! ## Phases and reliability -/

/-- Die 0 in a phase, in a step at a stage, with its clock stopped or not. -/
def stepping (phase stage target : Nat) (stopped : Bool) : State :=
  (ringed 0 loaded).setDie 0 { phase := phase, clockStopped := stopped, waiting := [(false, 1), (true, 2)]
                               step := if stage = 0 then none else some { target := target, source := phase, stage := stage, evicted := 0, copied := 0 } }

/-- A plan that keeps the core's slots, and one that leaves none. -/
def planned (slots : Nat) (s : State) : State :=
  withCore (fun c => { c with plan := some { slots := slots, ways := 4, moves := [(7, 6000)], copied := 1 } }) s

theorem witness_PhaseStepResults :
    (loaded.setCluster 3 { resetting := true }).dieResetting 0 = true ∧ loaded.dieResetting 0 = false ∧
      (∀ e ∈ [(3, 0), (3, 1), (3, 5), (0, 6)], let s := stepping e.1 e.2 1 false
        s.dieResetting 0 = false ∧ (s.die 0).phase = e.1 ∧ ((s.die 0).step.map (·.stage)) = (if e.2 = 0 then none else some e.2)) ∧
      ((stepping 3 1 1 false).evacuated 0 = true ∧ ((stepping 3 1 1 false).core 0).plan = none) ∧
      (planned 0 (stepping 3 1 1 false)).evacuated 0 = false ∧
      (∀ e ∈ [(3, 1), (1, 3)], ((stepping e.1 5 e.2 true).die 0).clockStopped = true) ∧
      ((stepping 3 5 1 false).die 0).clockStopped = false ∧
      (∀ n ∈ [0, 1], let s := planned n { withCore (fun c => { c with carve := {} }) (stepping 3 1 1 false) with blocks := [] }
       s.evacuated 0 = true ∧ (s.core 0).plan = some { slots := n, ways := 4, moves := [(7, 6000)], copied := 1 }) ∧
      (let s := planned 0 { stepping 3 1 1 false with blocks := [] }
       s.evacuated 0 = true ∧ (s.core 0).carve.slots ≠ 0) ∧
      (let s := stepping 1 6 1 false
       let r := (s.part (s.partOfStack 0)).event
       QuietHome s ∧ r.configured = true ∧ (r.tail + 1) % r.size ≠ r.head) ∧
      (∀ e ∈ [(unstarted 800 16384, false), (unstarted 6144 16384, true)],
        let s := (withLaunch (fun l => { l with phase := .held }) e.1).setDie 0
          { phase := 3, step := some { target := 3, source := 1, stage := 6, evicted := 0, copied := 0 } }
        (s.launch 0).phase = .held ∧ (s.launch 0).part = s.partOfStack 0 ∧ ((s.die 0).step.any fun x => x.stage == 6 &&
          decide (x.source < x.target)) = true ∧ (s.verdict 0 matches .fits) = e.2 ∧
          (match exec (.phaseStepComplete 0) s with
            | .next t => decide (t.verdict 0 = .fits) == e.2
            | _ => false) = true) := by
  unfold QuietHome; decide +kernel

/-- Core 0 after five droop events at one time. -/
def drooped (n : Nat) (s : State) : State := withCore (fun c => { c with droops := List.replicate 5 n, droopOut := true }) s

def late : State := { loaded with micros := 3000 }

/-- Droops of the last millisecond at a sample, whatever time has passed, and droops of which the last is long past. -/
theorem witness_CoreSampleResults :
    (∃ n, let s := drooped n loaded
      s.now.1 < n + 1000 ∧ 5 ≤ ((s.core 0).droops.filter fun u => decide (s.now.1 < u + 1000)).length ∧
        ∃ u ∈ (s.core 0).droops, s.now.1 < u + 2000) ∧
      (let s := drooped 0 late
       (∀ u ∈ (s.core 0).droops, u + 2000 ≤ s.now.1) ∧
         (s.core 0).droops.filter (fun u => decide (s.now.1 < u + 1000)) = []) := by
  have e : ∀ n (s : State), (drooped n s).now.1 = s.now.1 := fun _ _ => rfl
  have m : 3000 ≤ late.now.1 := Nat.le_add_right _ _
  have d : ∀ n, ((drooped n loaded).core 0).droops = List.replicate 5 n := fun n => by rfl
  have z : ((drooped 0 late).core 0).droops = List.replicate 5 0 := by rfl
  refine ⟨⟨loaded.now.1, ?_⟩, ?_⟩
  · simp [e, d]
  · simp only [e, z]
    refine ⟨?_, ?_⟩ <;> simp [List.replicate] <;> omega

/-- A burst's transfers before a failure, after the first, the fourth and the fifth; lanes to spare and none; links. -/
def failing (n spares : Nat) : State :=
  { loaded with attempts := Tab.put [] 9 n, spares := (List.range 4096).map fun k => (k, spares) }

theorem witness_ReliabilityResults :
    (∀ n ∈ [0, 1, 4, 5], Tab.get 0 (failing n 1).attempts 9 = n) ∧
      (let clear (s : State) (b : Nat) : Prop := ∀ e ∈ s.attempts, channelKey (64 * e.1) ≠ channelKey (64 * b)
       clear loaded 9 ∧ ¬ clear (failing 1 0) 9 ∧ clear (failing 1 0) 11) ∧
      (let s := { loaded with cells := [(18, 0x3A)] }
       s.corrected = [] ∧ (s.cells.filter fun e => e.1 / 2 == 9) = [(18, 0x3A)] ∧ loaded.corrected = [] ∧ loaded.cells = [] ∧
         9 / 2 < 2 ^ 57) ∧ NoEventRing loaded ∧ loaded.ecc = [] ∧
      loaded.suppressed = [] ∧ loaded.sparesAt (64 * 9) ≠ 0 ∧
      ({ failing 5 0 with spares := [(channelPlace (64 * 9), 0)] } : State).sparesAt (64 * 9) = 0 ∧
      ((loaded.setLink (linkKey (.domain 0)) { half := true, retraining := true }).link (linkKey (.domain 0))).retraining = true ∧
      ((loaded.setLink (linkKey (.domain 0)) { half := true, retraining := true }).link (linkKey (.domain 0))).half = true ∧
      (loaded.link (linkKey (.domain 0))).retraining = false ∧ (loaded.link (linkKey (.domain 0))).half = false ∧
      (let g := (loaded.core 0).carve
       g.slots = 16 ∧ 0 < g.scratchRows ∧ 256 + 0 * (g.regRows + g.scratchRows) + g.regRows + 0 < (loaded.core 0).rows ∧
         (loaded.block (16 * 0 + 0)).used = true) ∧
      (∀ x ∈ [LinkId.domain 11, .dieToDie 3 2], x.ok = true) ∧ ∀ x ∈ [LinkId.domain 12, .dieToDie 4 0, .dieToDie 0 3], x.ok = false := by
  refine ⟨by decide +kernel, by decide +kernel, by decide +kernel, fun k => get_all (fun x : Partition => x.event.configured = false) {} _ rfl (by decide +kernel) k,
    by decide +kernel⟩

/-- A launch that a rollback is to come for, with snapshots or without, at its last replay or before. -/
def undoing (snap unprotected : Bool) (rollbacks : Nat) (snaps replaying : List Nat) : State :=
  mapped (ringed 0 { withLaunch (fun l => { l with
    undoing := true, unprotected := unprotected, rollbacks := rollbacks, snaps := snaps, replaying := replaying
    record := { l.record with snap := snap, replays := 2, snappool := 0x400000, snappages := 3 } }) loaded with blocks := [] })

/-- A cancel came while the launch was to be undone. -/
def cancelled (s : State) : State := withLaunch (fun l => { l with ending := some 5 }) s

theorem witness_RollbackResults :
    (∀ s ∈ [undoing true false 0 [] [], undoing true false 2 [] [], undoing false false 0 [] [], undoing true true 0 [] [],
        cancelled (undoing true false 0 [] []), cancelled (undoing false false 0 [] [])],
      (s.launch 0).open = true ∧ (s.launch 0).undoing = true ∧ s.launchStill 0 = true ∧ (s.launch 0).snaps = [] ∧
        (s.launch 0).record.replays = 2) ∧
      ((undoing true false 0 [] []).launch 0).ending = none ∧
      ((cancelled (undoing true false 0 [] [])).launch 0).ending.isSome = true ∧
      ((undoing true false 0 [] []).launch 0).record.snap = true ∧ (loaded.launch 0).undoing = false ∧
      (loaded.launch 0).record.snap = false ∧
      (((undoing true false 0 [] []).cpXlate 1 (0x400000 + 2 ^ 16 * (0 + 1)) .read).any fun x =>
        x.2 == 0x410000 && ((x.1.sysXlate 1 0x500000).any fun y => y.2 == 0x500000 && y.1.records.isEmpty &&
          y.1.recordOrder.isEmpty && y.1.holders.isEmpty && y.1.windows.isEmpty && y.1.poison.isEmpty && y.1.attempts.isEmpty)) = true ∧
      (let p := 0x50FFFF / 2 ^ 16 * 2 ^ 16
       p ∈ ((undoing true false 0 [0x500000] []).launch 0).snaps ∧ p ∉ ((undoing true false 0 [0, 0x10000] []).launch 0).snaps ∧
         ((undoing true false 0 [0, 0x10000] []).launch 0).record.snappages - 1 ≤ 2) ∧
      (let v := withLaunch (fun l => { l with snaps := l.snaps ++ [0x500000] }) (undoing true false 0 [0] [])
       (v.cpRead 1 3 0x500000 (2 ^ 16)).isSome = true ∧ (v.cpRead 1 3 0x40000000 (2 ^ 16)).isNone = true) ∧
      7 ∈ ((undoing true false 0 [] [7]).launch 0).replaying ∧ 8 ∉ ((undoing true false 0 [] [7]).launch 0).replaying := by
  decide +kernel

/-- A cluster under a containment reset on a die that is in no step, or in a step at a stage. -/
def contained (stage : Nat) : State :=
  (loaded.setCluster 63 { resetting := true }).setDie 3 { waiting := [(false, 1), (true, 2)]
                                                          step := if stage = 0 then none else some { target := 1, source := 3, stage := stage, evicted := 0, copied := 0 } }

theorem witness_ContainmentResults :
    (∀ n ∈ [0, 1, 5], ((contained n).cluster 63).resetting = true) ∧ (loaded.cluster 0).resetting = false ∧
      (loaded.block 0).used = true ∧ 0 / 64 = 0 ∧ ((contained 0).die (63 / 16)).step = none ∧
      (((contained 1).die (63 / 16)).step.any fun p => p.stage == 1) = true ∧
      (((contained 5).die (63 / 16)).step.any fun p => p.stage == 5 && decide (p.target < p.source)) = true ∧
      (((contained 6).die (63 / 16)).step.any fun p => p.stage == 6) = true ∧ ((contained 6).cluster 63).resetting = true ∧
      (∀ e ∈ (contained 0).clusters, e.1 ≠ 63 → e.2.resetting = false) ∧ (loaded.warp 0).ready = true ∧
      (∀ e ∈ loaded.warps, e.1 / 192 ≠ 1) := by decide +kernel

/-- A cluster whose test is due, or under way with its blocks gone; a warp that holds a lock. -/
def testing (x : Cluster) (corrections : Tab Nat) : State :=
  withCore (fun c => { c with corrections := corrections }) ({ loaded with blocks := [] }.setCluster 0 x)

theorem witness_InfieldTestResults :
    (∀ e ∈ loaded.clusters, e.2.testDue = false ∧ e.2.testing = false) ∧ (loaded.cluster 0).resetting = false ∧
      ((testing { testDue := true } []).cluster 0).testDue = true ∧ TestReady (testing { testDue := true } []) 0 ∧
      ¬ TestReady loaded 0 ∧
      (let s := (withWarp (fun w => { w with npr := true }) loaded).setCluster 0 { testDue := true }
       TestReady s 0 ∧ TestHolder s 0) ∧
      ¬ TestHolder (testing { testDue := true } []) 0 ∧
      (∀ c ∈ [[], [(7, 3)], [(7, 4)]], let s := testing { testing := true } c
        (s.cluster 0).testing = true ∧ s.blocks = [] ∧ (s.core 0).corrections = c ∧
          ∀ e ∈ s.cores, e.1 ≠ 0 → e.2.corrections = []) ∧ (loaded.core 0).code 7 = 0 := by
  refine ⟨by decide +kernel, by decide +kernel, by decide +kernel, by unfold TestReady; decide +kernel,
    by unfold TestReady; decide +kernel, ⟨by unfold TestReady; decide +kernel, 0, 0, by decide +kernel⟩, ?_, by decide +kernel⟩
  rintro ⟨b, k, -, h, -⟩
  have := get_all (fun x : Block => x.used = false) {} (testing { testDue := true } []).blocks rfl (by decide +kernel) b
  simp [State.block, this] at h

/-! ## The memory system, other devices, the step -/

/-- A read of line 5 by core 0, waiting, or read for a fill or past the L1; the combine windows; the lines of its L1. -/
def flying (data : Option (List Byte × List Nat)) (fill : Bool) (windows : Tab (List Nat)) (lines : List Line) : State :=
  withCore (fun c => { c with l1 := lines })
    { loaded with flights := [{ line := 5, core := 0, fill := fill, data := data }], windows := windows }

/-- As many windows as a slice may hold, all of the slice of line 5, for other lines. -/
def open64 : Tab (List Nat) := (List.range 64).map fun i => (5 + 32 * (i % 16) + 2 ^ 14 * (i / 16 + 1), [4])

/-- A line of the L1 in a way, with a dirty byte. -/
def lineIn (line way : Nat) : Line := { line := line, way := way, bytes := [(3, (9#8, true))] }

/-- Core 0 holds partial results of a word of line 5, and of a word of a segment of block 0's scratchpad. -/
def accumulating (wide : Bool) : State :=
  { withCore (fun c => { c with
      acc := [{ place := 5, op := 10#4, wide := wide, words := [(8, 1#64)] }]
      redBuf := [{ place := 64, op := 10#4, wide := wide, words := [(8, 1#64)] }]
      redHolders := [(64, [0])] }) loaded with holders := [(5, [0])] }

theorem witness_MemoryEventResults :
    (∀ ws ∈ [[], [(5, [4])], [(5, [1])], [(5, (List.range 15).map (· + 4))], [(5, (List.range 16).map (· + 4))], open64], let s := flying none true ws []
      (∃ f ∈ s.flights, f.line = 5 ∧ f.core = 0 ∧ f.data = none) ∧ s.records = [] ∧ s.recordOrder = [] ∧ s.holders = [] ∧
        s.windows = ws) ∧
      (open64.filter fun w => decide (sliceOfLine w.1 = sliceOfLine 5)).length = 64 ∧ Tab.get [] open64 5 = [] ∧
      (∀ f ∈ loaded.flights, ¬ (f.line = 5 ∧ f.core = 0)) ∧
      ((∀ x, [4].head? = some x → x / 4 ≠ 0 / 4) ∧ (∀ x, [1].head? = some x → x / 4 = 0 / 4)) ∧
      (∀ fill, ∀ ls ∈ [[], [lineIn 261 0], [lineIn 5 0]],
        let s := flying (some (List.replicate 128 7#8, [])) fill [] ls
        (s.flights.find? fun f => f.line == 5 && f.core == 0 && f.data.isSome) =
          some { line := 5, core := 0, fill := fill, data := some (List.replicate 128 7#8, []) } ∧ (s.core 0).l1 = ls ∧ (s.core 0).acc = [] ∧
          ((s.core 0).l1.map (·.line)).Nodup ∧ 1 < (s.core 0).carve.ways) ∧
      (let s := withCore (fun c => { c with carve := { c.carve with ways := 0 } }) (flying (some (List.replicate 128 7#8, [])) true [] [])
       (s.core 0).carve.ways = 0 ∧ s.flights.all (fun f => f.fill && f.data.isSome) = true) ∧
      (QuietHome loaded ∧ OrderedL1 loaded 0) ∧ QuietScratch loaded ∧
      (GroupHolds (ringed 0 loaded) 0 (128 * 5) 128 ∧ ¬ GroupHolds (ringed 0 loaded) 1 (128 * 5) 128 ∧ QuietHome (ringed 0 loaded)) ∧
      (∀ wide, let s := accumulating wide
        Tab.get [] s.holders 5 = [0] ∧ Tab.get [] s.records 5 = [] ∧
          (s.core 0).acc = [{ place := 5, op := 10#4, wide := wide, words := [(8, 1#64)] }] ∧
          Tab.get [] (s.core 0).redHolders 64 = [0] ∧ 64 / 2 ^ 21 / 16 = 0 ∧ (1#64).toNat < (if wide then 2 ^ 64 else 2 ^ 32) ∧
          (s.core 0).redBuf = [{ place := 64, op := 10#4, wide := wide, words := [(8, 1#64)] }] ∧ (10#4).toNat ≤ 12) := by
  refine ⟨?_, ?_, ?_, ?_, ⟨by simp, by simp⟩, ?_, ?_, ?_, quiet_scratch (by decide +kernel) (by decide +kernel), ?_, ?_⟩
  all_goals first | decide +kernel | (unfold QuietHome OrderedL1; decide +kernel) | (unfold GroupHolds QuietHome; decide +kernel)

/-- An address that the tables map and one that they do not; a frame of the group's and one beyond; a slot that waits for
another device. -/
theorem witness_RemoteEventResults :
    let s := mapped (ringed 0 loaded)
    let w := withWarp (fun w => { w with ma := { w.ma with wait := .remote 0x2000 } }) loaded
    (∀ k ∈ [Kind.read, .write], (s.walkFor (0 / 64) 1 0x2000 k matches .ok _ _) = true ∧
      (s.walkFor (0 / 64) 1 0x40000000 k matches .bad _ _) = true) ∧ QuietHome s ∧
      (∃ p ∈ s.parts, p.2.group = 0 ∧ ∃ w ∈ p.2.win0 ++ p.2.win1, w.1 ≤ 2 ^ 30 - 8 ∧ 2 ^ 30 - 8 + 8 ≤ w.1 + w.2) ∧
      (∀ p ∈ s.parts, ¬ p.2.group = 1) ∧ ((w.warp 0).micro false).wait = .remote 0x2000 ∧
      ((w.warp 0).micro (!false)).wait = .none ∧ (w.warp 0).reply = none ∧ (loaded.warp 0).reply = none ∧
      (loaded.link (linkKey (.domain 0))).cost = 16 ∧ (loaded.link (linkKey (.domain 1))).cost = 16 ∧
      (let s := withWarp (fun w => { w with reply := some ⟨false, w.ctl, w.regs, 0#32, [], 8#64, 0x2000⟩ }) loaded
       (s.warp 0).reply.isSome = true ∧ (s.warp 0).stat = .running ∧
         (∀ x, ((s.warp 0).micro x).wait = .none) ∧ (s.core 0).window = [] ∧ (s.core 0).queue = []) ∧ ((loaded.warp 0).micro false).wait = .none ∧
      ((loaded.warp 0).micro true).wait = .none := by unfold QuietHome; decide +kernel

/-- The small state with a packet in its slot, at its first group or inside it, and a poisoned word of memory;
another warp holds the baton. -/
def packed (ws : List W32) (mid : Bool) : State :=
  let s := withCore (fun c => { c with baton := some 1 }) (state [(1, 0x2000#64)] [] [])
  { s.setMic { s.mic with pkt := ws, mid := mid } with poison := [0x400] }

/-- How the words of a group that has begun end: taken back, poisoned on the IE, gone through, waiting for room, waiting
before a word that traps, or waiting. -/
def ending (b : State) : Nat :=
  match (dispatched b).runWords 3 with
  | .next r =>
    if r.cw.stat ≠ .running then (if r.cw.recorded.cause ≠ .poison ∨ b.cw.onRe then 1 else 2)
    else if r.mic.wait = .none then 3
    else if (State.laterTrap 3 r).isSome then 5
    else if r.mic.wait.forRoom then 4
    else match (dispatched b).waitAlone r.mic.word with
      | .next _ => 6
      | _ => 0
  | _ => 0

/-- The packet of the small state, fetched through its page; a packet whose first word traps at its check; a slot that
holds a packet, and one that fetches it. Groups of one word and of two that trap, go through, wait, find no room and meet
poison. -/
theorem witness_StepRunsDecoded :
    let s := loaded
    let x : State := { s with cur := ⟨0, false⟩, turns := s.turns.drop 1 }
    let bad := State.reset.withFetchWord 32 0x00D80000
    let y : State := { bad with cur := ⟨0, false⟩, turns := bad.turns.drop 1 }
    let add : W32 := 0x006030C4#32
    let baton : W32 := 0x03EC0000#32
    let load : W32 := 0x00CC2040#32
    let trap : W32 := 0x002400C1#32
    let chain (w : W32) : W32 := w ||| 0x80000000#32
    (s.codeBase s.cur.warp + 12 * s.pc < 2 ^ 64 ∧ (s.codeBase s.cur.warp + 12 * s.pc) % 65536 ≤ 65524 ∧ (s.core s.here).icache = [] ∧
      tlbFind (s.core s.here).tlb s.myCtx (s.codeBase s.cur.warp + 12 * s.pc) .fetch = some loadedPage ∧ QuietHome s) ∧
    (bad.turns.head? = some ⟨0, false⟩ ∧ bad.canIssue ⟨0, false⟩ = true ∧ y.mic.pkt = [] ∧
      (y.packetWords.toOption.map fun v => checkPacket (v.1.block v.1.myBlock).regs v.2) = some (some (0, .illegal))) ∧
    (s.turns.head? = some ⟨0, false⟩ ∧ s.canIssue ⟨0, false⟩ = true ∧ x.mic.pkt = [] ∧
      (x.packetWords.toOption.any fun v => checkPacket (v.1.block v.1.myBlock).regs v.2 == none &&
        (let u := v.1.setMic { x.mic with pkt := v.2 }
         u.mayGo ⟨0, false⟩ && decide (u.cw.stat = .running) && u.cur == ⟨0, false⟩)) = true) ∧
    (∀ e ∈ [([add, 0#32, 0#32], 3), ([trap, 0#32, 0#32], 1), ([baton, 0#32, 0#32], 6), ([load, 0#32, 0#32], 2),
        ([chain add, load, 0#32], 2), ([chain baton, trap, 0#32], 5), ([chain baton, add, 0#32], 6), ([chain add, trap, 0#32], 1)],
      (let u := packed e.1 false
       u.turns.head? = some ⟨0, false⟩ ∧ u.canIssue ⟨0, false⟩ = true ∧ u.mic.pkt ≠ [] ∧ u.flushDue = false ∧
         u.beginGroup.groupHeld = false ∧ u.beginGroup.fenceHeld = false ∧ ending u.beginGroup = e.2) ∧
      (let u := packed e.1 true
       u.canIssue ⟨0, false⟩ = true ∧ u.flushDue = false ∧ u.groupHeld = false ∧ u.fenceHeld = false ∧ ending u = e.2)) ∧
    (let u := holder 8 (packed [0x03DC0000#32, 0#32, 0#32] false)
     u.turns.head? = some ⟨0, false⟩ ∧ u.canIssue ⟨0, false⟩ = true ∧ u.flushDue = false ∧ u.beginGroup.groupHeld = false ∧
       u.beginGroup.fenceHeld = false ∧ ending u.beginGroup = 4) ∧
    (∀ e ∈ [(add, Instr.sadd p0 3#6 3#6 4#6), (trap, .trap p0 3#6 1#6), (baton, .batonTake p0), (load, .sld p0 2#6 1#6 0#3)],
      let u := packed [e.1, 0#32, 0#32] false
      u.mic.pkt[u.mic.word]? = some e.1 ∧ (decodeWord e.1).toOption = some e.2 ∧ opOf e.1 ≠ 1 ∧ e.1.getLsbD 31 = false) ∧
    (let g := dispatched (packed [load, 0#32, 0#32] false).beginGroup
     match g.runWord (.sld p0 2#6 1#6 0#3) with
      | .next r => decide (r.cw.waddr = g.myAddr ∧ r.cw.stat ≠ .running ∧ r.cw.recorded.cause = .poison)
      | _ => false) = true ∧
    (let s := (packed [0#32, 0#32, 0#32] false)
     let u := s.setMic { s.mic with src := { s.mic.src with bad := [32 * 3 + 5] } }
     (∃ r ∈ vSources (.vadd p0 0#2 4#6 3#6 2#6), ∃ n ∈ u.mic.src.bad, n / 32 = r) ∧
       ¬ ∃ r ∈ vSources (.vadd p0 0#2 4#6 3#6 2#6), ∃ n ∈ s.mic.src.bad, n / 32 = r) := by
  unfold QuietHome; decide +kernel

theorem witness_WordsDecode : printedWords.length = 30 := by decide

theorem witness_EncodeDecode :
    encode (.sadd p0 3#6 3#6 4#6) = some 0x006030C4#32 ∧ (Instr.sadd p0 3#6 3#6 4#6).wf = true := by decide +kernel

/-- Undefined opcodes at the ends of their ranges. -/
theorem witness_RefusedWords :
    (∀ n ∈ [0x36, 0x37, 0x7C, 0x7F, 0x8F, 0x9F, 0xAA, 0xAF, 0xBA, 0xBF, 0xFE, 0xFF], ¬ DefinedOp n) ∧
      opOf (0x00D80000#32) = 0x36 ∧ (decodeWord 0x006030C4#32).toOption = some (.sadd p0 3#6 3#6 4#6) := by
  unfold DefinedOp; decide +kernel

theorem witness_GuardRule : p0.p = 0#3 ∧ p0.n = false ∧ (0x206030C4#32).getLsbD 29 = true ∧
    (0x206030C4#32).extractLsb' 26 3 = 0#3 ∧ [0x206030C4#32][0]? = some (0x206030C4#32 : W32) := by decide +kernel

/-- The small state keeps the form, and a step of it answers. -/
theorem witness_StepKeepsMemories : loaded.memoriesWf ∧ (step loaded matches .next _) = true := by
  unfold State.memoriesWf
  refine ⟨by decide +kernel, by decide +kernel⟩

end Sys2Proof.Tests
end

/-! ## The state after module reset -/

namespace Sys2Proof.Laws

open Sys2Proof Sys2Proof.Machine Sys2Proof.Claims

/-- Settles O53: every unit after reset holds the default of its table. -/
theorem resetState : Obligations.ResetState := by
  unfold Obligations.ResetState
  refine ⟨fun _ => ⟨rfl, rfl⟩, fun _ => ⟨rfl, rfl, rfl, rfl, rfl, rfl, rfl⟩, fun _ => rfl, fun _ => rfl, fun _ => rfl,
    fun _ => rfl, fun _ => rfl, rfl, rfl, rfl, fun _ => rfl, fun _ => rfl, rfl, ?_, ?_, rfl⟩
  · intro e he; cases he
  · intro e he; cases he


end Sys2Proof.Laws

/-! ## The guard of a word, and the words that have none (R25, R39) -/

namespace Sys2Proof.Laws

open Sys2Proof Sys2Proof.Machine Sys2Proof.Claims

theorem guardBits_wordBits (h : Hdr) (x : BitVec 26) :
    (wordBits h x).getLsbD 29 = h.n ∧ (wordBits h x).extractLsb' 26 3 = h.p := by
  obtain ⟨c, u, n, p⟩ := h
  unfold wordBits
  constructor
  · rw [BitVec.getLsbD_append, BitVec.getLsbD_append, BitVec.getLsbD_append]; simp
  · ext j hj
    rw [BitVec.getElem_extractLsb', BitVec.getLsbD_append, BitVec.getLsbD_append]
    simp [hj, BitVec.getLsbD_eq_getElem]

theorem header_of_encode {i : Instr} {w : W32} (he : encode i = some w) (hw : i.wf = true) :
    ∃ h x, w = wordBits h x ∧ h.guardOk = true := by
  cases i <;> simp only [encode, Option.some.injEq, reduceCtorEq] at he <;> refine ⟨_, _, he.symm, ?_⟩
  case nop | imx | rcv | join => rfl
  all_goals
    simp only [Instr.wf, Hdr.wfA, Hdr.wfNoA, Hdr.wfOpt, Bool.and_eq_true] at hw
    simp only [hw]

/-- A word with N = 1 and P = 0 is no instruction's (R39). -/
theorem decodeWord_of_never_guard {w : W32} (hn : w.getLsbD 29 = true) (hp : w.extractLsb' 26 3 = 0#3) (i : Instr) :
    decodeWord w ≠ .ok i := by
  intro hd
  have ⟨he, hw⟩ : encode i = some w ∧ i.wf = true := by
    unfold decodeWord at hd
    split at hd
    · simp at hd
    · split at hd
      · split at hd <;> simp_all
      · simp at hd
  obtain ⟨h, x, rfl, hg⟩ := header_of_encode he hw
  rw [(guardBits_wordBits h x).1] at hn
  rw [(guardBits_wordBits h x).2] at hp
  simp [Hdr.guardOk, hn, hp] at hg

/-- The slot that the check of a packet makes of a word holds that word and its instruction, where it is one. -/
theorem slotsFrom_getElem? {w : W32} (ws : List W32) (i : Nat) (pfx : List (BitVec 18)) (first group : Nat) {j : Nat}
    (h : ws[j]? = some w) :
    ∃ x, (slotsFrom ws i pfx first group)[j]? = some x ∧ x.word = w ∧ x.instr = instrOf w := by
  induction ws generalizing i pfx first group j with
  | nil => simp at h
  | cons v ws ih =>
    cases j with
    | zero =>
      obtain rfl : v = w := by simpa using h
      simp only [slotsFrom]
      split <;> exact ⟨_, rfl, rfl, rfl⟩
    | succ j =>
      simp only [slotsFrom]
      split <;> exact ih _ _ _ _ h

/-- A word that is no instruction traps ILLEGAL at decode, wherever it stands in its packet (R52, R53). -/
theorem wordFault_of_no_instr {w : W32} (hw : ∀ i, decodeWord w ≠ .ok i) (regs : Nat) {ws : List W32} {j : Nat}
    (h : ws[j]? = some w) : wordFault regs (slotsFrom ws 0 [] 0 0) j = some .illegal := by
  obtain ⟨x, hx, hword, hinstr⟩ := slotsFrom_getElem? ws 0 [] 0 0 h
  have hnone : x.instr = none := by
    rw [hinstr, instrOf]
    cases hd : decodeWord w with
    | error => rfl
    | ok i => exact absurd hd (hw i)
  simp only [wordFault, hx, hnone, Slot.illegal, Option.isNone_none, true_or, if_true, ite_self]

theorem putP_zero_warp (s : State) (act f : Nat → Bool) (k : Nat) : (s.putP 0 act f).warp k = s.warp k := by
  unfold State.putP State.setCw
  rw [Warp.putP_zero, State.warp_setWarp]
  split
  · next h => rw [h]; rfl
  · rfl

/-- Settles O58: a word that decodes is the word of a header whose guard is one (R39), and p0 is no table's entry (R25). -/
theorem guardRule : Obligations.GuardRule := by
  refine ⟨fun s h l => ⟨rfl, by simp [State.rdP], fun hp hn => ?_⟩, fun s act f => ⟨?_, putP_zero_warp s act f⟩,
    fun w hn hp => ⟨decodeWord_of_never_guard hn hp, fun regs ws j h =>
      wordFault_of_no_instr (decodeWord_of_never_guard hn hp) regs h⟩⟩
  · simp [State.guard, State.rdP, hp, hn]
  · exact putP_zero_warp s act f s.cur.warp

end Sys2Proof.Laws

/-! ## Immediate scalar forms, scalar compares, and words between s-registers and lanes (R169 to R171) -/

namespace Sys2Proof.Laws

open Sys2Proof Sys2Proof.Machine Sys2Proof.Claims

/-- The conditions of scmp and scmpi are those of R170. -/
theorem scalarCond_eq_compares (q : BitVec 3) (x y : Word) : scalarCond q.toNat x y = compares q x y := by
  unfold scalarCond compares
  generalize q.toNat = n
  match n with
  | 1 => exact decide_not.symm
  | 0 | 2 | 3 | 4 | 5 | 6 => rfl
  | _ + 7 => rfl

/-- The low bits of a word that smask keeps (R169). -/
theorem and_lowBits (x : Word) {n : Nat} (hn : n < 64) :
    x &&& BitVec.ofNat 64 (2 ^ n - 1) = BitVec.ofNat 64 (x.toNat % 2 ^ n) := by
  have hpow : 2 ^ n < 2 ^ 64 := Nat.pow_lt_pow_right (by omega) hn
  have hmod : x.toNat % 2 ^ n < 2 ^ n := Nat.mod_lt _ (Nat.two_pow_pos n)
  apply BitVec.eq_of_toNat_eq
  rw [BitVec.toNat_and, BitVec.toNat_ofNat, BitVec.toNat_ofNat, Nat.mod_eq_of_lt (by omega : 2 ^ n - 1 < 2 ^ 64),
    Nat.mod_eq_of_lt (by omega : x.toNat % 2 ^ n < 2 ^ 64), Nat.and_two_pow_sub_one_eq_mod]

theorem add_wordOfInt (x : Word) (i : Int) : x + wordOfInt i = BitVec.ofInt 64 (x.toInt + i) := by
  rw [BitVec.ofInt_add, BitVec.ofInt_toInt]; rfl

/-- The lowest lane of the slot's mask, by its two properties (R171). -/
theorem lowestLane_eq {s : State} {l : Nat} (hl : l < 32) (hin : s.inMask l = true)
    (hlow : ∀ j < l, s.inMask j = false) : s.lowestLane = l := by
  unfold State.lowestLane lanes
  rw [List.find?_range_eq_some.mpr ⟨hin, by simpa using hl, by simpa using hlow⟩, Option.getD_some]

/-- A guarded scalar meaning that is taken writes its destination and nothing else (R40, R167). -/
theorem writesS_of_scalar {i : Instr} {s : State} {h : Hdr} {d : BitVec 6} {x : Word} (ht : s.taken h = true)
    (he : exec i s = s.scalar h d x) : WritesS i s d.toNat x :=
  writesS_of_putS (he.trans (scalar_taken ht))

section
variable {s : State} {h : Hdr} (ht : s.taken h = true)
include ht

theorem writesS_saddi (d a i : BitVec 6) :
    WritesS (.saddi h d a i) s d.toNat (BitVec.ofInt 64 ((s.rdS a.toNat).toInt + immediate s.mic.pfx i)) := by
  rw [← imm_eq_immediate, ← add_wordOfInt]
  exact writesS_of_scalar ht rfl

theorem writesS_smovi (d i : BitVec 6) : WritesS (.smovi h d i) s d.toNat (BitVec.ofInt 64 (immediate s.mic.pfx i)) := by
  rw [← imm_eq_immediate]
  exact writesS_of_scalar ht rfl

theorem writesS_smask (d a i : BitVec 6) : WritesS (.smask h d a i) s d.toNat
    (if i = 0#6 then s.rdS a.toNat else BitVec.ofNat 64 ((s.rdS a.toNat).toNat % 2 ^ i.toNat)) := by
  rw [← and_lowBits _ i.isLt]
  exact writesS_of_scalar ht rfl

theorem writesP_scmp (p c : BitVec 3) (a b : BitVec 6) : WritesP (.scmp h p c a b) s p.toNat s.inMask
    fun _ => compares c (s.rdS a.toNat) (s.rdS b.toNat) := by
  simp only [← scalarCond_eq_compares]
  exact writesP_of_putP (if_pos ht)

theorem writesP_scmpi (p c : BitVec 3) (a i : BitVec 6) : WritesP (.scmpi h p c a i) s p.toNat s.inMask
    fun _ => compares c (s.rdS a.toNat) (BitVec.ofInt 64 (immediate s.mic.pfx i)) := by
  simp only [← scalarCond_eq_compares, ← imm_eq_immediate]
  exact writesP_of_putP (if_pos ht)

theorem writesS_sget (d a b : BitVec 6) (hb : (s.rdS b.toNat).toNat < 32) :
    WritesS (.sget h d a b) s d.toNat (s.rdV a.toNat (s.rdS b.toNat).toNat) :=
  writesS_of_scalar ht (if_neg (by omega))

theorem exec_sget_beyond (d a b : BitVec 6) (hb : 32 ≤ (s.rdS b.toNat).toNat) :
    exec (.sget h d a b) s = .next (s.trapHere .bounds) := if_pos ⟨ht, hb⟩

/-- The lanes of a predicate stand in the low half of the word. -/
theorem writesS_spredToS (d : BitVec 6) (q : BitVec 3) : ∃ x : Word, WritesS (.spredToS h d q) s d.toNat x ∧
    ∀ l, x.getLsbD l = (decide (l < 32) && s.rdP q.toNat l) := by
  refine ⟨_, writesS_of_scalar ht rfl, fun l => ?_⟩
  rw [BitVec.zeroExtend_eq_setWidth, BitVec.getLsbD_setWidth, getLsbD_laneMask]
  have hlt : l < 32 → l < 64 := fun hl => by omega
  cases hd : decide (l < 32) <;> simp_all

theorem writesP_spredToP (p : BitVec 3) (a : BitVec 6) :
    WritesP (.spredToP h p a) s p.toNat s.inMask fun l => (s.rdS a.toNat).getLsbD l :=
  writesP_of_putP (if_pos ht)

end

theorem writesS_ssel (s : State) (h : Hdr) (d a b : BitVec 6) {l : Nat} (hl : l < 32) (hin : s.inMask l = true)
    (hlow : ∀ j < l, s.inMask j = false) :
    WritesS (.ssel h d a b) s d.toNat (if s.guard h l then s.rdS a.toNat else s.rdS b.toNat) := by
  rw [← lowestLane_eq hl hin hlow]
  exact writesS_of_putS rfl

/-- Settles O2: every form ends in the write of one register of the issuing warp. -/
theorem scalarFormResults : Obligations.ScalarFormResults := by
  refine ⟨fun s h d a i ht => ⟨writesS_saddi ht d a i, writesS_smovi ht d i, writesS_smask ht d a i⟩,
    fun s h d a b p q c => ⟨fun ht => ?_, fun l hl hin hlow => writesS_ssel s h d a b hl hin hlow, writesV_of_putV rfl⟩⟩
  exact ⟨writesP_scmp ht p c a b, writesP_scmpi ht p c a b, writesS_sget ht d a b, exec_sget_beyond ht d a b,
    writesS_spredToS ht d q, writesP_spredToP ht p a⟩

end Sys2Proof.Laws

/-! ## Special registers and number-format registers (R28, R29, R105, R106, R123) -/

namespace Sys2Proof.Laws

open Sys2Proof Sys2Proof.Machine Sys2Proof.Claims

/-- The immediate read as an unsigned field, behind the prefixes that wait for it (R49, R100). -/
theorem immU_eq_immediateU (s : State) (i : BitVec 6) : s.immU i = immediateU s.mic.pfx i := by
  unfold State.immU immediateU immBits
  have hi := i.isLt
  match s.mic.pfx with
  | [] => rfl
  | [p] =>
    show p.toNat * 64 + i.toNat = (p ++ i).toNat
    rw [BitVec.toNat_append, ← Nat.shiftLeft_add_eq_or_of_lt hi, Nat.shiftLeft_eq]
  | p :: q :: _ =>
    have hq := q.isLt
    show p.toNat * 2 ^ 24 + q.toNat * 64 + i.toNat = (p ++ (q ++ i)).toNat
    rw [BitVec.toNat_append, ← Nat.shiftLeft_add_eq_or_of_lt (q ++ i).isLt, BitVec.toNat_append,
      ← Nat.shiftLeft_add_eq_or_of_lt hi, Nat.shiftLeft_eq, Nat.shiftLeft_eq]
    omega

theorem sregNum_eq (s : State) (a i : BitVec 6) : s.sregNum a i = (optional s a).toNat + immediateU s.mic.pfx i := by
  rw [← immU_eq_immediateU]; rfl

/-! ### The numbers of special registers (R28, R29, R123, R272) -/

theorem counterExists_iff (n : Nat) : counterExists n = true ↔ IsCounter n := by
  simp [counterExists, IsCounter, or_assoc]

theorem sregExists_iff (n : Nat) : sregExists n = true ↔ n ≤ 0x14 ∨ (0x40 ≤ n ∧ n ≤ 0x7F) := by
  simp [sregExists]

theorem sregWritable_iff (n : Nat) : sregWritable n = true ↔ n = 0x11 ∨ n = 0x12 ∨ (0x40 ≤ n ∧ n ≤ 0x7F) := by
  simp [sregWritable, or_assoc]

theorem isCounter_bounds {n : Nat} (h : IsCounter n) : 0x40 ≤ n ∧ n ≤ 0x7F := by
  unfold IsCounter at h; omega

/-! ### What a special register reads and takes -/

/-- The special registers that are no counters read as R28 lists them. -/
theorem readSpecial_listed (s : State) :
    ∀ e ∈ specialRegisters s, e.1 ≤ 0x14 ∧ s.readSpecial e.1 = BitVec.ofNat 64 e.2 := by
  simp only [specialRegisters, List.forall_mem_cons]
  simp [State.readSpecial, State.here, coreOfWarp, clusterOf, stackOf, gridPos, Nat.div_div_eq_div_mul, Warp.onRe,
    Config.renameRows]

/-- Above the listed registers only the counters read otherwise than 0 (R123, R272). -/
theorem readSpecial_above (s : State) {n : Nat} (h : 0x14 < n) :
    s.readSpecial n = if counterExists n then Tab.get 0#64 (s.core s.here).counters n else 0#64 := by
  unfold State.readSpecial
  split
  case h_22 => rfl
  all_goals omega

/-- A write above the two trap registers goes to the counter that the number names, if one does (R29, R123). -/
theorem writeSpecial_above (s : State) {n : Nat} (h : 0x12 < n) (x : Word) :
    s.writeSpecial n x = if counterExists n then
      s.setCore s.here { s.core s.here with counters := Tab.put (s.core s.here).counters n x } else s := by
  unfold State.writeSpecial
  split
  case h_3 => rfl
  all_goals omega

/-- What a core counts holds no byte of memory and no warp. -/
theorem sameBytes_setCore (s : State) (c : Nat) (x : Core) : SameBytes s (s.setCore c x) :=
  ⟨fun _ => rfl, fun _ _ => rfl, fun _ _ => rfl⟩

/-- A meaning that ends in putNf writes that number-format register and nothing else (R26). -/
theorem writesNf_of_putNf {i : Instr} {s : State} {r : Nat} {x : Word} (h : exec i s = .next (s.putNf r x)) :
    WritesNf i s r x := by
  refine ⟨_, h, onlyRegisters_setCw s _ s.cw.latch, fun q => ?_, ?_, ?_, ?_⟩
  · simp [nfReg, State.putNf, Warp.putNf, Tab.get_put]
  all_goals simp [State.putNf, Warp.putNf]

section
variable {s : State} {h : Hdr} (ht : s.taken h = true) (d a i : BitVec 6)
include ht

theorem writesS_sreg {n : Nat} (hn : s.sregNum a i = n) (he : n ≤ 0x14 ∨ (0x40 ≤ n ∧ n ≤ 0x7F)) :
    WritesS (.sreg h d a i) s d.toNat (s.readSpecial n) := by
  subst hn
  exact writesS_of_putS ((if_pos ht).trans (if_pos ((sregExists_iff _).mpr he)))

theorem exec_sreg_none {n : Nat} (hn : s.sregNum a i = n) (he : 0x14 < n ∧ n < 0x40 ∨ 0x7F < n) :
    exec (.sreg h d a i) s = .next (s.trapHere .illegal) := by
  subst hn
  exact (if_pos ht).trans (if_neg (by rw [sregExists_iff]; omega))

theorem exec_sregw_writes {n : Nat} (hn : s.sregNum a i = n) (he : n = 0x11 ∨ n = 0x12 ∨ (0x40 ≤ n ∧ n ≤ 0x7F)) :
    exec (.sregw h d a i) s = .next (s.writeSpecial n (s.rdS d.toNat)) := by
  subst hn
  exact (if_pos ht).trans (if_pos ((sregWritable_iff _).mpr he))

theorem exec_sregw_refused {n : Nat} (hn : s.sregNum a i = n) (he : n ≤ 0x10 ∨ (0x13 ≤ n ∧ n < 0x40) ∨ 0x7F < n) :
    exec (.sregw h d a i) s = .next (s.trapHere .illegal) := by
  subst hn
  exact (if_pos ht).trans (if_neg (by rw [sregWritable_iff]; omega))

/-- A counter takes the written word, and no other counter, no warp and no byte changes. -/
theorem exec_sregw_counter {n : Nat} (hn : s.sregNum a i = n) (hc : IsCounter n) :
    ∃ t, exec (.sregw h d a i) s = .next t ∧ t.warps = s.warps ∧ SameBytes s t ∧
      ∀ m, Tab.get 0#64 (t.core s.here).counters m =
        if m = n then s.rdS d.toNat else Tab.get 0#64 (s.core s.here).counters m := by
  have hb := isCounter_bounds hc
  refine ⟨_, exec_sregw_writes ht d a i hn (.inr (.inr hb)), ?_⟩
  rw [writeSpecial_above s (by omega), if_pos ((counterExists_iff n).mpr hc)]
  refine ⟨rfl, sameBytes_setCore s _ _, fun m => ?_⟩
  rw [State.core_setCore_self]
  exact Tab.get_put _ _ _ _ _

end

/-- Settles O16: the number that the word names decides which register is read, written or refused. -/
theorem specialRegisterResults : Obligations.SpecialRegisterResults := by
  intro s h d a i f ht n
  have hn : s.sregNum a i = n := sregNum_eq s a i
  have above : 0x40 ≤ n → s.readSpecial n =
      if counterExists n then Tab.get 0#64 (s.core s.here).counters n else 0#64 :=
    fun h40 => readSpecial_above s (by omega)
  have none_of_not (hc : ¬ IsCounter n) : ¬ counterExists n = true := mt (counterExists_iff n).mp hc
  refine ⟨fun e he hne => ?_, fun hc => ?_, fun h40 h7F hc => ?_, exec_sreg_none ht d a i hn, fun h11 => ?_, fun h12 => ?_,
    exec_sregw_counter ht d a i hn, fun h40 h7F hc => ?_, exec_sregw_refused ht d a i hn,
    fun _ => ?_, fun hv => ?_, fun hv => ?_⟩
  · obtain ⟨hle, hval⟩ := readSpecial_listed s e he
    rw [← hval]
    exact writesS_sreg ht d a i (hn.trans hne) (.inl hle)
  · have hw := writesS_sreg ht d a i hn (.inr (isCounter_bounds hc))
    rwa [above (isCounter_bounds hc).1, if_pos ((counterExists_iff n).mpr hc)] at hw
  · have hw := writesS_sreg ht d a i hn (.inr ⟨h40, h7F⟩)
    rwa [above h40, if_neg (none_of_not hc)] at hw
  · exact exec_sregw_writes ht d a i (hn.trans h11) (.inl rfl)
  · exact exec_sregw_writes ht d a i (hn.trans h12) (.inr (.inl rfl))
  · rw [exec_sregw_writes ht d a i hn (.inr (.inr ⟨h40, h7F⟩)), writeSpecial_above s (by omega), if_neg (none_of_not hc)]
  · exact writesNf_of_putNf (if_pos ht)
  · exact writesNf_of_putNf ((if_pos ht).trans (if_pos hv))
  · exact (if_pos ht).trans (if_neg (by simp [hv]))

end Sys2Proof.Laws

/-! ## Loads and stores of the scratchpads (R257, R258, R262) -/

namespace Sys2Proof.Laws

open Sys2Proof Sys2Proof.Machine Sys2Proof.Claims

/-! ### Byte strings as numbers (R4) -/

/-- Mathlib's `List.sum_map_mul_left`, of naturals: the package's files import core Lean alone. -/
theorem mul_sum_map (k : Nat) (f : Nat → Nat) (xs : List Nat) :
    k * (xs.map f).sum = (xs.map fun j => k * f j).sum := by
  induction xs with
  | nil => rfl
  | cons x xs ih => rw [List.map_cons, List.map_cons, List.sum_cons, List.sum_cons, Nat.mul_add, ih]

/-- A byte string's number, digit by digit: past its end the digits are 0. -/
theorem leNat_eq_sum (bs : List Byte) {m : Nat} (h : bs.length ≤ m) :
    leNat bs = ((List.range m).map fun j => (bs.getD j 0#8).toNat * 256 ^ j).sum := by
  induction bs generalizing m with
  | nil => exact (Nat.zero_mul _).symm.trans (mul_sum_map 0 (256 ^ ·) _)
  | cons b bs ih =>
    cases m with
    | zero => simp at h
    | succ m =>
      simp only [List.length_cons, Nat.add_le_add_iff_right] at h
      rw [leNat, ih h, List.range_succ_eq_map, List.map_cons, List.sum_cons, List.map_map, mul_sum_map]
      simp only [List.getD_cons_zero, Nat.pow_zero, Nat.mul_one, Function.comp_def, List.getD_cons_succ, Nat.pow_succ]
      congr 3
      funext j
      rw [Nat.mul_left_comm, Nat.mul_comm 256]

theorem leBytes_getD (v n j : Nat) (h : j < n) : (leBytes v n).getD j 0#8 = BitVec.ofNat 8 (v / 256 ^ j) := by
  induction n generalizing v j with
  | zero => omega
  | succ n ih =>
    cases j with
    | zero => simp [leBytes]
    | succ j =>
      rw [leBytes, List.getD_cons_succ, ih _ _ (by omega), Nat.div_div_eq_div_mul, Nat.pow_succ']

theorem length_leBytes (v n : Nat) : (leBytes v n).length = n := by
  induction n generalizing v with
  | zero => rfl
  | succ n ih => simp [leBytes, ih]

theorem length_flatMap_leBytes (g : Nat → Nat) (m : Nat) :
    ((List.range m).flatMap fun i => leBytes (g i) 8).length = 8 * m := by
  induction m with
  | zero => rfl
  | succ m ih =>
    rw [List.range_succ, List.flatMap_append, List.length_append, ih, List.flatMap_singleton, length_leBytes, Nat.mul_succ]

/-- Words laid out behind each other: byte j of the string is byte j % 8 of word j / 8. -/
theorem flatMap_leBytes_getD (g : Nat → Nat) (m j : Nat) (h : j < 8 * m) :
    ((List.range m).flatMap fun i => leBytes (g i) 8).getD j 0#8 = BitVec.ofNat 8 (g (j / 8) / 256 ^ (j % 8)) := by
  induction m with
  | zero => omega
  | succ m ih =>
    rw [List.range_succ, List.flatMap_append, List.flatMap_singleton]
    have hlen := length_flatMap_leBytes g m
    by_cases hj : j < 8 * m
    · rw [List.getD_eq_getElem?_getD, List.getElem?_append_left (by omega), ← List.getD_eq_getElem?_getD, ih hj]
    · rw [List.getD_eq_getElem?_getD, List.getElem?_append_right (by omega), ← List.getD_eq_getElem?_getD, hlen,
        leBytes_getD _ _ _ (by omega)]
      have hq : j / 8 = m := by omega
      have hr : j - 8 * m = j % 8 := by omega
      rw [hq, hr]

theorem read_getD (m : Memory) (a n j : Nat) :
    (m.read a n).getD j 0#8 = if j < n then m.byte (a + j) else 0#8 := by
  induction n generalizing a j with
  | zero => simp [Memory.read]
  | succ n ih =>
    cases j with
    | zero => simp [Memory.read]
    | succ j => rw [Memory.read, List.getD_cons_succ, ih]; simp [Nat.add_comm 1 j, Nat.add_assoc]

/-- The word that a load makes of eight bytes of what it has read (R258). -/
theorem ofNat_leNat_read (m : Memory) (a n i : Nat) :
    BitVec.ofNat 64 (leNat (((m.read a n).drop (8 * i)).take 8)) = loadedWord n (fun j => m.byte (a + j)) i := by
  unfold loadedWord ofBytes
  rw [leNat_eq_sum (m := 8) _ (List.length_take_le _ _)]
  congr 2
  refine List.map_congr_left fun j hj => ?_
  have hj8 : j < 8 := List.mem_range.mp hj
  have hget : ((((m.read a n).drop (8 * i)).take 8).getD j 0#8) = (m.read a n).getD (8 * i + j) 0#8 := by
    simp [List.getD_eq_getElem?_getD, hj8]
  have hlt := (m.byte (a + (8 * i + j))).isLt
  rw [hget, read_getD]
  by_cases hn : 8 * i + j < n
  · simp only [hn, if_true, Nat.mod_eq_of_lt hlt]
  · simp [hn]


/-! ### The addresses of a lane-wise word (R47, R258, R259) -/

theorem sextNat_elem_eq_intField (x : Word) : sextNat (elem x 32 0) 32 = intField 0 32 x 0 := by
  unfold sextNat elem intField field
  simp only [Nat.zero_mul, Nat.mul_zero, Nat.shiftRight_zero, Nat.pow_zero, Nat.div_one, Nat.mod_mod, true_and]
  split <;> split <;> omega

theorem off_eq_prefixOffset (s : State) : s.off = prefixOffset s := rfl

theorem swizzle_laneAddr (s : State) (x : BitVec 6) (k : BitVec 3) (z l : Nat) :
    swizzle (s.laneAddr x k l) z = laneAddress s x k z (prefixOffset s) l := by
  unfold State.laneAddr laneAddress
  rw [sextNat_elem_eq_intField, off_eq_prefixOffset]
  rfl

theorem addrs_eq (s : State) (h : Hdr) (x : BitVec 6) (k : BitVec 3) (z : Nat) :
    s.addrs h x k z = (s.activeLanes h).map fun l => (l, laneAddress s x k z (prefixOffset s) l) :=
  List.map_congr_left fun l _ => by rw [swizzle_laneAddr]

theorem mem_activeLanes (s : State) (h : Hdr) (l : Nat) : l ∈ s.activeLanes h ↔ l < 32 ∧ s.active h l = true := by
  simp [State.activeLanes, lanes]

/-! ### The checks of a scratchpad access (R258) -/

/-- Lanes that are aligned and inside their block's scratchpad or allocation pass every check; each has its place. -/
theorem checkLanes_scratch {s : State} {sp : Space} {n : Nat} {ls : List Nat} {a : Nat → Nat} {q : Nat → Place}
    (hsp : sp ≠ .g) (k : Kind) (hok : ∀ l ∈ ls, a l % n = 0 ∧ s.placeOf s.myBlock sp (a l) n = some (q l)) :
    s.checkLanes sp k n n (ls.map fun l => (l, a l)) = .ok (s, ls.map fun l => (l, q l)) := by
  have haligned : firstLane (ls.map fun l => (l, a l)) (fun a => a % n != 0) = none := by
    simpa [firstLane] using fun l hl => (hok l hl).1
  have hinside : firstLane (ls.map fun l => (l, a l)) (fun a => (s.placeOf s.myBlock sp a n).isNone) = none := by
    simpa [firstLane] using fun l hl => by rw [(hok l hl).2]; simp
  have hplaces : (ls.map fun l => (l, a l)).map (fun a => (a.1, (s.placeOf s.myBlock sp a.2 n).getD (.global 0))) =
      ls.map fun l => (l, q l) := by
    rw [List.map_map]
    exact List.map_congr_left fun l hl => by simp [(hok l hl).2]
  unfold State.checkLanes
  cases sp with
  | g => exact absurd rfl hsp
  | l | c | k => simp only [haligned, hinside, hplaces]

/-- The places of the scratchpads: those that a global address has not. -/
def InScratch : Place → Prop
  | .global _ => False
  | _ => True

theorem inScratch_of_placeOf {s : State} {b : Nat} {sp : Space} {a n : Nat} {q : Place}
    (h : s.placeOf b sp a n = some q) : InScratch q := by
  unfold State.placeOf at h
  split at h
  · split at h
    · cases h; trivial
    · cases h
  · split at h
    · cases h
    · split at h
      · cases h
      · split at h
        · cases h; trivial
        · cases h
  · split at h
    · cases h
    · split at h
      · cases h; trivial
      · cases h
  · cases h

/-! ### Loads -/

/-- The byte at a distance from a place. -/
def placeByte (s : State) (q : Place) (j : Nat) : Byte :=
  match q with
  | .scratch b o => (s.block b).scratch.byte (o + j)
  | .stack k o => (s.stack k).bytes.byte (o + j)
  | .global _ => 0#8

/-- The bytes that a load finds at a place of the scratchpads. -/
def placeRead (s : State) (n : Nat) : Place → List Byte
  | .scratch b o => (s.block b).scratch.read o n
  | .stack k o => (s.stack k).bytes.read o n
  | .global _ => []

theorem poisonIn_nil (p n : Nat) : poisonIn [] p n = none := by
  simp [poisonIn]

theorem readPlace_settled {s : State} (hs : SettledScratch s) (n : Nat) {q : Place} (hq : InScratch q) :
    s.readPlace n q = (s, placeRead s n q, none) := by
  obtain ⟨hred, hblock, hstack⟩ := hs
  cases q with
  | global p => exact hq.elim
  | scratch b o =>
    simp only [State.readPlace, State.scratchRead, scratchPrep_rest s b o n hred, hblock, poisonIn_nil, placeRead]
  | stack k o => simp only [State.readPlace, State.stackRead, hstack, poisonIn_nil, placeRead]

theorem cutOff_inScratch (s : State) (n : Nat) {q : Place} (hq : InScratch q) : s.cutOff true n q = false := by
  cases q with
  | global p => exact hq.elim
  | scratch | stack => rfl

theorem waitsChannel_inScratch (s : State) (n : Nat) {q : Place} (hq : InScratch q) : s.waitsChannel true n q = none := by
  cases q with
  | global p => exact hq.elim
  | scratch | stack => rfl

theorem readLanes_settled {s : State} (hs : SettledScratch s) (n : Nat) {ls : List Nat} {q : Nat → Place}
    (hq : ∀ l ∈ ls, InScratch (q l)) :
    s.readLanes true n (ls.map fun l => (l, q l)) = .ok (s, ls.map fun l => (l, placeRead s n (q l))) := by
  induction ls with
  | nil => rfl
  | cons l ls ih =>
    simp only [List.forall_mem_cons] at hq
    simp only [List.map_cons, State.readLanes, if_true, readPlace_settled hs n hq.1, ih hq.2]

/-- A load of the scratchpads that passes its checks brings the bytes of each lane's place and changes nothing. -/
theorem loadLanes_settled {s : State} (hs : SettledScratch s) (hu : Unpoisoned s) {sp : Space} (hsp : sp ≠ .g) {n : Nat}
    {ls : List Nat} {a : Nat → Nat} {q : Nat → Place}
    (hok : ∀ l ∈ ls, a l % n = 0 ∧ s.placeOf s.myBlock sp (a l) n = some (q l)) :
    s.loadLanes sp n n true (ls.map fun l => (l, a l)) = .ok (s, ls.map fun l => (l, placeRead s n (q l))) := by
  have hq : ∀ l ∈ ls, InScratch (q l) := fun l hl => inScratch_of_placeOf (hok l hl).2
  have hcut : (ls.map fun l => (l, q l)).find? (fun e => s.cutOff true n e.2) = none := by
    simp only [List.find?_eq_none, List.forall_mem_map]
    intro l hl
    simp [cutOff_inScratch s n (hq l hl)]
  have hwait : (ls.map fun l => (l, q l)).findSome? (fun e => s.waitsChannel true n e.2) = none := by
    simp only [List.findSome?_eq_none_iff, List.forall_mem_map]
    exact fun l hl => waitsChannel_inScratch s n (hq l hl)
  unfold State.loadLanes
  simp only [checkLanes_scratch hsp .read hok, hcut, hwait, readLanes_settled hs n hq]
  cases hw : s.mic.wake with
  | poisoned a => exact absurd hw (hu a)
  | none | bar | bowait | done | swapped | met => rfl


/-! ### Registers of a group (R258) -/

theorem onlyRegisters_refl (s : State) : OnlyRegisters s s :=
  ⟨rfl, fun _ _ => rfl, rfl, fun _ => rfl, fun _ _ => rfl, fun _ _ => rfl⟩

theorem onlyRegisters_trans {s t u : State} (h : OnlyRegisters s t) (g : OnlyRegisters t u) : OnlyRegisters s u := by
  obtain ⟨hframe, hwarp, hcw, hmem, hblock, hstack⟩ := h
  obtain ⟨gframe, gwarp, gcw, gmem, gblock, gstack⟩ := g
  have hcur : t.cur = s.cur := by rw [hframe]
  refine ⟨gframe.trans (by rw [hframe]), fun k hk => ?_, gcw.trans (by rw [hcw]), fun a => ?_, fun b a => ?_, fun k a => ?_⟩
  · rw [gwarp k (hcur ▸ hk), hwarp k hk]
  · rw [gmem, hmem]
  · rw [gblock, hblock]
  · rw [gstack, hstack]

/-- Lane writes to registers d, d + 1, … of the issuing warp, one register after the other. -/
def putGroup (s : State) (d m : Nat) (act : Nat → Bool) (f : Nat → Nat → Word) : State :=
  (List.range m).foldl (fun s i => s.putV (d + i) act (f i)) s

theorem putGroup_succ (s : State) (d m : Nat) (act : Nat → Bool) (f : Nat → Nat → Word) :
    putGroup s d (m + 1) act f = (putGroup s d m act f).putV (d + m) act (f m) := by
  simp [putGroup, List.range_succ]

theorem onlyRegisters_putV (s : State) (r : Nat) (act : Nat → Bool) (f : Nat → Word) : OnlyRegisters s (s.putV r act f) :=
  onlyRegisters_setCw s _ _

theorem onlyRegisters_putGroup (s : State) (d m : Nat) (act : Nat → Bool) (f : Nat → Nat → Word) :
    OnlyRegisters s (putGroup s d m act f) := by
  induction m with
  | zero => exact onlyRegisters_refl s
  | succ m ih => exact putGroup_succ s d m act f ▸ onlyRegisters_trans ih (onlyRegisters_putV _ _ _ _)

theorem putGroup_otherRegs (s : State) (d m : Nat) (act : Nat → Bool) (f : Nat → Nat → Word) :
    let t := putGroup s d m act f
    t.cw.regs.s = s.cw.regs.s ∧ t.cw.regs.p = s.cw.regs.p ∧ t.cw.regs.nf = s.cw.regs.nf := by
  induction m with
  | zero => exact ⟨rfl, rfl, rfl⟩
  | succ m ih => rw [putGroup_succ]; simpa [State.putV, Warp.putV] using ih

theorem vReg_putV (s : State) (r : Nat) (act : Nat → Bool) (f : Nat → Word) (q : Nat) {l : Nat} (hl : l < 32) :
    vReg (s.putV r act f) q l = if q = r ∧ act l = true then f l else vReg s q l := by
  simp only [vReg, State.putV, State.setCw_cw, Warp.putV_get _ _ _ _ _ hl]

theorem vReg_putGroup (s : State) (d m : Nat) (act : Nat → Bool) (f : Nat → Nat → Word) (q : Nat) {l : Nat} (hl : l < 32) :
    vReg (putGroup s d m act f) q l = if d ≤ q ∧ q < d + m ∧ act l = true then f (q - d) l else vReg s q l := by
  induction m with
  | zero => exact (if_neg (by omega)).symm
  | succ m ih =>
    rw [putGroup_succ, vReg_putV _ _ _ _ _ hl, ih]
    by_cases hq : q = d + m
    · subst hq; simp
    · have hlt : q < d + (m + 1) ↔ q < d + m := by omega
      simp [hq, hlt]

theorem vReg_congr_putGroup {s : State} {d m : Nat} {act act' : Nat → Bool} {f g : Nat → Nat → Word}
    (hact : ∀ l < 32, act l = act' l) (hf : ∀ i, ∀ l < 32, act' l = true → f i l = g i l)
    (q : Nat) {l : Nat} (hl : l < 32) :
    vReg (putGroup s d m act f) q l = if d ≤ q ∧ q < d + m ∧ act' l = true then g (q - d) l else vReg s q l := by
  rw [vReg_putGroup s d m act f q hl, hact l hl]
  by_cases hq : d ≤ q ∧ q < d + m ∧ act' l = true
  · rw [if_pos hq, if_pos hq, hf _ l hl hq.2.2]
  · rw [if_neg hq, if_neg hq]

/-- A meaning that ends in writes of the acting lanes of a group of v-registers writes them and nothing else. -/
theorem writesGroup_of_putGroup {i : Instr} {s : State} {d m : Nat} {act act' : Nat → Bool} {f g : Nat → Nat → Word}
    (h : exec i s = .next (putGroup s d m act f)) (hact : ∀ l < 32, act l = act' l)
    (hf : ∀ i, ∀ l < 32, act' l = true → f i l = g i l) : WritesGroup i s d m act' g :=
  ⟨_, h, onlyRegisters_putGroup s d m act f, fun q _ hl => vReg_congr_putGroup hact hf q hl, putGroup_otherRegs s d m act f⟩

/-! ### The bytes that lanes have brought -/

theorem any_lane_map (g : Nat → List Byte) (ls : List Nat) (l : Nat) :
    (ls.map fun j => (j, g j)).any (fun e => e.1 == l) = ls.contains l := by
  rw [List.any_map, List.contains_eq_any_beq]
  congr 1
  funext j
  exact BEq.comm

theorem bytesAt_map (g : Nat → List Byte) {ls : List Nat} {l : Nat} (hl : l ∈ ls) :
    bytesAt (ls.map fun j => (j, g j)) l = g l := by
  induction ls with
  | nil => simp at hl
  | cons j ls ih =>
    by_cases hj : j = l
    · subst hj; simp [bytesAt]
    · have hmem : l ∈ ls := (List.mem_cons.mp hl).resolve_left (Ne.symm hj)
      have hskip : bytesAt ((j :: ls).map fun j => (j, g j)) l = bytesAt (ls.map fun j => (j, g j)) l := by
        simp [bytesAt, hj]
      rw [hskip, ih hmem]

theorem contains_activeLanes (s : State) (h : Hdr) {l : Nat} (hl : l < 32) :
    (s.activeLanes h).contains l = s.active h l := by
  rw [Bool.eq_iff_iff, List.contains_iff_mem, mem_activeLanes]
  exact and_iff_right hl

theorem widthRegs_eq (w : BitVec 2) : widthRegs w = if w.toNat < 2 then 1 else 4 * 2 ^ w.toNat / 8 := by
  have : ∀ w : BitVec 2, widthRegs w = if w.toNat < 2 then 1 else 4 * 2 ^ w.toNat / 8 := by decide
  exact this w

theorem ofNat_leNat_placeRead (s : State) (n i : Nat) {q : Place} (hq : InScratch q) :
    BitVec.ofNat 64 (leNat (((placeRead s n q).drop (8 * i)).take 8)) = loadedWord n (placeByte s q) i := by
  cases q with
  | global p => exact hq.elim
  | scratch b o => exact ofNat_leNat_read _ o n i
  | stack k o => exact ofNat_leNat_read _ o n i

section
variable {s : State} {h : Hdr} {w : BitVec 2} {x : BitVec 6} {k : BitVec 3} {sp : Space} {z : Nat} {q : Nat → Place}

/-- A lane-wise load of a scratchpad space writes the bytes of each active lane's place, zero-extended (R258). -/
theorem writesGroup_load {i : Instr} (d : BitVec 6) (hexec : exec i s = s.load h sp w d x z k)
    (hs : SettledScratch s) (hu : Unpoisoned s) (hsp : sp ≠ .g)
    (hok : ∀ l < 32, s.active h l = true → laneAddress s x k z (prefixOffset s) l % (4 * 2 ^ w.toNat) = 0 ∧
      s.placeOf s.myBlock sp (laneAddress s x k z (prefixOffset s) l) (4 * 2 ^ w.toNat) = some (q l)) :
    WritesGroup i s d.toNat (if w.toNat < 2 then 1 else 4 * 2 ^ w.toNat / 8) (s.active h)
      fun i l => loadedWord (4 * 2 ^ w.toNat) (placeByte s (q l)) i := by
  have hlanes : ∀ l ∈ s.activeLanes h, laneAddress s x k z (prefixOffset s) l % (4 * 2 ^ w.toNat) = 0 ∧
      s.placeOf s.myBlock sp (laneAddress s x k z (prefixOffset s) l) (4 * 2 ^ w.toNat) = some (q l) := fun l hl =>
    have hm := (mem_activeLanes s h l).mp hl
    hok l hm.1 hm.2
  rw [← widthRegs_eq]
  refine writesGroup_of_putGroup (act := fun l => ((s.activeLanes h).map fun j => (j, placeRead s (4 * 2 ^ w.toNat) (q j))).any
    fun e => e.1 == l) (f := fun i l => BitVec.ofNat 64 (leNat (((bytesAt ((s.activeLanes h).map fun j =>
      (j, placeRead s (4 * 2 ^ w.toNat) (q j))) l).drop (8 * i)).take 8))) ?_ (fun l hl => ?_) (fun i l hl ha => ?_)
  · rw [hexec]
    unfold State.load widthBytes
    simp only [addrs_eq, loadLanes_settled hs hu hsp hlanes]
    rfl
  · rw [any_lane_map, contains_activeLanes s h hl]
  · have hmem : l ∈ s.activeLanes h := (mem_activeLanes s h l).mpr ⟨hl, ha⟩
    rw [bytesAt_map _ hmem]
    exact ofNat_leNat_placeRead s _ i (inScratch_of_placeOf (hlanes l hmem).2)

end

/-! ### Stores -/

/-- No slot waits at a barrier object, no reduction is registered, and the block of the issuing warp is neither audited nor
replayed: a store to the scratchpads does nothing besides. -/
structure StoreReady (s : State) : Prop where
  settled : ∀ c, (s.core c).redHolders = []
  noWaiter : ∀ k x, ¬ AtObject ((s.warp k).micro x).wait
  noAudit : s.myLaunch.record.audit = false
  noReplay : (s.block s.myBlock).replay = false

/-- The state with bytes written at a place of the scratchpads. -/
def placeWrite (s : State) (q : Place) (bs : List Byte) : State :=
  match q with
  | .scratch b o => s.setBlock b { s.block b with
      scratch := (s.block b).scratch.write o bs, poison := poisonAfter (s.block b).poison (cellsAt o bs) }
  | .stack k o => s.stackWrite k o bs
  | .global _ => s

theorem wakeObjs_noWaiter {s : State} (h : ∀ k x, ¬ AtObject ((s.warp k).micro x).wait) (b off n : Nat) :
    s.wakeObjs b off n = s := by
  have hnone (t : Turn) : s.waitsAt b off n t = false := by
    unfold State.waitsAt
    cases hw : ((s.warp t.warp).micro t.slotB).wait with
    | bowait => exact absurd ⟨_, _, _, _, _, _, hw⟩ (h t.warp t.slotB)
    | none | bar | baton | take | xswap | chain | room | remote => simp [hw]
  unfold State.wakeObjs
  rw [List.filter_eq_nil_iff.mpr fun t _ => by simp [hnone t], List.foldl_nil]

theorem writePlace_ready {s : State} (hs : StoreReady s) {q : Place} (hq : InScratch q) (bs : List Byte) :
    s.writePlace none q bs = placeWrite s q bs := by
  cases q with
  | global p => exact hq.elim
  | scratch b o =>
    simp only [State.writePlace, State.scratchWrite, scratchPrep_rest s b o bs.length hs.settled, placeWrite]
    exact wakeObjs_noWaiter (s := s.setBlock b _) hs.noWaiter b o bs.length
  | stack k o => simp only [State.writePlace, hs.noReplay, Bool.false_eq_true, if_false, placeWrite]

theorem placeWrite_frame (s : State) (q : Place) (bs : List Byte) :
    placeWrite s q bs = { s with blocks := (placeWrite s q bs).blocks, stackMem := (placeWrite s q bs).stackMem } := by
  cases q <;> rfl

/-- A write to a scratchpad leaves a block's launch, warps and size as they stand. -/
theorem block_placeWrite (s : State) (q : Place) (bs : List Byte) (c : Nat) :
    (placeWrite s q bs).block c = { s.block c with
      scratch := ((placeWrite s q bs).block c).scratch, poison := ((placeWrite s q bs).block c).poison } := by
  cases q with
  | global | stack => rfl
  | scratch b o =>
    simp only [placeWrite, State.block_setBlock]
    by_cases hc : c = b
    · subst hc; simp
    · simp [hc]

theorem storeReady_placeWrite {s : State} (hs : StoreReady s) (q : Place) (bs : List Byte) :
    StoreReady (placeWrite s q bs) := by
  have hframe := placeWrite_frame s q bs
  have hblock := block_placeWrite s q bs s.myBlock
  have hmine : (placeWrite s q bs).myBlock = s.myBlock := by rw [hframe]; rfl
  have hlaunch : (placeWrite s q bs).myLaunch = s.myLaunch := by
    unfold State.myLaunch
    rw [hmine, hblock, hframe]
    rfl
  refine ⟨fun c => ?_, fun k x => ?_, ?_, ?_⟩
  · rw [hframe]; exact hs.settled c
  · rw [hframe]; exact hs.noWaiter k x
  · rw [hlaunch]; exact hs.noAudit
  · rw [hmine, hblock]; exact hs.noReplay

/-- Where a place lies in a block's scratchpad, and in a stack's. -/
def scratchOff (b : Nat) : Place → Option Nat
  | .scratch y o => if y = b then some o else none
  | _ => none
def stackOff (b : Nat) : Place → Option Nat
  | .stack y o => if y = b then some o else none
  | _ => none

/-- The byte that n bytes at an offset leave at an address, if they cover it. -/
def writtenAt (n : Nat) (bs : List Byte) (a : Nat) (o : Option Nat) : Option Byte :=
  o.bind fun o => if o ≤ a ∧ a < o + n then some (bs.getD (a - o) 0#8) else none

theorem scratch_placeWrite (s : State) (q : Place) (bs : List Byte) (b a : Nat) :
    ((placeWrite s q bs).block b).scratch.byte a =
      (writtenAt bs.length bs a (scratchOff b q)).getD ((s.block b).scratch.byte a) := by
  cases q with
  | global | stack => rfl
  | scratch y o =>
    simp only [placeWrite, State.block_setBlock, scratchOff, writtenAt]
    by_cases hb : b = y
    · subst hb
      simp only [if_true, Memory.byte_write, Option.bind_some]
      split <;> rfl
    · simp [hb, Ne.symm hb]

theorem stack_placeWrite (s : State) (q : Place) (bs : List Byte) (b a : Nat) :
    ((placeWrite s q bs).stack b).bytes.byte a =
      (writtenAt bs.length bs a (stackOff b q)).getD ((s.stack b).bytes.byte a) := by
  cases q with
  | global | scratch => rfl
  | stack y o =>
    simp only [placeWrite, stackWrite_byte, stackOff, writtenAt]
    by_cases hb : b = y
    · subst hb
      simp only [if_true, true_and, Option.bind_some]
      split <;> rfl
    · simp [hb, Ne.symm hb]

/-- The last write to an address among several is the last among the later ones, or else the first one's. -/
theorem lastWrite_cons (n : Nat) (e : Nat × Nat) (ws : List (Nat × Nat)) (data : Nat → Nat → Byte) (a : Nat) :
    lastWrite n (e :: ws) data a =
      (lastWrite n ws data a).or (if e.2 ≤ a ∧ a < e.2 + n then some (data e.1 (a - e.2)) else none) := by
  unfold lastWrite
  rw [List.reverse_cons, List.find?_append]
  cases ws.reverse.find? fun e => decide (e.2 ≤ a) && decide (a < e.2 + n) with
  | some x => rfl
  | none =>
    by_cases hc : e.2 ≤ a ∧ a < e.2 + n
    · simp [hc]
    · simp [hc]

theorem lastWrite_lane (n : Nat) (f : Nat → Option Nat) (l : Nat) (ls : List Nat) (bs : Nat → List Byte)
    (data : Nat → Nat → Byte) (hdata : ∀ j < n, (bs l).getD j 0#8 = data l j) (a : Nat) :
    lastWrite n ((l :: ls).filterMap fun l => (f l).map fun o => (l, o)) data a =
      (lastWrite n (ls.filterMap fun l => (f l).map fun o => (l, o)) data a).or (writtenAt n (bs l) a (f l)) := by
  cases hf : f l with
  | none => simp [hf, writtenAt]
  | some o =>
    rw [List.filterMap_cons_some (by rw [hf]; rfl), lastWrite_cons]
    congr 1
    simp only [writtenAt, Option.bind_some]
    split
    · rw [hdata _ (by omega)]
    · rfl

section
variable {step : State → Nat → State} {q : Nat → Place} {bs : Nat → List Byte} {n : Nat} {data : Nat → Nat → Byte}

/-- Writes of lanes, one after the other: nothing but bytes of the scratchpads changes, and of two writes to one byte the
later one stands (R257). -/
theorem foldl_placeWrite (ls : List Nat) (hstep : ∀ l ∈ ls, ∀ t, StoreReady t → step t l = placeWrite t (q l) (bs l))
    (hdata : ∀ l ∈ ls, (bs l).length = n ∧ ∀ j < n, (bs l).getD j 0#8 = data l j) {s : State} (hs : StoreReady s) :
    (ls.foldl step s).warps = s.warps ∧ (ls.foldl step s).mem = s.mem ∧
      (∀ b a, ((ls.foldl step s).block b).scratch.byte a =
        (lastWrite n (ls.filterMap fun l => (scratchOff b (q l)).map fun o => (l, o)) data a).getD
          ((s.block b).scratch.byte a)) ∧
      ∀ b a, ((ls.foldl step s).stack b).bytes.byte a =
        (lastWrite n (ls.filterMap fun l => (stackOff b (q l)).map fun o => (l, o)) data a).getD
          ((s.stack b).bytes.byte a) := by
  induction ls generalizing s with
  | nil => exact ⟨rfl, rfl, fun _ _ => rfl, fun _ _ => rfl⟩
  | cons l ls ih =>
    simp only [List.forall_mem_cons] at hstep hdata
    obtain ⟨⟨hlen, hbyte⟩, hdata⟩ := hdata
    obtain ⟨hwarps, hmem, hscratch, hstack⟩ := ih hstep.2 hdata (storeReady_placeWrite hs (q l) (bs l))
    have hframe := placeWrite_frame s (q l) (bs l)
    simp only [List.foldl_cons, hstep.1 s hs]
    refine ⟨hwarps.trans (by rw [hframe]), hmem.trans (by rw [hframe]), fun b a => ?_, fun b a => ?_⟩
    · rw [hscratch, scratch_placeWrite, hlen, lastWrite_lane n (fun l => scratchOff b (q l)) l ls bs data hbyte]
      exact (Option.getD_or).symm
    · rw [hstack, stack_placeWrite, hlen, lastWrite_lane n (fun l => stackOff b (q l)) l ls bs data hbyte]
      exact (Option.getD_or).symm

end

/-! ### The bytes that a lane stores (R258) -/

theorem ofNat_div_field (x : Word) (i : Nat) : BitVec.ofNat 8 (x.toNat / 256 ^ i) = BitVec.ofNat 8 (field x 8 i) := by
  apply BitVec.eq_of_toNat_eq
  rw [field, BitVec.toNat_ofNat, BitVec.toNat_ofNat, Nat.mod_mod, Nat.pow_mul]

theorem laneBytes_words (s : State) (d l m : Nat) (hm : 8 * m ≠ 4) :
    s.laneBytes d (8 * m) l = (List.range m).flatMap fun i => leBytes (s.rdV (d + i) l).toNat 8 := by
  rw [State.laneBytes, if_neg hm, Nat.mul_div_cancel_left m (by omega)]

theorem laneBytes_words_getD (s : State) (d l m j : Nat) (hm : 8 * m ≠ 4) (hj : j < 8 * m) :
    (s.laneBytes d (8 * m) l).getD j 0#8 = storedByte s d l j := by
  rw [laneBytes_words s d l m hm, flatMap_leBytes_getD (fun i => (s.rdV (d + i) l).toNat) m j hj, ofNat_div_field]
  rfl

theorem laneBytes_half_getD (s : State) (d l j : Nat) (hj : j < 4) :
    (s.laneBytes d 4 l).getD j 0#8 = storedByte s d l j := by
  have hq : j / 8 = 0 := by omega
  have hr : j % 8 = j := by omega
  rw [State.laneBytes, if_pos rfl, leBytes_getD _ _ _ hj, ofNat_div_field, storedByte, hq, hr]
  rfl

/-- A lane stores as many bytes as its width code says, from its registers upward. -/
theorem laneBytes_spec (s : State) (d l : Nat) (w : BitVec 2) :
    (s.laneBytes d (4 * 2 ^ w.toNat) l).length = 4 * 2 ^ w.toNat ∧
      ∀ j < 4 * 2 ^ w.toNat, (s.laneBytes d (4 * 2 ^ w.toNat) l).getD j 0#8 = storedByte s d l j := by
  have hw : w.toNat = 0 ∨ ∃ m, 4 * 2 ^ w.toNat = 8 * m ∧ 8 * m ≠ 4 := by
    obtain h0 | h1 | h2 | h3 : w.toNat = 0 ∨ w.toNat = 1 ∨ w.toNat = 2 ∨ w.toNat = 3 := by omega
    · exact .inl h0
    · exact .inr ⟨1, congrArg (4 * 2 ^ ·) h1, by decide⟩
    · exact .inr ⟨2, congrArg (4 * 2 ^ ·) h2, by decide⟩
    · exact .inr ⟨4, congrArg (4 * 2 ^ ·) h3, by decide⟩
  rcases hw with h0 | ⟨m, hm, hne⟩
  · rw [h0]
    exact ⟨length_leBytes _ 4, fun j hj => laneBytes_half_getD s d l j hj⟩
  · rw [hm]
    exact ⟨by rw [laneBytes_words s d l m hne]; exact length_flatMap_leBytes _ m,
      fun j hj => laneBytes_words_getD s d l m j hne hj⟩

/-! ### Stores of lanes -/

theorem beginRelease_none {s : State} (hr : s.cw.rel = []) (global : Bool) (ls : W32) :
    s.beginRelease global ls = ([], s) := by
  simp [State.beginRelease, State.takeRel, hr]

theorem sign_unaudited {s : State} (h : s.myLaunch.record.audit = false) (a : Nat) (bs : List Byte) : s.sign a bs = s := by
  simp [State.sign, h]

section
variable {s : State} {h : Hdr} {w : BitVec 2} {x : BitVec 6} {k : BitVec 3} {sp : Space} {z : Nat} {q : Nat → Place}

/-- A lane-wise store to a scratchpad space writes the bytes of each active lane at its place (R257, R258). -/
theorem exec_store_scratch {i : Instr} (d : BitVec 6) (hexec : exec i s = s.store h sp w d x z k)
    (hs : StoreReady s) (hrel : s.cw.rel = []) (hsp : sp ≠ .g)
    (hok : ∀ l < 32, s.active h l = true → laneAddress s x k z (prefixOffset s) l % (4 * 2 ^ w.toNat) = 0 ∧
      s.placeOf s.myBlock sp (laneAddress s x k z (prefixOffset s) l) (4 * 2 ^ w.toNat) = some (q l)) :
    ∃ t, exec i s = .next t ∧ t.warps = s.warps ∧ t.mem = s.mem ∧
      (∀ b a, (t.block b).scratch.byte a =
        (lastWrite (4 * 2 ^ w.toNat) ((s.activeLanes h).filterMap fun l => (scratchOff b (q l)).map fun o => (l, o))
          (storedByte s d.toNat) a).getD ((s.block b).scratch.byte a)) ∧
      ∀ b a, (t.stack b).bytes.byte a =
        (lastWrite (4 * 2 ^ w.toNat) ((s.activeLanes h).filterMap fun l => (stackOff b (q l)).map fun o => (l, o))
          (storedByte s d.toNat) a).getD ((s.stack b).bytes.byte a) := by
  have hlanes : ∀ l ∈ s.activeLanes h, laneAddress s x k z (prefixOffset s) l % (4 * 2 ^ w.toNat) = 0 ∧
      s.placeOf s.myBlock sp (laneAddress s x k z (prefixOffset s) l) (4 * 2 ^ w.toNat) = some (q l) := fun l hl =>
    have hm := (mem_activeLanes s h l).mp hl
    hok l hm.1 hm.2
  refine ⟨_, ?_, foldl_placeWrite (step := fun t l => State.writePlace
      (if sp = .g ∨ sp = .k then t.sign (addrOf (s.addrs h x k z) l) (s.laneBytes d.toNat (4 * 2 ^ w.toNat) l) else t)
      none (q l) (s.laneBytes d.toNat (4 * 2 ^ w.toNat) l)) (s.activeLanes h) (fun l hl t ht => ?_)
    (fun l _ => laneBytes_spec s d.toNat l w) hs⟩
  · rw [hexec]
    unfold State.store widthBytes State.writeLanes
    simp only [addrs_eq, checkLanes_scratch hsp .write hlanes, beginRelease_none hrel, List.foldl_map]
    rfl
  · have hq := inScratch_of_placeOf (hlanes l hl).2
    simp only [sign_unaudited ht.noAudit, ite_self, writePlace_ready ht hq]

end

/-- The rows' words are loads and stores of their space at their addresses, and none is of global memory. -/
theorem exec_scratchRows (s : State) (h : Hdr) (w : BitVec 2) (d x : BitVec 6) (z k : BitVec 3) :
    ∀ e ∈ scratchRows h w d x z k, exec e.1 s = s.load h e.2.2.1 w d x e.2.2.2 k ∧
      exec e.2.1 s = s.store h e.2.2.1 w d x e.2.2.2 k ∧ e.2.2.1 ≠ .g := by
  simp only [scratchRows, List.forall_mem_cons]
  exact ⟨⟨rfl, rfl, by decide⟩, ⟨rfl, rfl, by decide⟩, ⟨rfl, rfl, by decide⟩, List.forall_mem_nil _⟩

/-- Settles O19: the three spaces differ in where a lane's place is, and in nothing else. -/
theorem scratchpadAccesses : Obligations.ScratchpadAccesses := by
  intro s h w d x z k ⟨hsettled, hwaits⟩ hu e he q n a hok byte
  obtain ⟨hload, hstore, hsp⟩ := exec_scratchRows s h w d x z k e he
  exact ⟨writesGroup_load (q := q) d hload hsettled hu hsp hok, fun hrel haudit hreplay =>
    exec_store_scratch (q := q) d hstore ⟨hsettled.1, hwaits, haudit, hreplay⟩ hrel hsp hok⟩

end Sys2Proof.Laws

/-! ## Placement (R27, R81, R84, R86, R88 to R90) -/

namespace Sys2Proof.Laws

open Sys2Proof Sys2Proof.Machine Sys2Proof.Claims

/-! ### The capacity test (R88) -/

/-- Some set of cores for a unit: fitting cores of one stack for a region, a gang's neighbours otherwise. -/
theorem someSet_iff (s : State) (p : Nat) (r : LaunchRec) (ok : Nat → Bool) : s.someSet p r ok = true ↔
    (r.region = true → ∃ k ∈ s.stacksOf p, r.total ≤ (((List.range 64).map (64 * k + ·)).filter ok).length) ∧
      (r.region = false → ∃ c ∈ s.coresOf p, c % r.gang = 0 ∧ ∀ j < r.gang, ok (c + j) = true) := by
  unfold State.someSet
  cases r.region <;> simp

/-- A unit of one block at most: such a launch needs no set of cores. -/
theorem unit_le_one_iff (r : LaunchRec) :
    ¬ 1 < r.unit ↔ (r.region = true ∧ r.total ≤ 1) ∨ (r.region = false ∧ r.gang ≤ 1) := by
  unfold LaunchRec.unit
  cases r.region <;> simp

section
variable {s : State} {l : Nat}

theorem verdict_tooLarge (h : 5888 < (s.launch l).record.need) : s.verdict l = .refuse 6 := if_pos h

theorem verdict_noPlace (h : (s.launch l).record.need ≤ 5888) (hunit : 1 < (s.launch l).record.unit)
    (hset : s.someSet (s.launch l).part (s.launch l).record (s.holdsEver (s.launch l).record) = false) :
    s.verdict l = .refuse 8 :=
  (if_neg (by omega)).trans (if_pos ⟨hunit, by simp [hset]⟩)

/-- Past the test at FULL, the one of the present capacity decides. -/
theorem verdict_now (h : (s.launch l).record.need ≤ 5888) (hever : ¬ 1 < (s.launch l).record.unit ∨
      s.someSet (s.launch l).part (s.launch l).record (s.holdsEver (s.launch l).record) = true) :
    s.verdict l = if (∀ c ∈ s.coresOf (s.launch l).part, s.holdsNow (s.launch l).record c = false) ∨
        ((s.launch l).record.region = false ∧
          s.someSet (s.launch l).part (s.launch l).record (s.holdsNow (s.launch l).record) = false) then
      if (s.launch l).record.phwait then .waits else .refuse 1 else .fits := by
  refine (if_neg (by omega)).trans ((if_neg ?_).trans ?_)
  · rintro ⟨hunit, hset⟩
    rcases hever with hu | he
    · exact hu hunit
    · simp [he] at hset
  · simp

end

/-! ### What a placement does (R76, R84, R88) -/

section
variable {s : State} {l : Nat} (hp : Placing s l) (c : Nat)
include hp

theorem not_placing_guard : ¬ (!(s.launch l).open ∨ (s.launch l).undoing ∨ (s.launch l).ending.isSome ∨
    (s.launch l).record.total ≤ (s.launch l).next ∨ !s.mayBegin l) := by
  obtain ⟨hopen, hundo, hending, hnext, hbegin⟩ := hp
  have htotal : ¬ (s.launch l).record.total ≤ (s.launch l).next := Nat.not_le.mpr hnext
  simp [hopen, hundo, hending, htotal, hbegin]

/-- A first placement that fails the capacity test ends the launch. -/
theorem exec_blockPlace_refuse {st : Nat} (hs : (s.launch l).started = false) (hv : s.verdict l = .refuse st) :
    exec (.blockPlace l c) s = .next (s.endLaunch l st) := by
  show execBlockPlace l c s = _
  simp only [execBlockPlace, if_neg (not_placing_guard hp), hs, hv, Bool.false_eq_true, if_false]

/-- A launch that waits for a phase is held, once. -/
theorem exec_blockPlace_waits (hs : (s.launch l).started = false) (hv : s.verdict l = .waits) :
    exec (.blockPlace l c) s = if (s.launch l).phase = .held then .next s else
      .next (if (s.launch l).record.phasewait = 0 then s.setLaunch l { s.launch l with phase := .held }
        else (s.setLaunch l { s.launch l with phase := .held }).later (.phaseTimeout l)) := by
  show execBlockPlace l c s = _
  simp only [execBlockPlace, if_neg (not_placing_guard hp), hs, hv, Bool.false_eq_true, if_false]

/-- The capacity test passed, a unit is placed where its cores take it, save slots are free and it is the launch's turn. -/
theorem exec_blockPlace_fits (hf : (s.launch l).started = true ∨ s.verdict l = .fits) {o : Option (List Nat)}
    (ho : s.unitCores l c = o) : exec (.blockPlace l c) s = .next (o.elim s fun cs =>
      if s.slotsFor l (s.launch l).record.unit ∧ s.turnOf l then s.placeUnit l cs else s) := by
  have hv : (if (s.launch l).started then Verdict.fits else s.verdict l) = .fits := by
    rcases hf with h | h
    · rw [if_pos h]
    · rw [h, ite_self]
  show execBlockPlace l c s = _
  simp only [execBlockPlace, if_neg (not_placing_guard hp), hv, ho]
  cases o with
  | none => rfl
  | some cs => simp only [Option.elim_some]; split <;> rfl

end

theorem mem_later_agenda (s : State) (i : Instr) : i ∈ (s.later i).agenda := by
  simp only [State.later, addOnce]
  split <;> simp_all

/-- The hold of a launch that waits for a phase, with the limit of its wait where it has one. -/
theorem held_frame (s : State) (l n : Nat) (x : Launch) : ∃ t,
    (if n = 0 then s.setLaunch l x else (s.setLaunch l x).later (.phaseTimeout l)) = t ∧
      t = { s.setLaunch l x with agenda := t.agenda } ∧ (n ≠ 0 → Instr.phaseTimeout l ∈ t.agenda) := by
  refine ⟨_, rfl, ?_, fun hn => ?_⟩
  · split <;> rfl
  · rw [if_neg hn]; exact mem_later_agenda _ _

/-! ### A launch while its first card is put (R90, R409) -/

/-- From s to t nothing of any launch has changed but the pieces it has recorded and its card queues. -/
def LaunchKept (s t : State) : Prop :=
  ∀ j, t.launch j = { s.launch j with
    snaps := (t.launch j).snaps, unprotected := (t.launch j).unprotected, ring := (t.launch j).ring }

theorem LaunchKept.trans {s t u : State} (h : LaunchKept s t) (g : LaunchKept t u) : LaunchKept s u :=
  fun j => (g j).trans (by rw [h j])

theorem launchKept_of_launches {s t : State} (h : t.launches = s.launches) : LaunchKept s t := by
  intro j
  unfold State.launch
  rw [h]

theorem launchKept_setLaunch (s : State) (l : Nat) (x : Launch) (h : x = { s.launch l with
    snaps := x.snaps, unprotected := x.unprotected, ring := x.ring }) : LaunchKept s (s.setLaunch l x) := by
  intro j
  rw [State.launch_setLaunch]
  split
  · next hj => rw [hj]; exact h
  · rfl

theorem walkLeaf_launches {s t : State} {ctx va level entryAt e : Nat} {k : Kind} {x : TlbEntry}
    (h : s.walkLeaf ctx va k level entryAt e = .ok t x) : t.launches = s.launches := by
  unfold State.walkLeaf at h
  simp only at h
  generalize e % 256 ||| 8 ||| (if k.writes then 4 else 0) = low at h
  split at h
  · cases h
  split at h
  · cases h
  split at h
  · cases h
  simp only [Xlate.ok.injEq] at h
  obtain ⟨rfl, -⟩ := h
  split
  · rfl
  · exact (homeStep_homeWrite _ _ _).launches

theorem walk_launches {s t : State} {stack ctx va n table : Nat} {k : Kind} {x : TlbEntry}
    (h : s.walk stack ctx va k n table = .ok t x) : t.launches = s.launches := by
  induction n generalizing s table with
  | zero => simp [State.walk] at h
  | succ n ih =>
    have hread := fun p m => (homeStep_homeRead s p m).launches
    simp only [State.walk] at h
    generalize (if 4 - n = 3 then 256 else 4096) = size at h
    split at h
    · cases h
    split at h
    · exact (walkLeaf_launches h).trans (hread _ _)
    split at h
    · cases h
    split at h
    · cases h
    refine (ih h).trans ?_
    split <;> exact hread _ _

theorem walkFor_launches {s t : State} {stack ctx va : Nat} {k : Kind} {x : TlbEntry}
    (h : s.walkFor stack ctx va k = .ok t x) : t.launches = s.launches := by
  unfold State.walkFor at h
  simp only at h
  split at h
  · simp at h
  · split at h
    · simp at h
    · exact walk_launches h

theorem cpXlate_launches {s t : State} {ctx va p : Nat} {k : Kind} (h : s.cpXlate ctx va k = some (t, p)) :
    t.launches = s.launches := by
  unfold State.cpXlate at h
  split at h
  · next hw =>
    cases h
    exact walkFor_launches hw
  · cases h

theorem sysXlate_launches {s t : State} {ctx va p : Nat} (h : s.sysXlate ctx va = some (t, p)) :
    t.launches = s.launches := by
  rcases Option.or_eq_some_iff.mp h with h | ⟨_, h⟩ <;> exact cpXlate_launches h

theorem cpRead_launches {s t : State} {ctx n va m : Nat} {bs : List Byte} (h : s.cpRead ctx n va m = some (t, bs)) :
    t.launches = s.launches := by
  induction n generalizing s t va m bs with
  | zero => cases h; rfl
  | succ n ih =>
    simp only [State.cpRead] at h
    split at h
    · cases h; rfl
    split at h
    · cases h
    next hx =>
      split at h
      · cases h
      next hr =>
        cases h
        exact (ih hr).trans (((homeStep_homeRead _ _ _).launches).trans (cpXlate_launches hx))

theorem cpWrite_launches (s : State) (ctx n va : Nat) (bs : List Byte) : (s.cpWrite ctx n va bs).launches = s.launches := by
  induction n generalizing s va bs with
  | zero => rfl
  | succ n ih =>
    simp only [State.cpWrite]
    split
    · rfl
    · refine (ih _ _ _).trans ?_
      split
      · rfl
      · next hx => exact ((homeStep_homeWrite _ _ _).launches).trans (sysXlate_launches hx)

theorem cpPoison_launches (s : State) (ctx : Nat) (ws : List Nat) : (s.cpPoison ctx ws).launches = s.launches := by
  unfold State.cpPoison
  induction ws generalizing s with
  | nil => rfl
  | cons w ws ih =>
    refine (ih _).trans ?_
    simp only
    split
    · rfl
    · next hx => exact (sysXlate_launches hx :)

theorem launchKept_snapCopy (s : State) (l piece : Nat) : LaunchKept s (s.snapCopy l piece) := by
  unfold State.snapCopy
  simp only
  split
  · exact launchKept_of_launches rfl
  split
  · exact launchKept_setLaunch s l _ rfl
  refine (launchKept_setLaunch s l { s.launch l with snaps := (s.launch l).snaps ++ [piece] } rfl).trans ?_
  split
  · exact launchKept_of_launches rfl
  · next hr =>
    exact launchKept_of_launches ((cpWrite_launches _ _ _ _ _).trans
      ((cpPoison_launches _ _ _).trans ((cpWrite_launches _ _ _ _ _).trans (cpRead_launches hr))))

theorem launchKept_snapBefore (s : State) (l va : Nat) (e : TlbEntry) : LaunchKept s (s.snapBefore l va e) := by
  unfold State.snapBefore
  split
  · exact launchKept_snapCopy s l _
  · exact launchKept_of_launches rfl

theorem launchKept_snapFor (s : State) (l va : Nat) : LaunchKept s (s.snapFor l va) := by
  unfold State.snapFor
  simp only
  split
  · next hw => exact (launchKept_of_launches (walkFor_launches hw)).trans (launchKept_snapBefore _ _ _ _)
  · next hw => exact (launchKept_of_launches (walkFor_launches hw)).trans (launchKept_snapBefore _ _ _ _)
  · exact launchKept_of_launches rfl

theorem launchKept_putCard (s : State) (l pos : Nat) (c : BitVec 512) : LaunchKept s (s.putCard l pos c) :=
  ((launchKept_snapFor s l _).trans (launchKept_of_launches (cpWrite_launches _ _ _ _ _))).trans
    (launchKept_setLaunch _ l _ rfl)

theorem firstCard_launches (s : State) (l : Nat) : (s.firstCard l).1.launches = s.launches := by
  unfold State.firstCard
  simp only
  split
  · rfl
  · next hr =>
    split
    · exact cpRead_launches hr
    · next hc => exact (cpRead_launches hc).trans (cpRead_launches hr)

/-- A placed unit counts as placed, and its launch runs. -/
theorem placeUnit_launch (s : State) (l : Nat) (cs : List Nat) :
    ((s.placeUnit l cs).launch l).next = (s.launch l).next + (s.launch l).record.unit ∧
      ((s.placeUnit l cs).launch l).phase = .running := by
  unfold State.placeUnit
  simp only
  split
  · have hkept (u : State) : LaunchKept u ((u.firstCard l).1.putCard l 0 (u.firstCard l).2) :=
      (launchKept_of_launches (firstCard_launches u l)).trans (launchKept_putCard _ l 0 _)
    rw [State.later_launch, hkept _ l, State.launch_setLaunch_self]
    exact ⟨rfl, rfl⟩
  · rw [State.launch_setLaunch_self]
    exact ⟨rfl, rfl⟩

/-! ### A block of a plain launch on its core (R27, R86) -/

/-- A core whose carve takes a block has a free block slot in it. -/
theorem freeBlockSlot_spec {s : State} {r : LaunchRec} {c : Nat} (hm : s.coreMatches r c = true)
    (hslots : (s.core c).carve.slots ≤ 16) : s.freeBlockSlot c / 16 = c ∧ (s.block (s.freeBlockSlot c)).used = false := by
  unfold State.freeBlockSlot
  cases hf : ((List.range (s.core c).carve.slots).map (16 * c + ·)).find? fun b => !(s.block b).used with
  | some b =>
    have hmem := List.mem_of_find?_eq_some hf
    have hfree := List.find?_some hf
    simp only [List.mem_map, List.mem_range] at hmem
    obtain ⟨i, hi, rfl⟩ := hmem
    exact ⟨by simp only [Option.getD_some]; omega, by simpa using hfree⟩
  | none =>
    have hall : ∀ b ∈ (List.range (s.core c).carve.slots).map (16 * c + ·), (s.block b).used = true := by
      simpa using List.find?_eq_none.mp hf
    have hsub : ((List.range (s.core c).carve.slots).map (16 * c + ·)).Sublist (s.blocksOn c) := by
      rw [← List.filter_eq_self.mpr hall]
      exact ((List.range_sublist.mpr hslots).map _).filter _
    have hlen := hsub.length_le
    have hlt : (s.blocksOn c).length < (s.core c).carve.slots := by
      simp only [State.coreMatches, Bool.and_eq_true, decide_eq_true_eq] at hm
      exact hm.1.1.2
    simp only [List.length_map, List.length_range] at hlen
    omega

/-- The warps of a block as its start leaves them: each of the chosen slots holds the warp of its place. -/
def startAll (s : State) (b : Nat) (r : LaunchRec) (base : Nat → Nat) (ws : List (Nat × Nat)) : State :=
  ws.foldl (fun s w => s.setWarp w.1 (startWarp b w.2 r (base w.1))) s

theorem startAll_frame (s : State) (b : Nat) (r : LaunchRec) (base : Nat → Nat) (ws : List (Nat × Nat)) :
    startAll s b r base ws = { s with warps := (startAll s b r base ws).warps } := by
  unfold startAll
  induction ws generalizing s with
  | nil => rfl
  | cons w ws ih => exact (ih _).trans rfl

theorem startAll_warp_other (s : State) (b : Nat) (r : LaunchRec) (base : Nat → Nat) (ws : List (Nat × Nat)) {k : Nat}
    (hk : k ∉ ws.map (·.1)) : (startAll s b r base ws).warp k = s.warp k := by
  unfold startAll
  induction ws generalizing s with
  | nil => rfl
  | cons w ws ih =>
    simp only [List.map_cons, List.mem_cons, not_or] at hk
    exact (ih _ hk.2).trans (State.warp_setWarp_ne _ _ _ hk.1)

theorem startAll_warp (s : State) (b : Nat) (r : LaunchRec) (base : Nat → Nat) {ws : List (Nat × Nat)}
    (hnodup : (ws.map (·.1)).Nodup) {k i : Nat} (hk : (k, i) ∈ ws) :
    (startAll s b r base ws).warp k = startWarp b i r (base k) := by
  induction ws generalizing s with
  | nil => simp at hk
  | cons w ws ih =>
    simp only [List.map_cons, List.nodup_cons] at hnodup
    rcases List.mem_cons.mp hk with rfl | hmem
    · exact (startAll_warp_other _ b r base ws hnodup.1).trans (State.warp_setWarp_self _ _ _)
    · exact ih _ hnodup.2 hmem

theorem regionBase_congr {s t : State} (hl : t.launches = s.launches) (hlay : t.layout = s.layout) (l : Nat) :
    t.regionBase l = s.regionBase l := by
  unfold State.regionBase State.launch State.coresOf State.stacksOf
  rw [hl, hlay]

theorem foldl_setWarp_regionBase (s : State) (l b : Nat) (r : LaunchRec) (ws : List (Nat × Nat)) :
    ws.foldl (fun (s : State) w => s.setWarp w.1 (startWarp b w.2 r (s.regionBase l w.1))) s =
      startAll s b r (s.regionBase l) ws := by
  unfold startAll
  induction ws generalizing s with
  | nil => simp only [List.foldl_nil]
  | cons w ws ih =>
    simp only [List.foldl_cons, ih]
    rw [regionBase_congr (State.setWarp_launches s _ _) (State.setWarp_layout s _ _)]

/-- A block of a launch as it takes its slots (R27, R90). -/
def newBlock (s : State) (l lin : Nat) : Block :=
  { used := true, launch := l, lin := lin, warps := (s.launch l).record.warps, regs := (s.launch l).record.regs,
    scratchSize := (s.launch l).record.scratchL, slot := s.freeSlot l }

/-- A block of a launch without stack scratchpad takes its slot, the core's clean bytes go, and its warps start. -/
theorem putBlock_eq {s : State} {l : Nat} (hk : (s.launch l).record.scratchK = 0) (lin c : Nat) :
    s.putBlock l lin c false = startAll ((s.invalidateClean c).setBlock (s.freeBlockSlot c) (newBlock s l lin))
      (s.freeBlockSlot c) (s.launch l).record (s.regionBase l) ((s.freeWarps c).take (s.launch l).record.warps).zipIdx := by
  have halloc : s.stackAlloc l (stackOf c) = s := by simp [State.stackAlloc, hk]
  have hbase (x : Block) : ((s.invalidateClean c).setBlock (s.freeBlockSlot c) x).regionBase l = s.regionBase l :=
    regionBase_congr rfl rfl l
  unfold State.putBlock
  simp only [halloc, foldl_setWarp_regionBase, hbase, Bool.false_eq_true, if_false]
  rfl

section
variable {s : State} {l c : Nat}

/-- The one core of a plain launch's next block, where it takes it. -/
theorem unitCores_plain (hregion : (s.launch l).record.region = false) (hgang : (s.launch l).record.gang = 1)
    (hk : (s.launch l).record.scratchK = 0) (hc : c ∈ s.coresOf (s.launch l).part) (htakes : s.coreTakes l c = true) :
    s.unitCores l c = some [c] := by
  have hroom : s.stackRoom l (stackOf c) = true := by simp [State.stackRoom, hk]
  have hunit : (s.launch l).record.unit = 1 := by simp [LaunchRec.unit, hregion, hgang]
  simp [State.unitCores, State.coresFor, hunit, hregion, hgang, hroom, hc, htakes, List.range_succ, Nat.mod_one]

theorem placeUnit_plain (hregion : (s.launch l).record.region = false) (hm : s.coreMatches (s.launch l).record c = true) :
    s.placeUnit l [c] = (s.putBlock l (s.launch l).next c false).setLaunch l
      { (s.putBlock l (s.launch l).next c false).launch l with
        next := (s.launch l).next + (s.launch l).record.unit, phase := .running, started := true, aged := false } := by
  simp [State.placeUnit, State.ready, hm, hregion]

theorem length_freeWarps {r : LaunchRec} (hm : s.coreMatches r c = true) : r.warps ≤ (s.freeWarps c).length := by
  simp only [State.coreMatches, Bool.and_eq_true, decide_eq_true_eq] at hm
  exact hm.1.2

theorem mem_freeWarps {k : Nat} (h : k ∈ s.freeWarps c) : k / 48 = c ∧ (s.warp k).stat = .absent := by
  simp only [State.freeWarps, warpSlotsOf, List.mem_filter, List.mem_map, List.mem_range, decide_eq_true_eq] at h
  obtain ⟨⟨i, hi, rfl⟩, habsent⟩ := h
  exact ⟨by omega, habsent⟩

theorem nodup_freeWarps (s : State) (c : Nat) : (s.freeWarps c).Nodup :=
  List.Pairwise.filter _ (List.Pairwise.map _ (fun _ _ hne h => hne (Nat.add_left_cancel h)) List.nodup_range)

/-- The next block of a plain launch on a core whose carve takes it: one block slot is taken, each of its warps starts in
a free warp slot, and nothing else of blocks, warps and memory changes (R27, R81, R86). -/
theorem placeUnit_plain_spec (hregion : (s.launch l).record.region = false) (hgang : (s.launch l).record.gang = 1)
    (hk : (s.launch l).record.scratchK = 0) (hm : s.coreMatches (s.launch l).record c = true) :
    let x := s.launch l
    let r := x.record
    let t := s.placeUnit l [c]
    let b := s.freeBlockSlot c
    t.block b = { used := true, launch := l, lin := x.next, warps := r.warps, regs := r.regs, scratchSize := r.scratchL,
                  slot := s.freeSlot l } ∧
      (∀ y, y ≠ b → t.block y = s.block y) ∧
      t.launch l = { x with next := x.next + 1, phase := .running, started := true, aged := false } ∧
      (∀ i < r.warps, ∃ k, k / 48 = c ∧ (s.warp k).stat = .absent ∧
        FreshWarp (t.warp k) b i r.entry (s.regionBase l k)) ∧
      (∀ k, (s.warp k).stat ≠ .absent → t.warp k = s.warp k) ∧ t.mem = s.mem := by
  intro x r t b
  let u := s.putBlock l x.next c false
  let v := (s.invalidateClean c).setBlock b (newBlock s l x.next)
  let ws := (s.freeWarps c).take r.warps
  have ht : t = u.setLaunch l { u.launch l with next := x.next + r.unit, phase := .running, started := true, aged := false } :=
    placeUnit_plain hregion hm
  have hunit : r.unit = 1 := by simp [r, x, LaunchRec.unit, hregion, hgang]
  have hu : u = startAll v b r (s.regionBase l) ws.zipIdx := putBlock_eq hk x.next c
  have hframe : u = { v with warps := u.warps } := hu ▸ startAll_frame v b r (s.regionBase l) ws.zipIdx
  have hkeys : ws.zipIdx.map (·.1) = ws := List.zipIdx_map_fst 0 ws
  have hfree {k : Nat} (h : k ∈ ws) : k / 48 = c ∧ (s.warp k).stat = .absent := mem_freeWarps (List.mem_of_mem_take h)
  have hwarp (k : Nat) : t.warp k = u.warp k := by rw [ht, State.setLaunch_warp]
  have hblock (y : Nat) : t.block y = v.block y := by rw [ht, State.setLaunch_block, hframe]; rfl
  refine ⟨(hblock b).trans (State.block_setBlock_self _ _ _),
    fun y hy => (hblock y).trans (State.block_setBlock_ne _ _ _ hy), ?_, fun i hi => ?_, fun k hk => ?_, ?_⟩
  · have hlaunch : u.launch l = x := by rw [hframe]; rfl
    rw [ht, State.launch_setLaunch_self, hlaunch, hunit]
  · have hlen : i < ws.length := by
      rw [List.length_take]
      exact Nat.lt_min.mpr ⟨hi, Nat.lt_of_lt_of_le hi (length_freeWarps hm)⟩
    obtain ⟨hcore, habsent⟩ := hfree (List.getElem_mem hlen)
    refine ⟨ws[i], hcore, habsent, ?_⟩
    have hnodup : (ws.zipIdx.map (·.1)).Nodup := hkeys.symm ▸ (nodup_freeWarps s c).take
    have hplace : (ws[i], i) ∈ ws.zipIdx := List.mk_mem_zipIdx_iff_getElem?.mpr (List.getElem?_eq_getElem hlen)
    rw [hwarp, hu, startAll_warp v b r _ hnodup hplace]
    rfl
  · have hnot : k ∉ ws.zipIdx.map (·.1) := by
      rw [hkeys]
      exact fun h => hk (hfree h).2
    rw [hwarp, hu, startAll_warp_other v b r _ _ hnot]
    rfl
  · rw [ht, State.setLaunch_mem, hframe]
    rfl

end

/-- Settles O39: the capacity test decides a first placement, and a plain launch's block takes its slots on the core. -/
theorem placementResults : Obligations.PlacementResults := by
  refine ⟨fun s l => ?_, fun s l c hp => ?_⟩
  · intro x r need total now ever stack gang fitsOn single short
    have hfits (ok : Nat → Bool) : s.someSet x.part r ok = true ↔ fitsOn ok := someSet_iff s x.part r ok
    have hsingle : ¬ 1 < r.unit ↔ single := unit_le_one_iff r
    have hshort : ((∀ c ∈ s.coresOf x.part, now c = false) ∨
        (r.region = false ∧ s.someSet x.part r now = false)) ↔ short := by
      refine or_congr_right (and_congr_right fun hr => ?_)
      rw [← Bool.not_eq_true, hfits]
      simp [fitsOn, hr]
    have hever (he : single ∨ fitsOn ever) : ¬ 1 < r.unit ∨ s.someSet x.part r ever = true :=
      he.imp hsingle.mpr (hfits ever).mpr
    refine ⟨verdict_tooLarge, fun hn hs hf => ?_, fun hn he hsh => ?_, fun hn he hsh => ?_⟩
    · exact verdict_noPlace hn (Decidable.not_not.mp (mt hsingle.mp hs)) (Bool.eq_false_iff.mpr (mt (hfits ever).mp hf))
    · exact (verdict_now hn (hever he)).trans (if_pos (hshort.mpr hsh))
    · exact (verdict_now hn (hever he)).trans (if_neg (mt hshort.mp hsh))
  · intro x r
    refine ⟨fun hs hv hh => ?_, fun st hs hv => exec_blockPlace_refuse hp c hs hv, fun hs hv hh => ?_,
      fun hf => ⟨?_, ?_, ?_⟩⟩
    · rw [exec_blockPlace_waits hp c hs hv, if_pos hh]
    · rw [exec_blockPlace_waits hp c hs hv, if_neg hh]
      obtain ⟨t, ht, hframe, hagenda⟩ := held_frame s l r.phasewait { x with phase := .held }
      exact ⟨t, congrArg _ ht, hframe, hagenda⟩
    · intro h
      rw [exec_blockPlace_fits hp c hf rfl]
      rcases h with h | h | h
      · rw [h]; rfl
      · cases s.unitCores l c <;> simp [h, r, x]
      · cases s.unitCores l c <;> simp [h]
    · intro cs hcs hslots hturn
      rw [exec_blockPlace_fits hp c hf hcs]
      exact ⟨congrArg _ (if_pos ⟨hslots, hturn⟩), placeUnit_launch s l cs⟩
    · intro hregion hgang hk hc htakes hm hslots hturn hcarve
      have hunit : r.unit = 1 := by simp [LaunchRec.unit, hregion, hgang]
      obtain ⟨hcore, hunused⟩ := freeBlockSlot_spec hm hcarve
      refine ⟨_, s.freeBlockSlot c, ?_, hcore, hunused, placeUnit_plain_spec hregion hgang hk hm⟩
      rw [exec_blockPlace_fits hp c hf (unitCores_plain hregion hgang hk hc htakes)]
      exact congrArg _ (if_pos ⟨hunit ▸ hslots, hturn⟩)

end Sys2Proof.Laws

/-! ## Links that cost nothing (R414, R415) -/

namespace Sys2Proof.Laws

open Sys2Proof Sys2Proof.Machine Sys2Proof.Claims

/-- A module whose links from stack 0 to its neighbours and from those to stack 3 cost 0, while domain link 0 retrains. -/
def freeLinks : State :=
  { links := [(linkKey (.dieToDie 0 0), { cost := 0 }), (linkKey (.dieToDie 0 1), { cost := 0 }),
      (linkKey (.dieToDie 1 1), { cost := 0 }), (linkKey (.dieToDie 2 0), { cost := 0 }),
      (linkKey (.domain 0), { retraining := true })] }

/-- The state in which domain link 0 has retrained. -/
def freeLinksTrained : State :=
  (freeLinks.setLink (linkKey (.domain 0)) { freeLinks.link (linkKey (.domain 0)) with retraining := false, cost := 32 }).recross

theorem exec_linkRetrainComplete_freeLinks :
    exec (.linkRetrainComplete (.domain 0)) freeLinks = .next freeLinksTrained := rfl

/-- Two routes of cost 0 share the 64 units as 64 and 0. -/
theorem crossings_freeLinksTrained : Tab.get [] freeLinksTrained.crossings 0 = [(0, 64), (1, 0)] := by decide

theorem linkCost_freeLinksTrained : ∀ l ∈ [LinkId.dieToDie 0 0, .dieToDie 0 1, .dieToDie (0 ^^^ 1) 1, .dieToDie (0 ^^^ 2) 0],
    (freeLinksTrained.link (linkKey l)).cost = 0 := by decide

/-- Routes of equal cost 0 do not take 32 units each. -/
theorem not_crossesBy_freeLinksTrained : ¬ CrossesBy freeLinksTrained := by
  intro h
  obtain ⟨a, b, hroutes, -, hequal, -⟩ := h 0 (by decide)
  have hcost (l : LinkId) (hl : l ∈ [LinkId.dieToDie 0 0, .dieToDie 0 1, .dieToDie (0 ^^^ 1) 1, .dieToDie (0 ^^^ 2) 0]) :
      (freeLinksTrained.link (linkKey l)).cost = 0 := linkCost_freeLinksTrained l hl
  have ha : a = 32 := hequal (by rw [hcost _ (by decide), hcost _ (by decide), hcost _ (by decide), hcost _ (by decide)])
  rw [crossings_freeLinksTrained, ha] at hroutes
  exact absurd hroutes (by simp)

/-- Refutes O47: CrossesBy asks for 32 units on each of two routes of equal cost, but where the links of both cost 0, as in
`freeLinks`, the weights in proportion to 1/cost are undefined, and the model's are 64 and 0. -/
theorem not_reliabilityResults : ¬ Obligations.ReliabilityResults := by
  intro h
  obtain ⟨-, -, -, -, -, -, -, ⟨-, -, hretrain, -⟩, -⟩ := h freeLinks 0 0 0 false 0 (.domain 0)
  obtain ⟨t, hexec, -, hcross⟩ := hretrain rfl
  rw [exec_linkRetrainComplete_freeLinks, Host.Outcome.next.injEq] at hexec
  exact not_crossesBy_freeLinksTrained (hexec ▸ hcross)

end Sys2Proof.Laws

/-! ## Reading back the word of an instruction (R38, R45, R51) -/

namespace Sys2Proof.Laws

open Sys2Proof

/-! ### The slices of a word -/

theorem extractLsb'_wordBits (h : Hdr) (x : BitVec 26) (start n : Nat) (hn : start + n ≤ 26) :
    (wordBits h x).extractLsb' start n = x.extractLsb' start n :=
  BitVec.extractLsb'_append_eq_of_add_le hn

theorem topBits_wordBits (h : Hdr) (x : BitVec 26) :
    (wordBits h x).getLsbD 31 = h.c ∧ (wordBits h x).getLsbD 30 = h.u := by
  unfold wordBits
  constructor <;>
    (rw [BitVec.getLsbD_append, BitVec.getLsbD_append, BitVec.getLsbD_append, BitVec.getLsbD_append]; simp)

theorem chain_wordBits (h : Hdr) (x : BitVec 26) : (wordBits h x).getLsbD 31 = h.c := (topBits_wordBits h x).1

theorem hdrOf_wordBits (h : Hdr) (x : BitVec 26) : hdrOf (wordBits h x) = h := by
  obtain ⟨hc, hu⟩ := topBits_wordBits h x
  obtain ⟨hn, hp⟩ := guardBits_wordBits h x
  simp only [hdrOf, hc, hu, hn, hp]

theorem low_wordBits (h : Hdr) (x : BitVec 26) : (wordBits h x).extractLsb' 18 4 = x.extractLsb' 18 4 :=
  extractLsb'_wordBits h x 18 4 (by decide)

/-- What reads a field of a word that is laid out as header and fields. -/
theorem wordSlices :
    (∀ h x, hdrOf (wordBits h x) = h) ∧ (∀ h x, (wordBits h x).getLsbD 31 = h.c) ∧
    (∀ h x start n, start + n ≤ 26 → (wordBits h x).extractLsb' start n = x.extractLsb' start n) ∧
    (∀ {v w : Nat} (x : BitVec v) (y : BitVec w) (start n : Nat), start + n ≤ w →
      (x ++ y).extractLsb' start n = y.extractLsb' start n) ∧
    (∀ {v w : Nat} (x : BitVec v) (y : BitVec w) (start n : Nat), w ≤ start →
      (x ++ y).extractLsb' start n = x.extractLsb' (start - w) n) ∧
    (∀ {w : Nat} (x : BitVec w), x.extractLsb' 0 w = x) :=
  ⟨hdrOf_wordBits, chain_wordBits, extractLsb'_wordBits, fun _ _ _ _ => BitVec.extractLsb'_append_eq_of_add_le,
    fun _ _ _ _ => BitVec.extractLsb'_append_eq_of_le, fun _ => BitVec.extractLsb'_eq_self⟩

theorem bitVec2_cases (f : BitVec 2) : f = 0#2 ∨ f = 1#2 ∨ f = 2#2 ∨ f = 3#2 := by
  decide +revert

/-- Reading the word of an instruction gives the instruction back. -/
def Reads (i : Instr) : Prop := (encode i).bind readWord = some i

/-! ### Each row of the opcode map: the words of its instructions -/

/-- Opcodes 0x00 to 0x0F (R51). -/
theorem reads_row0 :
    (∀ c, Reads (.nop c)) ∧ (∀ x, Reads (.imx x)) ∧ (∀ h o, Reads (.bra h o)) ∧ (∀ h a, Reads (.brx h a)) ∧
    (∀ h o, Reads (.call h o)) ∧ (∀ h, Reads (.ret h)) ∧ (∀ c o, Reads (.rcv c o)) ∧ (∀ c, Reads (.join c)) ∧
    (∀ h, Reads (.exit h)) ∧ (∀ h a i, Reads (.trap h a i)) ∧ (∀ h i, Reads (.brk h i)) ∧ (∀ h, Reads (.yield h)) ∧
    (∀ h d i, Reads (.loop h d i)) ∧ (∀ h a i, Reads (.sleep h a i)) ∧ (∀ h, Reads (.hintPromote h)) ∧
    (∀ h, Reads (.hintDemote h)) ∧ (∀ h, Reads (.nprOff h)) ∧ (∀ h, Reads (.nprOn h)) := by
  and_intros <;> intros
  all_goals
    simp (disch := decide) only [Reads, encode, Option.bind_some, readWord, wordSlices, Nat.reduceSub,
      BitVec.reduceExtractLsb', BitVec.reduceToNat]
    unfold readRow0
    rw [low_wordBits]
    simp (disch := decide) only [wordSlices, Nat.reduceSub, BitVec.reduceExtractLsb', BitVec.reduceToNat]

/-- Opcodes 0x10 to 0x1F (R51). -/
theorem reads_row1 :
    (∀ h d a i, Reads (.sreg h d a i)) ∧ (∀ h d a i, Reads (.sregw h d a i)) ∧ (∀ h f i, Reads (.setnfCode h f i)) ∧
    (∀ h f a, Reads (.setnfReg h f a)) ∧ (∀ h e f g, Reads (.post h e f g)) ∧ (∀ h a b, Reads (.icinv h a b)) ∧
    (∀ h, Reads (.ifence h)) ∧ (∀ h, Reads (.stop h)) ∧ (∀ h a i, Reads (.svc h a i)) ∧
    (∀ h d a b, Reads (.sadd h d a b)) ∧ (∀ h d a b, Reads (.ssub h d a b)) ∧ (∀ h d a b, Reads (.smul h d a b)) ∧
    (∀ h d a b, Reads (.smulh h d a b)) ∧ (∀ h d a b, Reads (.sdivu h d a b)) ∧ (∀ h d a b, Reads (.sremu h d a b)) ∧
    (∀ h d a b, Reads (.sand h d a b)) ∧ (∀ h d a b, Reads (.sor h d a b)) := by
  and_intros <;> intros
  all_goals
    simp (disch := decide) only [Reads, encode, Option.bind_some, readWord, wordSlices, Nat.reduceSub,
      BitVec.reduceExtractLsb', BitVec.reduceToNat]
    unfold readRow1
    rw [low_wordBits]
    simp (disch := decide) only [wordSlices, Nat.reduceSub, BitVec.reduceExtractLsb', BitVec.reduceToNat]

/-- Opcodes 0x20 to 0x2F (R51). -/
theorem reads_row2 :
    (∀ h d a b, Reads (.sxor h d a b)) ∧ (∀ h d a b, Reads (.sshl h d a b)) ∧ (∀ h d a b, Reads (.sshr h d a b)) ∧
    (∀ h d a b, Reads (.ssar h d a b)) ∧ (∀ h d a i, Reads (.saddi h d a i)) ∧ (∀ h d i, Reads (.smovi h d i)) ∧
    (∀ h d a, Reads (.smov h d a)) ∧ (∀ h d q a b, Reads (.scmp h d q a b)) ∧
    (∀ h d q a i, Reads (.scmpi h d q a i)) ∧ (∀ h d a b, Reads (.ssel h d a b)) ∧
    (∀ h d a b, Reads (.smin h d a b)) ∧ (∀ h d a b, Reads (.smax h d a b)) ∧ (∀ h d a, Reads (.sclz h d a)) ∧
    (∀ h d a, Reads (.spopc h d a)) ∧ (∀ h d a b, Reads (.slea h d a b)) ∧ (∀ h d a b, Reads (.sget h d a b)) := by
  and_intros <;> intros
  all_goals
    simp (disch := decide) only [Reads, encode, Option.bind_some, readWord, wordSlices, Nat.reduceSub,
      BitVec.reduceExtractLsb', BitVec.reduceToNat]
    unfold readRow2
    rw [low_wordBits]
    simp (disch := decide) only [wordSlices, Nat.reduceSub, BitVec.reduceExtractLsb', BitVec.reduceToNat]

/-- Opcodes 0x30 to 0x3F (R51). -/
theorem reads_row3 :
    (∀ h d a, Reads (.sbc h d a)) ∧ (∀ h d a i, Reads (.smask h d a i)) ∧ (∀ h d a, Reads (.spredToS h d a)) ∧
    (∀ h d a, Reads (.spredToP h d a)) ∧ (∀ h d x k, Reads (.sld h d x k)) ∧ (∀ h d x k, Reads (.sst h d x k)) ∧
    (∀ h d a i, Reads (.bufld h d a i)) := by
  and_intros <;> intros
  all_goals
    simp (disch := decide) only [Reads, encode, Option.bind_some, readWord, wordSlices, Nat.reduceSub,
      BitVec.reduceExtractLsb', BitVec.reduceToNat]
    unfold readRow3
    rw [low_wordBits]
    simp (disch := decide) only [wordSlices, Nat.reduceSub, BitVec.reduceExtractLsb', BitVec.reduceToNat]

/-- The typed words of opcodes 0x30 to 0x3F, whose two low opcode bits name the format register (R51, R174). -/
theorem reads_typed3 (f : BitVec 2) :
    (∀ h d a b, Reads (.vadd h f d a b)) ∧ (∀ h d a b, Reads (.vsub h f d a b)) := by
  rcases bitVec2_cases f with rfl | rfl | rfl | rfl
  all_goals and_intros <;> intros
  all_goals
    simp (disch := decide) only [Reads, encode, Option.bind_some, readWord, wordSlices, Nat.reduceSub,
      BitVec.reduceExtractLsb', BitVec.reduceAppend, BitVec.reduceToNat]
    unfold readRow3
    rw [low_wordBits]
    simp (disch := decide) only [wordSlices, Nat.reduceSub, BitVec.reduceExtractLsb', BitVec.reduceToNat]

/-- The typed words of opcodes 0x40 to 0x4F, whose two low opcode bits name the format register (R51, R174). -/
theorem reads_typed4 (f : BitVec 2) :
    (∀ h d a b, Reads (.vmul h f d a b)) ∧ (∀ h d a b, Reads (.vfma h f d a b)) ∧
    (∀ h d a b, Reads (.vmin h f d a b)) ∧ (∀ h d a b, Reads (.vmax h f d a b)) := by
  rcases bitVec2_cases f with rfl | rfl | rfl | rfl
  all_goals and_intros <;> intros
  all_goals
    simp (disch := decide) only [Reads, encode, Option.bind_some, readWord, wordSlices, Nat.reduceSub,
      BitVec.reduceExtractLsb', BitVec.reduceAppend, BitVec.reduceToNat]
    unfold readRow4
    rw [low_wordBits]
    simp (disch := decide) only [wordSlices, Nat.reduceSub, BitVec.reduceExtractLsb', BitVec.reduceToNat]

/-- The typed words of opcodes 0x50 to 0x5F, whose two low opcode bits name the format register (R51, R174). -/
theorem reads_typed5 (f : BitVec 2) :
    (∀ h d q a b, Reads (.vcmp h f d q a b)) ∧ (∀ h d a, Reads (.vabs h f d a)) ∧ (∀ h d a, Reads (.vneg h f d a)) ∧
    (∀ h d a b, Reads (.vmulh h f d a b)) := by
  rcases bitVec2_cases f with rfl | rfl | rfl | rfl
  all_goals and_intros <;> intros
  all_goals
    simp (disch := decide) only [Reads, encode, Option.bind_some, readWord, wordSlices, Nat.reduceSub,
      BitVec.reduceExtractLsb', BitVec.reduceAppend, BitVec.reduceToNat]
    unfold readRow5
    rw [low_wordBits]
    simp (disch := decide) only [wordSlices, Nat.reduceSub, BitVec.reduceExtractLsb', BitVec.reduceToNat]

/-- The typed words of opcodes 0x60 to 0x6F, whose two low opcode bits name the format register (R51, R174). -/
theorem reads_typed6 (f : BitVec 2) :
    (∀ h d a b, Reads (.vamin h f d a b)) ∧ (∀ h d a b, Reads (.vamax h f d a b)) ∧
    (∀ h d a b, Reads (.vdp4 h f d a b)) ∧ (∀ h d a b, Reads (.vshl h f d a b)) := by
  rcases bitVec2_cases f with rfl | rfl | rfl | rfl
  all_goals and_intros <;> intros
  all_goals
    simp (disch := decide) only [Reads, encode, Option.bind_some, readWord, wordSlices, Nat.reduceSub,
      BitVec.reduceExtractLsb', BitVec.reduceAppend, BitVec.reduceToNat]
    unfold readRow6
    rw [low_wordBits]
    simp (disch := decide) only [wordSlices, Nat.reduceSub, BitVec.reduceExtractLsb', BitVec.reduceToNat]

/-- The typed words of opcodes 0x70 to 0x7F, whose two low opcode bits name the format register (R51, R174). -/
theorem reads_typed7 (f : BitVec 2) :
    (∀ h d a b, Reads (.vshr h f d a b)) ∧ (∀ h d a, Reads (.vrint h f d a)) ∧
    (∀ h d a b, Reads (.vclamp h f d a b)) := by
  rcases bitVec2_cases f with rfl | rfl | rfl | rfl
  all_goals and_intros <;> intros
  all_goals
    simp (disch := decide) only [Reads, encode, Option.bind_some, readWord, wordSlices, Nat.reduceSub,
      BitVec.reduceExtractLsb', BitVec.reduceAppend, BitVec.reduceToNat]
    unfold readRow7
    rw [low_wordBits]
    simp (disch := decide) only [wordSlices, Nat.reduceSub, BitVec.reduceExtractLsb', BitVec.reduceToNat]

/-- Opcodes 0x80 to 0x8F (R51). -/
theorem reads_row8 :
    (∀ h d a b, Reads (.vand h d a b)) ∧ (∀ h d a b, Reads (.vor h d a b)) ∧ (∀ h d a b, Reads (.vxor h d a b)) ∧
    (∀ h d a b, Reads (.vandn h d a b)) ∧ (∀ h d a, Reads (.vmov h d a)) ∧ (∀ h d i, Reads (.vmovi h d i)) ∧
    (∀ h d a b, Reads (.vsel h d a b)) ∧ (∀ h d a s t q, Reads (.vcvt h d a s t q)) ∧
    (∀ h d a b, Reads (.vpack h d a b)) ∧ (∀ h d a, Reads (.unpackNibbles h d a)) ∧
    (∀ h d a, Reads (.unpackHighBits h d a)) ∧ (∀ h d a, Reads (.unpackWiden h d a)) ∧
    (∀ h d a w, Reads (.vclz h d a w)) ∧ (∀ h d a w, Reads (.vpopc h d a w)) ∧ (∀ h d a w, Reads (.vbrev h d a w)) ∧
    (∀ h d a b, Reads (.vperm h d a b)) ∧ (∀ h d w, Reads (.vlane h d w)) := by
  and_intros <;> intros
  all_goals
    simp (disch := decide) only [Reads, encode, Option.bind_some, readWord, wordSlices, Nat.reduceSub,
      BitVec.reduceExtractLsb', BitVec.reduceToNat]
    unfold readRow8
    rw [low_wordBits]
    simp (disch := decide) only [wordSlices, Nat.reduceSub, BitVec.reduceExtractLsb', BitVec.reduceToNat]

/-- Opcodes 0xA0 to 0xAF (R51). -/
theorem reads_rowA :
    (∀ h d a f, Reads (.rcp h d a f)) ∧ (∀ h d a f, Reads (.rsqrt h d a f)) ∧ (∀ h d a f, Reads (.sqrt h d a f)) ∧
    (∀ h d a f, Reads (.exp2 h d a f)) ∧ (∀ h d a f, Reads (.log2 h d a f)) ∧ (∀ h d a f, Reads (.sin h d a f)) ∧
    (∀ h d a f, Reads (.cos h d a f)) ∧ (∀ h d a f, Reads (.tanh h d a f)) ∧ (∀ h d a f, Reads (.erf h d a f)) ∧
    (∀ h d a f, Reads (.exd h d a f)) := by
  and_intros <;> intros
  all_goals
    simp (disch := decide) only [Reads, encode, Option.bind_some, readWord, wordSlices, Nat.reduceSub,
      BitVec.reduceExtractLsb', BitVec.reduceToNat]
    unfold readRowA
    rw [low_wordBits]
    simp (disch := decide) only [wordSlices, Nat.reduceSub, BitVec.reduceExtractLsb', BitVec.reduceToNat]

/-- Opcodes 0xB0 to 0xBF (R51). -/
theorem reads_rowB :
    (∀ h d a b, Reads (.shfl h d a b)) ∧ (∀ h d a i, Reads (.shfli h d a i)) ∧ (∀ h d a b, Reads (.bcast h d a b)) ∧
    (∀ h d a, Reads (.voteOr h d a)) ∧ (∀ h d a, Reads (.voteAnd h d a)) ∧ (∀ h d a, Reads (.voteMask h d a)) ∧
    (∀ h d a, Reads (.voteSame h d a)) ∧ (∀ h d a, Reads (.voteCnt h d a)) ∧
    (∀ h d a m o f, Reads (.red h d a m o f)) ∧ (∀ h d a m o f, Reads (.scan h d a m o f)) ∧
    (∀ h d a o f, Reads (.redseg h d a o f)) ∧ (∀ h d a b, Reads (.xswap h d a b)) ∧
    (∀ h d a w, Reads (.vmatch h d a w)) ∧ (∀ h d a, Reads (.vcompact h d a)) := by
  and_intros <;> intros
  all_goals
    simp (disch := decide) only [Reads, encode, Option.bind_some, readWord, wordSlices, Nat.reduceSub,
      BitVec.reduceExtractLsb', BitVec.reduceToNat]
    unfold readRowB
    rw [low_wordBits]
    simp (disch := decide) only [wordSlices, Nat.reduceSub, BitVec.reduceExtractLsb', BitVec.reduceToNat]

/-- The memory words of opcodes 0xC0 to 0xCF, whose two low opcode bits are the width (R51, R258). -/
theorem reads_typedC (w : BitVec 2) :
    (∀ h d x z k, Reads (.ldl h w d x z k)) ∧ (∀ h d x z k, Reads (.ldc h w d x z k)) ∧
    (∀ h d x k, Reads (.ldk h w d x k)) ∧ (∀ h d x k, Reads (.ldg h w d x k)) := by
  rcases bitVec2_cases w with rfl | rfl | rfl | rfl
  all_goals and_intros <;> intros
  all_goals
    simp (disch := decide) only [Reads, encode, Option.bind_some, readWord, wordSlices, Nat.reduceSub,
      BitVec.reduceExtractLsb', BitVec.reduceAppend, BitVec.reduceToNat]
    unfold readRowC
    rw [low_wordBits]
    simp (disch := decide) only [wordSlices, Nat.reduceSub, BitVec.reduceExtractLsb', BitVec.reduceToNat]

/-- The memory words of opcodes 0xD0 to 0xDF, whose two low opcode bits are the width (R51, R258). -/
theorem reads_typedD (w : BitVec 2) :
    (∀ h d x z k, Reads (.stl h w d x z k)) ∧ (∀ h d x z k, Reads (.stc h w d x z k)) ∧
    (∀ h d x k, Reads (.stk h w d x k)) ∧ (∀ h d x k, Reads (.stg h w d x k)) := by
  rcases bitVec2_cases w with rfl | rfl | rfl | rfl
  all_goals and_intros <;> intros
  all_goals
    simp (disch := decide) only [Reads, encode, Option.bind_some, readWord, wordSlices, Nat.reduceSub,
      BitVec.reduceExtractLsb', BitVec.reduceAppend, BitVec.reduceToNat]
    unfold readRowD
    rw [low_wordBits]
    simp (disch := decide) only [wordSlices, Nat.reduceSub, BitVec.reduceExtractLsb', BitVec.reduceToNat]

/-- Opcodes 0xE0 to 0xEF (R51). -/
theorem reads_rowE :
    (∀ h d x k, Reads (.ldbD h d x k)) ∧ (∀ h d x k, Reads (.ldbQ h d x k)) ∧ (∀ h d x k, Reads (.atomg h d x k)) ∧
    (∀ h d x z k, Reads (.atoml h d x z k)) ∧ (∀ h d x z k, Reads (.atomc h d x z k)) ∧
    (∀ h d x k, Reads (.redg h d x k)) ∧ (∀ h d x z k, Reads (.redc h d x z k)) ∧ (∀ h s, Reads (.fenceAcq h s)) ∧
    (∀ h s, Reads (.fenceRel h s)) ∧ (∀ h s, Reads (.fenceAr h s)) ∧ (∀ h s, Reads (.fenceSc h s)) ∧
    (∀ h d x z k, Reads (.boset h d x z k)) ∧ (∀ h d x z k, Reads (.bomark h d x z k)) ∧
    (∀ h d x z k, Reads (.boadd h d x z k)) ∧ (∀ h d x z k, Reads (.bowait h d x z k)) ∧
    (∀ h d x z k, Reads (.bopeek h d x z k)) ∧ (∀ h a i, Reads (.bar h a i)) ∧
    (∀ h d x z k, Reads (.ldrag h d x z k)) ∧ (∀ h t g x k, Reads (.prf h t g x k)) := by
  and_intros <;> intros
  all_goals
    simp (disch := decide) only [Reads, encode, Option.bind_some, readWord, wordSlices, Nat.reduceSub,
      BitVec.reduceExtractLsb', BitVec.reduceToNat]
    unfold readRowE
    rw [low_wordBits]
    simp (disch := decide) only [wordSlices, Nat.reduceSub, BitVec.reduceExtractLsb', BitVec.reduceToNat]

/-- Opcodes 0xF0 to 0xFF (R51). -/
theorem reads_rowF :
    (∀ h e f g, Reads (.cp h e f g)) ∧ (∀ h e f g, Reads (.cpm h e f g)) ∧ (∀ h e f, Reads (.wld h e f)) ∧
    (∀ h e f, Reads (.wldt h e f)) ∧ (∀ h e f, Reads (.mma h e f)) ∧ (∀ h f, Reads (.mmarx h f)) ∧
    (∀ h e f g, Reads (.aread h e f g)) ∧ (∀ h f, Reads (.azero h f)) ∧ (∀ h e f g, Reads (.ttr h e f g)) ∧
    (∀ h f, Reads (.tscl h f)) ∧ (∀ h e f g, Reads (.tcvt h e f g)) ∧ (∀ h, Reads (.batonTake h)) ∧
    (∀ h, Reads (.batonGive h)) ∧ (∀ h e, Reads (.batonTry h e)) ∧ (∀ h e, Reads (.batonOvf h e)) ∧
    (∀ h, Reads (.rwctlOff h)) ∧ (∀ h, Reads (.rwctlOn h)) ∧ (∀ h, Reads (.rwctlFlush h)) ∧
    (∀ h a, Reads (.rwctlMask h a)) ∧ (∀ h d a, Reads (.rwctlCnt h d a)) ∧ (∀ h, Reads (.rwctlClr h)) ∧
    (∀ h e f g, Reads (.tfill h e f g)) := by
  and_intros <;> intros
  all_goals
    simp (disch := decide) only [Reads, encode, Option.bind_some, readWord, wordSlices, Nat.reduceSub,
      BitVec.reduceExtractLsb', BitVec.reduceToNat]
    unfold readRowF
    rw [low_wordBits]
    simp (disch := decide) only [wordSlices, Nat.reduceSub, BitVec.reduceExtractLsb', BitVec.reduceToNat]

/-- Every instruction that has a word is read back from it (R45, R51). -/
theorem readWord_of_encode {i : Instr} {w : W32} (hw : encode i = some w) : readWord w = some i := by
  suffices h : Reads i by rwa [Reads, hw] at h
  cases i <;> simp only [encode, reduceCtorEq] at hw <;>
    simp only [reads_row0, reads_row1, reads_row2, reads_row3, reads_typed3, reads_typed4, reads_typed5, reads_typed6,
      reads_typed7, reads_row8, reads_rowA, reads_rowB, reads_typedC, reads_typedD, reads_rowE, reads_rowF]

theorem decodeWord_of_encode {i : Instr} {w : W32} (hw : encode i = some w) (hwf : i.wf = true) :
    decodeWord w = .ok i := by
  unfold decodeWord
  rw [readWord_of_encode hw]
  exact (if_pos hw).trans (if_pos hwf)

/-! ### The bytes of a word (R4) -/

theorem bytes_append_eq (w : W32) :
    BitVec.ofNat 8 (w.toNat / 256 / 256 / 256) ++ BitVec.ofNat 8 (w.toNat / 256 / 256) ++ BitVec.ofNat 8 (w.toNat / 256) ++
      BitVec.ofNat 8 w.toNat = w := by
  have hlt := w.isLt
  apply BitVec.eq_of_toNat_eq
  simp only [BitVec.toNat_append, BitVec.toNat_ofNat]
  rw [← Nat.shiftLeft_add_eq_or_of_lt (by omega), ← Nat.shiftLeft_add_eq_or_of_lt (by omega),
    ← Nat.shiftLeft_add_eq_or_of_lt (by omega), Nat.shiftLeft_eq, Nat.shiftLeft_eq, Nat.shiftLeft_eq]
  omega

/-- The four bytes of a word are decoded as that word, whatever follows them (R4, R38). -/
theorem decode_leBytes (w : W32) (rest : List Byte) :
    decode (leBytes w.toNat 4 ++ rest) = (decodeWord w).map fun i => (i, rest) := by
  simp only [leBytes, List.cons_append, List.nil_append, decode, bytes_append_eq]

/-- Settles O56: the word of an instruction is read back, and its four bytes make up that word. -/
theorem encodeDecode : Obligations.EncodeDecode := by
  intro i w rest hw hwf
  rw [decode_leBytes, decodeWord_of_encode hw hwf]
  rfl

end Sys2Proof.Laws

/-! ## Words that no instruction has (R45, R51, R52) -/

namespace Sys2Proof.Laws

open Sys2Proof Sys2Proof.Machine Sys2Proof.Claims

theorem encode_wf_of_decodeWord {w : W32} {i : Instr} (h : decodeWord w = .ok i) : encode i = some w ∧ i.wf = true := by
  unfold decodeWord at h
  split at h
  · cases h
  · split at h
    · next he =>
      split at h
      · next hwf => cases h; exact ⟨he, hwf⟩
      · cases h
    · cases h

/-- The major opcode of a word is the row of the map and the place in that row. -/
theorem opOf_eq (w : W32) : opOf w = 16 * (w.extractLsb' 22 4).toNat + (w.extractLsb' 18 4).toNat := by
  unfold opOf
  simp only [BitVec.extractLsb'_toNat, Nat.shiftRight_eq_div_pow]
  omega

section
variable {w : W32} {n : Nat} (h : (w.extractLsb' 18 4).toNat = n)
include h

theorem readRow3_undefined (hn : n = 6 ∨ n = 7) : readRow3 w = none := by
  unfold readRow3
  rw [h]
  rcases hn with rfl | rfl <;> rfl

theorem readRow7_undefined (hn : n = 12 ∨ n = 13 ∨ n = 14 ∨ n = 15) : readRow7 w = none := by
  unfold readRow7
  rw [h]
  rcases hn with rfl | rfl | rfl | rfl <;> rfl

theorem readRow8_undefined (hn : n = 15) : readRow8 w = none := by
  unfold readRow8
  rw [h, hn]
  rfl

theorem readRowA_undefined (hn : 10 ≤ n) : readRowA w = none := by
  unfold readRowA
  rw [h]
  split
  case h_11 => rfl
  all_goals omega

theorem readRowB_undefined (hn : 10 ≤ n) : readRowB w = none := by
  unfold readRowB
  rw [h]
  split
  case h_11 => rfl
  all_goals omega

theorem readRowF_undefined (hn : n = 14 ∨ n = 15) : readRowF w = none := by
  unfold readRowF
  rw [h]
  rcases hn with rfl | rfl <;> rfl

end

/-- A word of an opcode that the map does not define is read as no instruction: the other rows of the map are full. -/
theorem readWord_of_undefined {w : W32} (h : ¬ DefinedOp (opOf w)) : readWord w = none := by
  have hlo : (w.extractLsb' 18 4).toNat < 16 := (w.extractLsb' 18 4).isLt
  rw [opOf_eq] at h
  unfold DefinedOp at h
  unfold readWord
  split
  case h_4 => exact readRow3_undefined rfl (by omega)
  case h_8 => exact readRow7_undefined rfl (by omega)
  case h_9 => exact readRow8_undefined rfl (by omega)
  case h_10 => exact readRowA_undefined rfl (by omega)
  case h_11 => exact readRowB_undefined rfl (by omega)
  case h_15 => exact readRowF_undefined rfl (by omega)
  case h_16 => rfl
  all_goals omega

/-- Settles O57: a reserved opcode is read as no instruction, and decoding compares the word with its instruction's. -/
theorem refusedWords : Obligations.RefusedWords := by
  refine ⟨fun w h => ?_, fun w i => encode_wf_of_decodeWord⟩
  unfold decodeWord
  rw [readWord_of_undefined h]

theorem encode_printedWords : ∀ e ∈ printedWords, encode e.2 = some e.1 ∧ e.2.wf = true := by decide

/-- Settles O55: each printed instruction is well formed and has the printed word, which is then decoded as it. -/
theorem wordsDecode : Obligations.WordsDecode := by
  intro e he
  obtain ⟨hw, hwf⟩ := encode_printedWords e he
  have h := encodeDecode e.2 e.1 [] hw hwf
  rw [List.append_nil] at h
  exact ⟨h, hw⟩

end Sys2Proof.Laws

/-! ## Branches, call, ret and loop (R48, R96, R100) -/

namespace Sys2Proof.Laws

open Sys2Proof Sys2Proof.Machine Sys2Proof.Claims

/-- The lanes that a branch takes, by the property that the statements name them with (R39, R96). -/
theorem takenMask_eq {s : State} {h : Hdr} {tk : W32} (htk : IsTaken s h tk) : s.takenMask h = tk := by
  apply BitVec.eq_of_getLsbD_eq
  intro l hl
  rw [State.takenMask, getLsbD_laneMask, htk l hl, decide_eq_true hl, Bool.true_and]

theorem badTarget_iff (t : Int) : badTarget t = true ↔ t < 0 ∨ 2 ^ 31 ≤ t := by
  simp [badTarget]

theorem path_setPath_not (c : Ctl) (x : Bool) (p : Path) : (c.setPath x p).path (!x) = c.path (!x) := by
  cases x <;> rfl

/-! ### A per-lane branch (R96) -/

section
variable {s : State} {h : Hdr} {tk : W32} (htk : s.takenMask h = tk) (t : Int)
include htk

theorem splitTo_none (h0 : tk = 0#32) : s.splitTo h t = .next (s.pending (s.goTo (s.pc + 1)) .control) := by
  unfold State.splitTo
  rw [htk]
  exact if_pos h0

theorem splitTo_bad (h0 : tk ≠ 0#32) (hbad : t < 0 ∨ 2 ^ 31 ≤ t) : s.splitTo h t = .next (s.trapHere .bounds) := by
  unfold State.splitTo
  rw [htk]
  exact (if_neg h0).trans (if_pos ((badTarget_iff t).mpr hbad))

variable (h0 : tk ≠ 0#32) (hgood : ¬ (t < 0 ∨ 2 ^ 31 ≤ t))
include h0 hgood

theorem splitTo_all (hrest : s.mask &&& ~~~tk = 0#32) :
    s.splitTo h t = .next (s.pending (s.goTo t.toNat) .control) := by
  unfold State.splitTo
  rw [htk]
  exact ((if_neg h0).trans (if_neg (mt (badTarget_iff t).mp hgood))).trans (if_pos hrest)

/-- A branch that a part of the lanes takes: the others go on, and the taken ones take the other slot or the stack. -/
theorem splitTo_part (hrest : s.mask &&& ~~~tk ≠ 0#32) :
    let c := s.cw.ctl.setPath s.cur.slotB { live := true, pc := s.pc + 1, mask := s.mask &&& ~~~tk }
    s.splitTo h t = if (s.cw.ctl.path (!s.cur.slotB)).live = false then
        .next (s.pending (c.setPath (!s.cur.slotB) { live := true, pc := t.toNat, mask := tk }) .control)
      else match s.push { frame := false, pc := t.toNat, mask := tk, rpc := s.cw.ctl.rpc, arr := 0#32 } with
        | .error f => .next (s.memTrap f)
        | .ok u => .next (u.pending c .control) := by
  intro c
  unfold State.splitTo
  rw [htk]
  refine ((if_neg h0).trans (if_neg (mt (badTarget_iff t).mp hgood))).trans ((if_neg hrest).trans ?_)
  simp only [path_setPath_not, Bool.not_eq_true']
  rfl

end

theorem exec_branchRows (s : State) (h : Hdr) (o : BitVec 18) (a : BitVec 6) :
    ∀ e ∈ branchRows s h o a, exec e.1 s = s.splitTo h e.2 := by
  simp only [branchRows, List.forall_mem_cons]
  exact ⟨rfl, rfl, List.forall_mem_nil _⟩

/-! ### Moves of the whole slot (R100) -/

theorem moveTo_good {s : State} {t : Int} (f : State → State) (h0 : 0 ≤ t) (h1 : t < 2 ^ 31) :
    s.moveTo t f = .next ((f s).pending (s.goTo t.toNat) .control) :=
  if_neg (mt (badTarget_iff t).mp (by omega))

theorem moveTo_bad {s : State} {t : Int} (f : State → State) (h : t < 0 ∨ 2 ^ 31 ≤ t) :
    s.moveTo t f = .next (s.trapHere .bounds) :=
  if_pos ((badTarget_iff t).mpr h)

section
variable {s : State} {h : Hdr} (ht : s.taken h = true)
include ht

theorem exec_call_taken (o : BitVec 18) :
    exec (.call h o) s = s.moveTo (s.pc + o.toInt) fun s => s.putS 63 (BitVec.ofNat 64 (s.pc + 1)) := if_pos ht

theorem exec_ret_taken : exec (.ret h) s = s.moveTo (s.rdS 63).toNat id := if_pos ht

theorem exec_loop_ends (d i : BitVec 6) (h0 : s.rdS d.toNat - 1#64 = 0#64) :
    exec (.loop h d i) s = .next ((s.putS d.toNat 0#64).pending (s.goTo (s.pc + 1)) .control) := by
  refine (if_pos ht).trans ((if_pos h0).trans ?_)
  rw [h0]

theorem exec_loop_goes_on (d i : BitVec 6) (h0 : s.rdS d.toNat - 1#64 ≠ 0#64) :
    exec (.loop h d i) s = s.moveTo (s.pc + immediate s.mic.pfx i) fun s' => s'.putS d.toNat (s.rdS d.toNat - 1#64) := by
  rw [← imm_eq_immediate]
  exact (if_pos ht).trans (if_neg h0)

end

/-- A word that moves the whole slot goes to the next packet where its guard holds in no lane (R40). -/
theorem exec_move_untaken {s : State} {h : Hdr} (ht : s.taken h = false) (o : BitVec 18) (d i : BitVec 6) :
    ∀ j ∈ [Instr.call h o, .ret h, .loop h d i], exec j s = .next (s.pending (s.goTo (s.pc + 1)) .control) := by
  have hn : ¬ s.taken h = true := by simp [ht]
  simp only [List.forall_mem_cons]
  exact ⟨if_neg hn, if_neg hn, if_neg hn, List.forall_mem_nil _⟩

/-- Settles O11: the mask of taken lanes, the target and the other slot decide a branch, and the target a move. -/
theorem branchResults : Obligations.BranchResults := by
  refine ⟨fun s h o a tk htaken => ?_, fun s h o d i => ?_⟩
  · intro x rest stay e he
    have htk : s.takenMask h = tk := takenMask_eq htaken
    rw [exec_branchRows s h o a e he]
    refine ⟨splitTo_none htk e.2, splitTo_bad htk e.2, fun h0 hlo hhi => ?_⟩
    have hgood : ¬ (e.2 < 0 ∨ 2 ^ 31 ≤ e.2) := by omega
    refine ⟨splitTo_all htk e.2 h0 hgood, fun hrest hempty => ?_, fun hrest hlive => ⟨fun hfull => ?_, fun t hpush => ?_⟩⟩
    · exact (splitTo_part htk e.2 h0 hgood hrest).trans (if_pos hempty)
    · rw [splitTo_part htk e.2 h0 hgood hrest, if_neg (by simp [x, hlive]), State.push, if_pos hfull]
      rfl
    · rw [splitTo_part htk e.2 h0 hgood hrest, if_neg (by simp [x, hlive]), hpush]
  · intro at_ count
    refine ⟨fun ht => exec_move_untaken ht o d i, fun ht => ?_⟩
    rw [exec_call_taken ht, exec_ret_taken ht]
    refine ⟨moveTo_good _, moveTo_bad _, fun hhi => moveTo_good _ (by omega) (by omega), fun hbad => moveTo_bad _ (by omega),
      exec_loop_ends ht d i, fun h0 => ?_, fun h0 => ?_⟩
    · rw [exec_loop_goes_on ht d i h0]
      exact moveTo_good _
    · rw [exec_loop_goes_on ht d i h0]
      exact moveTo_bad _

end Sys2Proof.Laws

/-! ## nop, imx, waits, hints and the npr span (R49, R51, R102 to R104, R119) -/

namespace Sys2Proof.Laws

open Sys2Proof Sys2Proof.Machine Sys2Proof.Claims

/-! ### Updates that act on the issuing warp alone -/

theorem sameBytes_refl (s : State) : SameBytes s s := ⟨fun _ => rfl, fun _ _ => rfl, fun _ _ => rfl⟩

theorem onlyWarp_refl (s : State) : OnlyWarp s s :=
  ⟨rfl, fun _ _ => rfl, fun _ => rfl, rfl, rfl, sameBytes_refl s⟩

theorem onlyWarp_cur {s t : State} (h : OnlyWarp s t) : t.cur = s.cur := by rw [h.1]

theorem onlyWarp_trans {s t u : State} (h : OnlyWarp s t) (g : OnlyWarp t u) : OnlyWarp s u := by
  have hcur := onlyWarp_cur h
  obtain ⟨hf, hw, hc, hr, hl, hm, hb, hk⟩ := h
  obtain ⟨gf, gw, gc, gr, gl, gm, gb, gk⟩ := g
  refine ⟨gf.trans (by rw [hf]), fun k hne => ?_, fun c => (gc c).trans (by rw [hc c]), gr.trans hr, gl.trans hl,
    fun a => (gm a).trans (hm a), fun b a => (gb b a).trans (hb b a), fun k a => (gk k a).trans (hk k a)⟩
  exact (gw k (by rwa [hcur])).trans (hw k hne)

theorem onlyWarp_setCw (s : State) (w : Warp) (hr : w.regs = s.cw.regs) (hl : w.ctl = s.cw.ctl) :
    OnlyWarp s (s.setCw w) :=
  ⟨rfl, fun _ hk => State.setCw_warp_ne s w hk, fun _ => rfl, by rw [State.setCw_cw, hr], by rw [State.setCw_cw, hl],
    sameBytes_refl s⟩

theorem onlyWarp_later (s : State) (i : Instr) : OnlyWarp s (s.later i) :=
  ⟨rfl, fun _ _ => rfl, fun _ => rfl, rfl, rfl, sameBytes_refl s⟩

/-- What a core keeps of the RE's contexts may change (R120). -/
theorem onlyWarp_setCore (s : State) (c : Nat) (re waiting : List Nat) (n : Nat) :
    OnlyWarp s (s.setCore c { s.core c with reWarps := re, reWaiting := waiting, rises := n }) := by
  refine ⟨rfl, fun _ _ => rfl, fun d => ?_, rfl, rfl, sameBytes_setCore s _ _⟩
  rw [State.core_setCore]
  split
  · next hd => rw [hd]
  · rfl

theorem onlyWarp_freeContext (s : State) (c k : Nat) : OnlyWarp s (s.freeContext c k) := by
  have h := onlyWarp_setCore s c (without (s.core c).reWarps k) (s.core c).reWaiting (s.core c).rises
  unfold State.freeContext
  simp only
  cases leastBy _ _ with
  | none => exact h
  | some j => exact onlyWarp_trans h (onlyWarp_later _ _)

theorem warp_freeContext (s : State) (c k j : Nat) : (s.freeContext c k).warp j = s.warp j := by
  unfold State.freeContext
  simp only
  cases leastBy _ _ <;> rfl

/-! ### Demotion of the issuing warp (R121) -/

theorem onlyWarp_demote (s : State) : OnlyWarp s (s.demote s.cur.warp) := by
  unfold State.demote
  simp only
  split
  · exact onlyWarp_refl s
  · split
    · exact onlyWarp_trans (onlyWarp_setCw s _ (by rfl) (by rfl)) (onlyWarp_freeContext _ _ _)
    · exact onlyWarp_refl s
  · exact onlyWarp_trans (onlyWarp_setCw s _ (by rfl) (by rfl)) (onlyWarp_later _ _)

theorem requested_demote (s : State) (k : Nat) : ((s.demote k).warp k).requested = (s.warp k).requested := by
  unfold State.demote
  simp only
  split
  · rfl
  · split
    · rw [warp_freeContext, State.warp_setWarp_self]
    · rfl
  · rw [State.later_warp, State.warp_setWarp_self]

/-- A warp on the RE begins to leave it. -/
theorem demote_of_re {s : State} {k : Nat} (h : (s.warp k).engine = .re) :
    ((s.demote k).warp k).engine = .demoting ∧ Instr.demotionComplete k ∈ (s.demote k).agenda := by
  unfold State.demote
  simp only [h]
  exact ⟨by rw [State.later_warp, State.warp_setWarp_self], mem_later_agenda _ _⟩

/-- The state in which a warp waits for no context of its core. -/
def withoutWaiter (s : State) (k : Nat) : State :=
  let c := coreOfWarp k
  if (s.core c).reWaiting.contains k then
    s.setCore c { s.core c with reWaiting := without (s.core c).reWaiting k } else s

theorem onlyWarp_withoutWaiter (s : State) (k : Nat) : OnlyWarp s (withoutWaiter s k) := by
  unfold withoutWaiter
  simp only
  split
  · exact onlyWarp_setCore s _ _ _ _
  · exact onlyWarp_refl s

theorem withoutWaiter_warp (s : State) (k j : Nat) : (withoutWaiter s k).warp j = s.warp j := by
  unfold withoutWaiter
  simp only
  split <;> rfl

theorem untrigger_eq (s : State) (k : Nat) : s.untrigger k =
    if (s.warp k).triggered then s
    else if ((withoutWaiter s k).warp k).engine = .promoting then withoutWaiter s k else (withoutWaiter s k).demote k := rfl

theorem onlyWarp_untrigger (s : State) : OnlyWarp s (s.untrigger s.cur.warp) := by
  have hw := onlyWarp_withoutWaiter s s.cur.warp
  rw [untrigger_eq]
  split
  · exact onlyWarp_refl s
  split
  · exact hw
  · have hd := onlyWarp_demote (withoutWaiter s s.cur.warp)
    rw [onlyWarp_cur hw] at hd
    exact onlyWarp_trans hw hd

theorem requested_untrigger (s : State) (k : Nat) : ((s.untrigger k).warp k).requested = (s.warp k).requested := by
  rw [untrigger_eq]
  split
  · rfl
  split
  · rw [withoutWaiter_warp]
  · rw [requested_demote, withoutWaiter_warp]

/-! ### The words -/

section
variable {s : State} {h : Hdr} (ht : s.taken h = true)
include ht

theorem exec_yield_taken : ∃ t, exec (.yield h) s = .next t ∧ OnlyWarp s t ∧ t.cw.yielding = true :=
  ⟨_, if_pos ht, onlyWarp_setCw s _ (by rfl) (by rfl), by rw [State.setCw_cw]⟩

theorem exec_sleep_taken (a i : BitVec 6) :
    let n := min ((optional s a).toNat + immediateU s.mic.pfx i) (2 ^ 32 - 1)
    ∃ t, exec (.sleep h a i) s = .next t ∧ OnlyWarp s t ∧ t.cw.sleep = (if n = 0 then s.cw.sleep else n) ∧
      (n ≠ 0 → Instr.sleepExpire s.cur.warp ∈ t.agenda) := by
  rw [← immU_eq_immediateU]
  intro n
  by_cases h0 : n = 0
  · exact ⟨s, if_neg fun hc => hc.2 h0, onlyWarp_refl s, (if_pos h0).symm, fun hc => absurd h0 hc⟩
  · refine ⟨_, if_pos ⟨ht, h0⟩, onlyWarp_trans (onlyWarp_setCw s _ (by rfl) (by rfl)) (onlyWarp_later _ _), ?_, fun _ => mem_later_agenda _ _⟩
    rw [if_neg h0, State.later_cw, State.setCw_cw]
    rfl

theorem exec_hintPromote_taken : ∃ t, exec (.hintPromote h) s = .next t ∧ OnlyWarp s t ∧
    (s.promotable s.cur.warp = true → s.cw.requested = false →
      t.cw.requested = true ∧ Instr.reContextGrant s.cur.warp ∈ t.agenda) ∧
    (s.promotable s.cur.warp = false ∨ s.cw.requested = true → t = s) := by
  by_cases hp : s.promotable s.cur.warp = true ∧ s.cw.requested = false
  · obtain ⟨hp, hq⟩ := hp
    refine ⟨_, if_pos ⟨ht, hp, by simp [hq]⟩, ?_, fun _ _ => ⟨?_, mem_later_agenda _ _⟩, fun hc => by simp [hp, hq] at hc⟩
    · exact onlyWarp_trans (onlyWarp_trans (onlyWarp_trans (onlyWarp_setCw s _ (by rfl) (by rfl)) (onlyWarp_setCore _ _ _ _ _))
        (onlyWarp_setCw _ _ (by rfl) (by rfl))) (onlyWarp_later _ _)
    · exact (congrArg Warp.requested (State.warp_setWarp_self _ _ _)).trans
        (congrArg Warp.requested (State.setCw_cw s _))
  · refine ⟨s, if_neg fun hc => hp ⟨hc.2.1, by simpa using hc.2.2⟩, onlyWarp_refl s, fun h1 h2 => absurd ⟨h1, h2⟩ hp,
      fun _ => rfl⟩

theorem exec_hintDemote_taken : ∃ t, exec (.hintDemote h) s = .next t ∧ OnlyWarp s t ∧ t.cw.requested = false ∧
    (s.cw.holds = [] → s.cw.trailing = [] → s.cw.sole = false → s.cw.engine = .re →
      t.cw.engine = .demoting ∧ Instr.demotionComplete s.cur.warp ∈ t.agenda) := by
  let u := s.setCw { s.cw with requested := false }
  have hu : u.warp s.cur.warp = { s.cw with requested := false } := State.setCw_cw s _
  have hun : OnlyWarp u (u.untrigger s.cur.warp) := onlyWarp_untrigger u
  have hcw : (u.untrigger s.cur.warp).cw = (u.untrigger s.cur.warp).warp s.cur.warp := by
    rw [State.cw, onlyWarp_cur hun]
    rfl
  refine ⟨_, if_pos ht, onlyWarp_trans (onlyWarp_setCw s _ (by rfl) (by rfl)) hun, ?_, fun hh htr hs he => ?_⟩
  · rw [hcw, requested_untrigger, hu]
  · have hre : ((withoutWaiter u s.cur.warp).warp s.cur.warp).engine = .re := by rw [withoutWaiter_warp, hu]; exact he
    have hdem : u.untrigger s.cur.warp = (withoutWaiter u s.cur.warp).demote s.cur.warp := by
      rw [untrigger_eq, hu]
      exact (if_neg (by simp [Warp.triggered, hh, htr, hs])).trans (if_neg (by simp [hre]))
    rw [hcw, hdem]
    exact demote_of_re hre

theorem exec_nprOn_taken : ∃ t, exec (.nprOn h) s = .next t ∧ OnlyWarp s t ∧ t.cw.npr = true ∧
    (s.cw.npr = false → t.cw.nprCount = 0) ∧ (s.cw.npr = true → t = s) := by
  cases hn : s.cw.npr with
  | true => exact ⟨s, if_neg (by simp [hn]), onlyWarp_refl s, hn, nofun, fun _ => rfl⟩
  | false =>
    refine ⟨_, if_pos ⟨ht, by simp [hn]⟩, onlyWarp_setCw s _ (by rfl) (by rfl), ?_, fun _ => ?_, nofun⟩ <;> rw [State.setCw_cw]

theorem exec_nprOff_taken : ∃ t, exec (.nprOff h) s = .next t ∧ OnlyWarp s t ∧ t.cw.npr = false :=
  ⟨_, if_pos ht, onlyWarp_setCw s _ (by rfl) (by rfl), by rw [State.setCw_cw]⟩

end

/-- A wait or hint whose guard holds in no lane has no effect (R40). -/
theorem exec_wait_untaken {s : State} {h : Hdr} (ht : s.taken h = false) (a i : BitVec 6) :
    ∀ j ∈ [Instr.yield h, .sleep h a i, .hintPromote h, .hintDemote h, .nprOn h, .nprOff h], exec j s = .next s := by
  have hn : ¬ s.taken h = true := by simp [ht]
  simp only [List.forall_mem_cons]
  exact ⟨if_neg hn, if_neg fun hc => hn hc.1, if_neg fun hc => hn hc.1, if_neg hn, if_neg fun hc => hn hc.1, if_neg hn,
    List.forall_mem_nil _⟩

/-- Settles O15: each word changes the issuing warp, and a hint its place among those that hold or await a context. -/
theorem waitAndHintResults : Obligations.WaitAndHintResults := by
  intro s h a i
  refine ⟨fun _ => rfl, fun _ => rfl, fun ht => exec_wait_untaken ht a i, fun ht => ?_⟩
  exact ⟨exec_yield_taken ht, exec_sleep_taken ht a i, exec_hintPromote_taken ht, exec_hintDemote_taken ht,
    exec_nprOn_taken ht, exec_nprOff_taken ht⟩

end Sys2Proof.Laws

/-! ## cmp, and the descriptors that typed words accept (R175, R181) -/

namespace Sys2Proof.Laws

open Sys2Proof Sys2Proof.Machine Sys2Proof.Claims

theorem orderCond_eq_ordered (q : BitVec 3) (o : Option Ordering) : orderCond q.toNat o = ordered q o := by
  have hlt := q.isLt
  unfold orderCond ordered
  generalize q.toNat = n at hlt
  match n, o with
  | 0, none | 1, none | 2, none | 3, none | 4, none | 5, none | 6, none | 7, none => rfl
  | 0, some o | 1, some o | 2, some o | 3, some o | 4, some o | 5, some o | 6, some o | 7, some o => cases o <;> rfl

theorem elem_eq_field (x : Word) (w k : Nat) : elem x w k = field x w k := by
  rw [elem, field, Nat.shiftRight_eq_div_pow, Nat.mul_comm]

theorem isInt_eq (f : Nf) : f.isInt = decide (f.kind ≤ 1) := by
  rw [Nf.isInt, Bool.eq_iff_iff]
  simp only [Bool.or_eq_true, beq_iff_eq, decide_eq_true_eq]
  omega

/-! ### Elements under a valid descriptor (R145, R146, R159) -/

/-- The containers of integers hold no bit beside the element (R159). -/
theorem cont_of_int {d : Word} (hv : nfValid d = true) (hk : (nfOf d).kind ≤ 1) : (nfOf d).cont = (nfOf d).width := by
  have h6 : (nfOf d).width ≠ 6 := by
    intro h6
    have hkind : (nfOf d).kind = 0 ∨ (nfOf d).kind = 1 := by omega
    rcases hkind with h | h <;> simp [nfValid, h, h6] at hv
  exact if_neg h6

theorem width_of_tapered {d : Word} (hv : nfValid d = true) (hk : (nfOf d).kind = 3) : (nfOf d).width = 8 := by
  unfold nfValid at hv
  simp only [hk, Bool.and_eq_true, beq_iff_eq] at hv
  obtain ⟨-, ⟨⟨⟨⟨hw, -⟩, -⟩, -⟩, -⟩, -⟩ := hv
  exact hw

theorem intVal_elemOf {d : Word} (hv : nfValid d = true) (hk : (nfOf d).kind ≤ 1) (x : Word) (k : Nat) :
    intVal (nfOf d) (elemOf (nfOf d) x k) = intField (nfOf d).kind (nfOf d).width x k := by
  have hmod : field x (nfOf d).width k % 2 ^ (nfOf d).width = field x (nfOf d).width k := Nat.mod_mod _ _
  have hcast : (field x (nfOf d).width k : Int) % 2 ^ (nfOf d).width = field x (nfOf d).width k := by exact_mod_cast hmod
  unfold elemOf intVal intField
  rw [elem_eq_field, cont_of_int hv hk, hmod]
  split
  · next h0 =>
    rw [sextNat, hmod, hcast]
    split <;> split <;> omega
  · next h0 => rw [if_neg fun h => h0 h.1, hmod]

/-- A real element is decoded from its own bits alone. -/
theorem decodeElem_elemOf {d : Word} (hv : nfValid d = true) (hk : 1 < (nfOf d).kind) (hk3 : (nfOf d).kind ≤ 3)
    (x : Word) (k : Nat) :
    decodeElem (nfOf d) (elemOf (nfOf d) x k) = decodeElem (nfOf d) (field x (nfOf d).cont k) := by
  rw [elemOf, elem_eq_field]
  have hkind : (nfOf d).kind = 2 ∨ (nfOf d).kind = 3 := by omega
  rcases hkind with h2 | h3
  · simp only [decodeElem, h2, Nat.mod_mod]
  · have hw : 2 ^ (nfOf d).width = 256 := congrArg (2 ^ ·) (width_of_tapered hv h3)
    simp only [decodeElem, h3, hw, Nat.mod_mod]

theorem elemCond_elemOf {d : Word} (hv : nfValid d = true) (hk3 : (nfOf d).kind ≤ 3) (q : BitVec 3) (x y : Word) :
    elemCond (nfOf d) q.toNat (elemOf (nfOf d) x 0) (elemOf (nfOf d) y 0) =
      ordered q (if (nfOf d).kind ≤ 1 then
          some (compare (intField (nfOf d).kind (nfOf d).width x 0) (intField (nfOf d).kind (nfOf d).width y 0))
        else (decodeElem (nfOf d) (field x (nfOf d).cont 0)).cmp (decodeElem (nfOf d) (field y (nfOf d).cont 0))) := by
  rw [elemCond, isInt_eq, orderCond_eq_ordered, orderCond_eq_ordered]
  by_cases hk : (nfOf d).kind ≤ 1
  · rw [if_pos (decide_eq_true hk), if_pos hk, intVal_elemOf hv hk, intVal_elemOf hv hk]
  · rw [if_neg (by simpa using hk), if_neg hk, decodeElem_elemOf hv (by omega) hk3, decodeElem_elemOf hv (by omega) hk3]

/-! ### The words -/

theorem writesP_vcmp {s : State} {h : Hdr} {f : BitVec 2} (p q : BitVec 3) (a b : BitVec 6)
    (hk3 : (nfOf (s.rdNf f.toNat)).kind ≤ 3) (ht : s.taken h = true) :
    WritesP (.vcmp h f p q a b) s p.toNat (s.active h) fun l =>
      elemCond (nfOf (s.rdNf f.toNat)) q.toNat (elemOf (nfOf (s.rdNf f.toNat)) (s.rdV a.toNat l) 0)
        (elemOf (nfOf (s.rdNf f.toNat)) (s.rdV b.toNat l) 0) :=
  writesP_of_putP ((if_neg (by simp [ht])).trans (if_neg (by simp [acceptsArith, hk3])))

/-- A word that asks first for an active lane and then for its descriptor, and what it does outside of the two. -/
theorem untaken_and_refused {i : Instr} {s : State} {h : Hdr} {x : Out} {b accepts : Bool} (hb : accepts = b)
    (hx : exec i s = if !s.taken h then .next s else if !b then .next (s.trapHere .format) else x) :
    (s.taken h = false → exec i s = .next s) ∧
      (s.taken h = true → accepts = false → exec i s = .next (s.trapHere .format)) := by
  subst hb
  exact ⟨fun ht => hx.trans (if_pos (by simp [ht])),
    fun ht ha => hx.trans ((if_neg (by simp [ht])).trans (if_pos (by simp [ha])))⟩

theorem acceptRows_untaken_and_refused (s : State) (h : Hdr) (f : BitVec 2) (d a b : BitVec 6) (p q : BitVec 3) :
    ∀ e ∈ acceptRows h f d a b p q,
      (s.taken h = false → exec e.1 s = .next s) ∧
      (s.taken h = true → e.2 (nfOf (s.rdNf f.toNat)) = false → exec e.1 s = .next (s.trapHere .format)) := by
  have hint := (isInt_eq (nfOf (s.rdNf f.toNat))).symm
  simp only [acceptRows, List.forall_mem_cons]
  refine ⟨?_, ?_, ?_, ?_, ?_, ?_, ?_, ?_, ?_, ?_, ?_, ?_, ?_, untaken_and_refused hint rfl, untaken_and_refused hint rfl,
    untaken_and_refused hint rfl, ?_, List.forall_mem_nil _⟩
  all_goals exact untaken_and_refused rfl rfl

/-- Settles O5: cmp writes the order of the two elements, and every typed word asks for a lane before its descriptor. -/
theorem compareResults : Obligations.CompareResults := by
  refine ⟨fun s h f p q a b nf hv hnf hk3 ht => ?_, acceptRows_untaken_and_refused⟩
  subst hnf
  simp only [← elemCond_elemOf hv hk3]
  exact writesP_vcmp p q a b hk3 ht

end Sys2Proof.Laws

/-! ## Traps of several warps (R381, R385) -/

namespace Sys2Proof.Laws

open Sys2Proof Sys2Proof.Machine Sys2Proof.Claims

theorem sameBytes_of_stopStep {s t : State} (h : StopStep s t) : SameBytes s t := by
  refine ⟨fun a => ?_, fun b a => ?_, fun k a => ?_⟩
  · rw [h.frame]
  · rw [h.block b]
  · rw [h.frame]
    rfl

theorem stopStep_cur {s t : State} (h : StopStep s t) : t.cur = s.cur := by rw [h.frame]

theorem warp_demote_ne (s : State) {k j : Nat} (hj : j ≠ k) : (s.demote k).warp j = s.warp j := by
  unfold State.demote
  simp only
  split
  · rfl
  · split
    · rw [warp_freeContext, State.warp_setWarp_ne _ _ _ hj]
    · rfl
  · rw [State.later_warp, State.warp_setWarp_ne _ _ _ hj]

/-- Of a warp that demotes, its engine, the place it was granted and its latch may change. -/
theorem warp_demote (s : State) (k : Nat) : (s.demote k).warp k = { s.warp k with
    engine := ((s.demote k).warp k).engine, granted := ((s.demote k).warp k).granted,
    displaced := ((s.demote k).warp k).displaced, latch := ((s.demote k).warp k).latch } := by
  unfold State.demote
  simp only
  split
  · rfl
  · split
    · rw [warp_freeContext, State.warp_setWarp_self]
    · rfl
  · rw [State.later_warp, State.warp_setWarp_self]

/-- A warp that does not run is not halted. -/
theorem haltAtBoundary_of_not_running {s : State} {k : Nat} (h : (s.warp k).stat ≠ .running) : s.haltAtBoundary k = s := by
  unfold State.haltAtBoundary
  exact (if_neg fun hc => h hc.1).trans (if_neg fun hc => h hc.1)

theorem warp_haltAtBoundary_ne (s : State) {k j : Nat} (hj : j ≠ k) : (s.haltAtBoundary k).warp j = s.warp j := by
  unfold State.haltAtBoundary
  simp only
  split
  · exact warp_demote_ne s hj
  split
  · rw [warp_demote_ne _ hj, State.warp_setWarp_ne _ _ _ hj]
  · rfl

theorem warp_haltAtBoundary_of_not_running {s : State} {j : Nat} (h : (s.warp j).stat ≠ .running) (k : Nat) :
    (s.haltAtBoundary k).warp j = s.warp j := by
  by_cases hj : j = k
  · subst hj
    rw [haltAtBoundary_of_not_running h]
  · exact warp_haltAtBoundary_ne s hj

/-- Steps of which each leaves a warp that does not run as it is leave it so together. -/
theorem warp_foldl_of_not_running {α : Type} {f : State → α → State} {j : Nat}
    (hf : ∀ s a, (s.warp j).stat ≠ .running → (f s a).warp j = s.warp j) (l : List α) {s : State}
    (h : (s.warp j).stat ≠ .running) : (l.foldl f s).warp j = s.warp j := by
  induction l generalizing s with
  | nil => rfl
  | cons a l ih =>
    have ha := hf s a h
    exact (ih (by rwa [ha])).trans ha

/-- The save of a block changes no warp that does not run. -/
theorem warp_startSave_of_not_running {s : State} {j : Nat} (h : (s.warp j).stat ≠ .running) (b : Nat) (r : SaveReason) :
    (s.startSave b r).warp j = s.warp j := by
  refine warp_foldl_of_not_running (fun s y hs => ?_) _ h
  exact warp_foldl_of_not_running (fun s k hs => warp_haltAtBoundary_of_not_running hs k)
    (l := ((s.setBlock y { s.block y with saving := some (SaveReason.meets (s.block y).saving r) }).warpsOf y))
    (s := s.setBlock y { s.block y with saving := some (SaveReason.meets (s.block y).saving r) }) hs

section
variable (s : State) (t : Turn) {i : TrapInfo} (hi : i.cause ≠ .poison)
include hi

theorem takeTrap_eq : s.takeTrap t i =
    (((s.setWarp t.warp ((s.warp t.warp).trapped t.slotB i)).demote t.warp).startSave (s.warp t.warp).block .trap) :=
  if_neg fun hc => hi hc.1

/-- A trap changes no other warp that does not run. -/
theorem warp_takeTrap_ne {j : Nat} (hj : j ≠ t.warp) (h : (s.warp j).stat ≠ .running) :
    (s.takeTrap t i).warp j = s.warp j := by
  have hd : ((s.setWarp t.warp ((s.warp t.warp).trapped t.slotB i)).demote t.warp).warp j = s.warp j := by
    rw [warp_demote_ne _ hj, State.warp_setWarp_ne _ _ _ hj]
  rw [takeTrap_eq s t hi, warp_startSave_of_not_running (by rwa [hd]), hd]

/-- The warp that traps stands as its trap leaves it, but for what its demotion changes. -/
theorem warp_takeTrap_self : ∃ e g d l, (s.takeTrap t i).warp t.warp =
    { (s.warp t.warp).trapped t.slotB i with engine := e, granted := g, displaced := d, latch := l } := by
  have hd := warp_demote (s.setWarp t.warp ((s.warp t.warp).trapped t.slotB i)) t.warp
  rw [State.warp_setWarp_self] at hd
  rw [takeTrap_eq s t hi, warp_startSave_of_not_running (by rw [hd]; exact (by decide : WarpStat.stopped ≠ .running))]
  exact ⟨_, _, _, _, hd⟩

end

end Sys2Proof.Laws

/-! ## xswap (R200, R201) -/

namespace Sys2Proof.Laws

open Sys2Proof Sys2Proof.Machine Sys2Proof.Claims

/-! ### The selector -/

/-- The selector names no warp that an exchange could be made with (R200). -/
def BadSelector (s : State) (n : Nat) : Prop :=
  let blk := s.block s.myBlock
  let l := s.launch blk.launch
  2 ^ 48 ≤ n ∨ n / 2 ^ 37 % 8 ≠ 0 ∨ l.record.gridX * l.record.gridY * l.record.gridZ ≤ n % 2 ^ 32 ∨
    l.record.warps ≤ n / 2 ^ 32 % 2 ^ 5 ∨ (n % 2 ^ 32 = blk.lin ∧ n / 2 ^ 32 % 2 ^ 5 = s.cw.idx) ∨
    n % 2 ^ 32 ∈ l.exited ∨
    ∃ e ∈ l.saved, e.lin = n % 2 ^ 32 ∧ ∃ q ∈ e.kept, q.idx = n / 2 ^ 32 % 2 ^ 5 ∧ q.ended = true

theorem savedEnded_iff (l : Launch) (lin idx : Nat) :
    l.savedEnded lin idx = true ↔ ∃ e ∈ l.saved, e.lin = lin ∧ ∃ q ∈ e.kept, q.idx = idx ∧ q.ended = true := by
  simp [Launch.savedEnded]

/-- The fields of a selector (R200). -/
theorem selector_fields {n lin idx tag : Nat} (hn : n = lin + idx * 2 ^ 32 + tag * 2 ^ 40) (hl : lin < 2 ^ 32)
    (hi : idx < 32) (ht : tag < 256) :
    bits n 31 0 = lin ∧ bits n 36 32 = idx ∧ bits n 39 37 = 0 ∧ bits n 47 40 = tag ∧ n < 2 ^ 48 := by
  simp only [bits, Nat.shiftRight_eq_div_pow]
  omega

/-- The check of the selector that an xswap makes first. -/
theorem refused_iff (s : State) (n : Nat) :
    let l := s.launch (s.block s.myBlock).launch
    (n / 2 ^ 48 ≠ 0 ∨ bits n 39 37 ≠ 0 ∨ l.record.total ≤ bits n 31 0 ∨ l.record.warps ≤ bits n 36 32 ∨
      (bits n 31 0 = (s.block s.myBlock).lin ∧ bits n 36 32 = s.cw.idx) ∨ l.exited.contains (bits n 31 0) = true ∨
      l.savedEnded (bits n 31 0) (bits n 36 32) = true) ↔ BadSelector s n := by
  intro l
  have hhigh : n / 2 ^ 48 ≠ 0 ↔ 2 ^ 48 ≤ n := by omega
  have hlin : bits n 31 0 = n % 2 ^ 32 := by simp [bits]
  have hidx : bits n 36 32 = n / 2 ^ 32 % 2 ^ 5 := by simp [bits, Nat.shiftRight_eq_div_pow]
  have hres : bits n 39 37 = n / 2 ^ 37 % 8 := by simp [bits, Nat.shiftRight_eq_div_pow]
  rw [hhigh, hlin, hidx, hres, savedEnded_iff, List.contains_iff_mem]
  rfl

theorem exec_xswap_fresh {s : State} (hw : ∀ both vals, s.mic.wake ≠ .swapped both vals) (h : Hdr) (d a b : BitVec 6) :
    exec (.xswap h d a b) s = s.xswap h d a b := by
  show execXswap h d a b s = _
  unfold execXswap
  split
  · next both vals he => exact absurd he (hw both vals)
  · rfl

section
variable {s : State} {h : Hdr} (ht : s.taken h = true) (hw : ∀ both vals, s.mic.wake ≠ .swapped both vals)
  (d a b : BitVec 6)
include ht hw

theorem exec_xswap_refused (hbad : BadSelector s (s.rdS b.toNat).toNat) :
    exec (.xswap h d a b) s = .next (s.trapHere .bounds) :=
  (exec_xswap_fresh hw h d a b).trans ((if_neg (by simp [ht])).trans (if_pos ((refused_iff s _).mpr hbad)))

/-! ### What stands where the selector points -/

variable {n lin idx tag : Nat} (hn : (s.rdS b.toNat).toNat = n)
    (hfields : bits n 31 0 = lin ∧ bits n 36 32 = idx ∧ bits n 39 37 = 0 ∧ bits n 47 40 = tag ∧ n < 2 ^ 48)
    (hgood : ¬ BadSelector s n)
include hn hfields hgood

theorem exec_xswap_absent (hblock : s.blockOf (s.block s.myBlock).launch lin = none) :
    exec (.xswap h d a b) s = .next (s.waitFor (.xswap d.toNat a.toNat (laneMask (s.active h)) lin idx tag)) := by
  obtain ⟨rfl, rfl, -, rfl, -⟩ := hfields
  subst hn
  refine (exec_xswap_fresh hw h d a b).trans ((if_neg (by simp [ht])).trans
    ((if_neg (mt (refused_iff s _).mp hgood)).trans ?_))
  rw [hblock]

variable {y : Nat} (hblock : s.blockOf (s.block s.myBlock).launch lin = some y)
include hblock

/-- A partner of the own cluster that does not wait there (R200). -/
theorem exec_xswap_near (hnear : clusterOf (coreOfBlock y) = clusterOf s.here)
    (hnone : ∀ k, s.warpAt y idx = some k → s.partnerWait k (s.block s.myBlock).lin s.cw.idx = none) :
    exec (.xswap h d a b) s = .next (s.trapHere .bounds) := by
  obtain ⟨rfl, rfl, -, rfl, -⟩ := hfields
  subst hn
  refine (exec_xswap_fresh hw h d a b).trans ((if_neg (by simp [ht])).trans
    ((if_neg (mt (refused_iff s _).mp hgood)).trans ?_))
  simp only [hblock]
  refine if_pos ⟨hnear, ?_⟩
  cases hk : s.warpAt y _ with
  | none => rfl
  | some k => exact congrArg Option.isNone (hnone k hk)

variable {k : Nat} (hwarp : s.warpAt y idx = some k)
include hwarp

theorem exec_xswap_ended (hdead : s.liveWarp k = false) : exec (.xswap h d a b) s = .next (s.trapHere .bounds) := by
  obtain ⟨rfl, rfl, -, rfl, -⟩ := hfields
  subst hn
  refine (exec_xswap_fresh hw h d a b).trans ((if_neg (by simp [ht])).trans
    ((if_neg (mt (refused_iff s _).mp hgood)).trans ?_))
  simp only [hblock, hwarp]
  exact ite_eq_left_iff.mpr fun _ => if_pos (by simp [hdead])

variable (hlive : s.liveWarp k = true)
include hlive

theorem exec_xswap_alone (hfar : clusterOf (coreOfBlock y) ≠ clusterOf s.here)
    (hnone : s.partnerWait k (s.block s.myBlock).lin s.cw.idx = none) :
    exec (.xswap h d a b) s = .next (s.waitFor (.xswap d.toNat a.toNat (laneMask (s.active h)) lin idx tag)) := by
  obtain ⟨rfl, rfl, -, rfl, -⟩ := hfields
  subst hn
  refine (exec_xswap_fresh hw h d a b).trans ((if_neg (by simp [ht])).trans
    ((if_neg (mt (refused_iff s _).mp hgood)).trans ?_))
  simp only [hblock, hwarp]
  refine (if_neg fun hc => hfar hc.1).trans ((if_neg (by simp [hlive])).trans ?_)
  rw [hnone]

variable {u : Turn} {pd pa ptag : Nat} {pls : W32}
  (hpartner : s.partnerWait k (s.block s.myBlock).lin s.cw.idx = some (u, pd, pa, pls, ptag))
include hpartner

theorem exec_xswap_clash (hclash : ptag ≠ tag ∨ clusterOf (coreOfBlock y) = clusterOf s.here) :
    exec (.xswap h d a b) s = .next (s.swapTrap u) := by
  obtain ⟨rfl, rfl, -, rfl, -⟩ := hfields
  subst hn
  refine (exec_xswap_fresh hw h d a b).trans ((if_neg (by simp [ht])).trans
    ((if_neg (mt (refused_iff s _).mp hgood)).trans ?_))
  simp only [hblock, hwarp]
  refine (if_neg fun hc => by simp [hpartner] at hc).trans ((if_neg (by simp [hlive])).trans ?_)
  rw [hpartner]
  exact if_pos hclash

theorem exec_xswap_meets (htag : ptag = tag) (hfar : clusterOf (coreOfBlock y) ≠ clusterOf s.here) :
    exec (.xswap h d a b) s =
      .next ((s.putV d.toNat (laneMask (s.active h) &&& pls).getLsbD fun l =>
          Tab.get 0#64 ((s.warp k).micro u.slotB).src.v (32 * pa + l)).finishWait u
        (.swapped (laneMask (s.active h) &&& pls) (lanes.map fun l => s.rdV a.toNat l))
        fun w => w.putV pd (laneMask (s.active h) &&& pls).getLsbD fun l => s.rdV a.toNat l) := by
  obtain ⟨rfl, rfl, -, rfl, -⟩ := hfields
  subst hn
  refine (exec_xswap_fresh hw h d a b).trans ((if_neg (by simp [ht])).trans
    ((if_neg (mt (refused_iff s _).mp hgood)).trans ?_))
  simp only [hblock, hwarp]
  refine (if_neg fun hc => hfar hc.1).trans ((if_neg (by simp [hlive])).trans ?_)
  rw [hpartner]
  exact if_neg (by simp [htag, hfar])

end

/-! ### The exchange and the trap of both sides -/

theorem partnerWait_warp {s : State} {k lin idx : Nat} {u : Turn} {x : Nat × Nat × W32 × Nat}
    (h : s.partnerWait k lin idx = some (u, x)) : u.warp = k := by
  obtain ⟨t, ht, hu⟩ := List.exists_of_findSome?_eq_some h
  have hk : t.warp = k := by
    simp only [List.mem_cons, List.not_mem_nil, or_false] at ht
    rcases ht with rfl | rfl <;> rfl
  split at hu
  · split at hu
    · cases hu; exact hk
    · cases hu
  · cases hu

theorem alone_iff (m : Micro) : m.alone = true ↔ ¬ MoreInGroup m := by
  simp [Micro.alone, MoreInGroup]

/-- A warp stands stopped with BOUNDS, with an address as its trap address and as its word's (R381). -/
def StoppedBounds (w : Warp) (at_ : Word) : Prop :=
  w.stat = .stopped ∧ w.cause = BitVec.ofNat 8 Cause.bounds.code ∧ w.taddr = at_ ∧ w.waddr = at_

theorem stoppedBounds_takeTrap (s : State) (t : Turn) (at_ : Word) :
    StoppedBounds ((s.takeTrap t { cause := .bounds, taddr := at_, waddr := at_ }).warp t.warp) at_ := by
  obtain ⟨e, g, d, l, hw⟩ := warp_takeTrap_self s t (i := { cause := .bounds, taddr := at_, waddr := at_ }) Cause.noConfusion
  rw [hw]
  exact ⟨rfl, rfl, rfl, rfl⟩

theorem stopStep_setMicro (s : State) (k : Nat) (b : Bool) (m : Micro) :
    StopStep s (s.setWarp k ((s.warp k).setMicro b m)) :=
  stopStep_setWarp s k _ (by cases b <;> exact ⟨rfl, rfl, rfl, rfl, rfl, rfl⟩)

theorem stopStep_swapTrap (s : State) (u : Turn) : StopStep s (s.swapTrap u) := by
  unfold State.swapTrap
  simp only
  exact ((stopStep_trapHere s .bounds).trans (stopStep_setMicro _ _ _ _)).trans (stopStep_takeTrap _ _ _)

/-- Both sides of a clash stop with BOUNDS at their own words (R200, R201). -/
theorem stoppedBounds_swapTrap (s : State) (u : Turn) (hu : u.warp ≠ s.cur.warp) :
    StoppedBounds (s.swapTrap u).cw s.myAddr ∧ StoppedBounds ((s.swapTrap u).warp u.warp) (s.slotAddr u) := by
  refine ⟨?_, stoppedBounds_takeTrap _ u (s.slotAddr u)⟩
  have hmine : StoppedBounds ((s.trapHere .bounds).warp s.cur.warp) s.myAddr := stoppedBounds_takeTrap s s.cur s.myAddr
  have hcur : (s.swapTrap u).cur = s.cur := stopStep_cur (stopStep_swapTrap s u)
  rw [State.cw, hcur, State.swapTrap]
  rw [warp_takeTrap_ne _ _ Cause.noConfusion hu.symm, State.warp_setWarp_ne _ _ _ hu.symm]
  · exact hmine
  · rw [State.warp_setWarp_ne _ _ _ hu.symm, hmine.1]
    decide

/-! ### What the partner finds (R44, R201; log 53) -/

section
variable (s : State) (u : Turn) (x : Wake) (f : Warp → Warp)

theorem warp_finishWait_ne {j : Nat} (hj : j ≠ u.warp) : (s.finishWait u x f).warp j = s.warp j := by
  unfold State.finishWait
  simp only
  split <;> exact State.warp_setWarp_ne _ _ _ hj

theorem resumed_finishWait (hf : ∀ w : Warp, (f w).micro u.slotB = w.micro u.slotB) :
    Resumed ((s.warp u.warp).micro u.slotB) (((s.finishWait u x f).warp u.warp).micro u.slotB) x := by
  unfold State.finishWait
  simp only
  split
  · next h =>
    rw [State.warp_setWarp_self, Warp.micro_setMicro, hf]
    exact ⟨rfl, fun _ => rfl, fun hm => absurd hm ((alone_iff _).mp h)⟩
  · next h =>
    rw [State.warp_setWarp_self, Warp.micro_setMicro]
    have hm : MoreInGroup ((s.warp u.warp).micro u.slotB) := Classical.not_not.mp (mt (alone_iff _).mpr h)
    exact ⟨rfl, fun hn => absurd hm hn, fun _ hmid => ⟨if_pos hmid, Tab.get_put_self _ _ _ _⟩⟩

theorem regs_finishWait_more (hm : MoreInGroup ((s.warp u.warp).micro u.slotB)) :
    ((s.finishWait u x f).warp u.warp).regs = (s.warp u.warp).regs := by
  unfold State.finishWait
  simp only
  rw [if_neg (by rw [alone_iff]; exact not_not_intro hm), State.warp_setWarp_self, Warp.setMicro_regs]

theorem regs_finishWait_alone (hm : ¬ MoreInGroup ((s.warp u.warp).micro u.slotB)) :
    ((s.finishWait u x f).warp u.warp).regs = (f (s.warp u.warp)).regs := by
  unfold State.finishWait
  simp only
  rw [if_pos ((alone_iff _).mpr hm), State.warp_setWarp_self, Warp.setMicro_regs]

theorem sameBytes_finishWait : SameBytes s (s.finishWait u x f) := by
  rw [finishWait_frame]
  exact sameBytes_refl s

end

theorem getLsbD_laneMask_and (f : Nat → Bool) (m : W32) {j : Nat} (hj : j < 32) :
    (laneMask f &&& m).getLsbD j = true ↔ f j = true ∧ m.getLsbD j = true := by
  rw [BitVec.getLsbD_and, getLsbD_laneMask, decide_eq_true hj, Bool.true_and, Bool.and_eq_true]

theorem micro_putV (w : Warp) (r : Nat) (act : Nat → Bool) (g : Nat → Word) (x : Bool) :
    (w.putV r act g).micro x = w.micro x := by
  cases x <;> rfl

/-- An exchange between two warps: each side's acting lanes take the other's values, and nothing else of a byte. -/
theorem exchange_spec (s : State) (u : Turn) (hu : u.warp ≠ s.cur.warp) (d pd : Nat) (both : W32) (act : Nat → Bool)
    (pls : W32) (hboth : ∀ j < 32, both.getLsbD j = true ↔ act j = true ∧ pls.getLsbD j = true)
    (mine theirs : Nat → Word) (x : Wake) :
    let t := (s.putV d both.getLsbD theirs).finishWait u x fun w => w.putV pd both.getLsbD mine
    Resumed ((s.warp u.warp).micro u.slotB) ((t.warp u.warp).micro u.slotB) x ∧
      (∀ r j, j < 32 → vReg t r j = if r = d ∧ act j = true ∧ pls.getLsbD j = true then theirs j else vReg s r j) ∧
      (MoreInGroup ((s.warp u.warp).micro u.slotB) → (t.warp u.warp).regs = (s.warp u.warp).regs) ∧
      (¬ MoreInGroup ((s.warp u.warp).micro u.slotB) → ∀ r j, j < 32 → Tab.get 0#64 (t.warp u.warp).regs.v (32 * r + j) =
        if r = pd ∧ act j = true ∧ pls.getLsbD j = true then mine j else Tab.get 0#64 (s.warp u.warp).regs.v (32 * r + j)) ∧
      SameBytes s t := by
  intro t
  let v := s.putV d both.getLsbD theirs
  have hv : v.warp u.warp = s.warp u.warp := State.setCw_warp_ne s _ hu
  have hcw : t.cw = v.cw := by
    have hcur : t.cur = v.cur := by
      show (State.finishWait v u x _).cur = v.cur
      rw [finishWait_frame]
    rw [State.cw, hcur]
    exact warp_finishWait_ne v u x _ hu.symm
  rw [← hv]
  refine ⟨resumed_finishWait v u x _ fun w => micro_putV w _ _ _ _, fun r j hj => ?_, regs_finishWait_more v u x _,
    fun hm r j hj => ?_, sameBytes_finishWait v u x _⟩
  · rw [vReg, hcw]
    refine ((congrArg (fun w => Tab.get 0#64 w.regs.v (32 * r + j)) (State.setCw_cw s _)).trans
      (Warp.putV_get _ _ _ _ _ hj)).trans ?_
    simp only [hboth j hj]
    rfl
  · rw [regs_finishWait_alone v u x _ hm, Warp.putV_get _ _ _ _ _ hj]
    simp only [hboth j hj]

/-- Settles O29: the selector, the block and warp it names, and the partner's wait decide what an xswap does. -/
theorem exchangeResults : Obligations.ExchangeResults := by
  intro s h d a b lin idx tag ht n blk l total ls bounds
  refine ⟨fun both vals hwake => ?_, fun hw => ⟨exec_xswap_refused ht hw d a b, ?_⟩⟩
  · refine writesV_of_putV ?_
    show execXswap h d a b s = _
    rw [execXswap, hwake]
  intro hn hlin htotal hidx hidx32 htag hself hexited hsaved
  have hfields := selector_fields hn (by omega) hidx32 htag
  have ⟨hflin, hfidx, hfres, _, hfhigh⟩ := hfields
  have hgood : ¬ BadSelector s n := by
    refine mt (refused_iff s n).mpr ?_
    rw [hflin, hfidx, hfres]
    rintro (h | h | h | h | h | h | h)
    · omega
    · exact h rfl
    · exact absurd hlin (Nat.not_lt.mpr h)
    · exact absurd hidx (Nat.not_lt.mpr h)
    · exact hself.elim (absurd h.1) (absurd h.2)
    · exact hexited (List.contains_iff_mem.mp h)
    · obtain ⟨e, he, helin, q, hq, hqidx, hended⟩ := (savedEnded_iff _ _ _).mp h
      simp [hsaved e he helin q hq hqidx] at hended
  refine ⟨fun hwait => ?_, fun y hy =>
    exec_xswap_near ht hw d a b rfl hfields hgood hy, fun y k hy hk =>
    exec_xswap_ended ht hw d a b rfl hfields hgood hy hk, fun y k u pd pa ptag pls hy hk hne hlive hp => ?_⟩
  · have hexec : exec (.xswap h d a b) s = .next (s.waitFor (.xswap d.toNat a.toNat ls lin idx tag)) := by
      rcases hwait with hnone | ⟨y, k, hy, hfar, hk, hlive, hp⟩
      · exact exec_xswap_absent ht hw d a b rfl hfields hgood hnone
      · exact exec_xswap_alone ht hw d a b rfl hfields hgood hy hk hlive hfar hp
    refine ⟨_, hexec, ?_, ?_, fun k hk => State.setCw_warp_ne s _ hk, sameBytes_refl s⟩
    · exact (congrArg (fun w => (w.micro s.cur.slotB).wait) (State.setCw_cw s _)).trans
        (congrArg Micro.wait (Warp.micro_setMicro _ _ _))
    · exact (congrArg Warp.regs (State.setCw_cw s _)).trans (Warp.setMicro_regs _ _ _)
  · have hu : u.warp = k := partnerWait_warp hp
    subst hu
    refine ⟨fun hclash => ?_, fun hsame hfar => ?_⟩
    · obtain ⟨hmine, htheirs⟩ := stoppedBounds_swapTrap s u hne
      have hstep := stopStep_swapTrap s u
      exact ⟨_, exec_xswap_clash ht hw d a b rfl hfields hgood hy hk hlive hp hclash, hmine, htheirs,
        fun j => (hstep.warp j).1, sameBytes_of_stopStep hstep⟩
    · exact ⟨_, exec_xswap_meets ht hw d a b rfl hfields hgood hy hk hlive hp hsame hfar,
        exchange_spec s u hne _ _ _ _ _ (fun j hj => getLsbD_laneMask_and _ _ hj) _ _ _⟩

end Sys2Proof.Laws

/-! ## The tile words (R204, R215, R230, R235) -/

namespace Sys2Proof.Laws

open Sys2Proof Sys2Proof.Machine Sys2Proof.Claims

/-- A row of the tile words: what executes it, that t2 is its second field, and which of its fields it reads. -/
def TileRow (s : State) (h : Hdr) (f : BitVec 6) (r : Instr × Nat × BitVec 6 × BitVec 6 × BitVec 6 × Bool × Bool × Bool) : Prop :=
  match r with
  | (i, op, t1, t2, t3, one, two, three) => exec i s = s.tileWord h op t1 t2 t3 ∧ t2 = f ∧ pairOne op = one ∧
      pairTwo op = two ∧ readsThree op = three

theorem tileRow_of_mem (s : State) (h : Hdr) (e f g : BitVec 6) {r} (hr : r ∈ tileRows h e f g) : TileRow s h f r := by
  have hall : ∀ r ∈ tileRows h e f g, TileRow s h f r := by
    unfold tileRows
    repeat refine List.forall_mem_cons.mpr ⟨⟨rfl, rfl, rfl, rfl, rfl⟩, ?_⟩
    exact List.forall_mem_nil _
  exact hall r hr

/-! ### The kept values -/

theorem keeps_tileOf (s : State) (op : Nat) (t1 t2 t3 : BitVec 6) :
    Keeps s (s.tileOf op t1 t2 t3) op t1 t2 t3 (pairOne op) (pairTwo op) (readsThree op) := by
  refine ⟨rfl, rfl, rfl, rfl, rfl, rfl, ?_, ?_, rfl, rfl⟩
  · unfold State.tileOf
    cases pairOne op <;> simp [shapeNf, bits, Nat.shiftRight_eq_div_pow]
  · unfold State.tileOf
    cases pairTwo op <;> simp [shapeNf, bits, Nat.shiftRight_eq_div_pow]

theorem chained_tileOf_iff (s : State) (op : Nat) (t1 t2 t3 : BitVec 6) :
    (s.tileOf op t1 t2 t3).chained = true ↔ InChain s op t2 := by
  simp [TileOp.chained, InChain, State.tileOf, TileOp.ctl, TileOp.val, ctlChain, bits, Nat.shiftRight_eq_div_pow]

theorem entersWindow_iff {s : State} (hcore : coreOfBlock s.myBlock = s.here) (op : Nat) (t1 t2 t3 : BitVec 6) :
    s.entersWindow (s.tileOf op t1 t2 t3) = true ↔ ForWindow s op := by
  simp [State.entersWindow, ForWindow, State.tileOf, isCopy, TileOp.core, hcore, and_assoc]

theorem mixedGroup_iff (s : State) : s.mixedGroup = true ↔ ¬ AloneInGroup s := by
  simp [State.mixedGroup, AloneInGroup]

/-! ### Release and acceptance -/

/-- With no release fenced, a tile word makes none. -/
theorem tileRelease_none {s : State} (hr : s.cw.rel = []) {t : TileOp} (he : t.entry = none) :
    s.tileRelease t = (t, s) := by
  unfold State.tileRelease
  rw [beginRelease_none hr]
  split
  · exact Prod.ext (by cases t; cases he; rfl) rfl
  · rfl

/-- The units' search for work is on the agenda alone. -/
theorem stirUnits_frame (s : State) (core : Nat) : s.stirUnits core = { s with agenda := (s.stirUnits core).agenda } := by
  unfold State.stirUnits
  simp only
  repeat' split
  all_goals rfl

/-- A word that the window did not deliver joins the end of the queue, and nothing else but ranges and agenda changes. -/
theorem acceptTile_frame {s : State} {t : TileOp} (hb : t.back = none) :
    let c := s.core t.core
    s.acceptTile t = { s.setCore t.core { c with queue := c.queue ++ [t], ranges := c.ranges ++ s.rangesOf t } with
      agenda := (s.acceptTile t).agenda } := by
  unfold State.acceptTile
  simp only [hb, Option.isSome_none, Bool.false_eq_true, and_false, if_false]
  exact stirUnits_frame _ _

/-- What the checks answer is the instruction with the pages that they found (R307). -/
theorem checkTile_ok {s u : State} {t v : TileOp} {extra : List TileOp} (h : s.checkTile t extra = .ok (u, v)) :
    v = { t with pages := v.pages } := by
  unfold State.checkTile at h
  split at h
  · cases h
  split at h
  · cases h
  split at h
  · cases h
  split at h
  · cases h
  split at h
  · cases h
  split at h
  · cases h
  · cases h
    rfl

theorem tileAccept_ok {s u : State} {t v : TileOp} (hcheck : s.checkTile t [] = .ok (u, v)) (hroom : s.tileRoom v = true)
    (hr : u.cw.rel = []) (he : t.entry = none) :
    s.tileAccept t = .next (if v.chained then ((u.acceptTile v).waitFor (.chain true)).later (.chainRendezvous v.core)
      else u.acceptTile v) := by
  have hv : v.entry = none := by rw [checkTile_ok hcheck, he]
  unfold State.tileAccept
  rw [hcheck]
  simp only [hroom, Bool.not_true, Bool.false_eq_true, if_false, tileRelease_none hr hv]

/-- An accepted word joins the end of its core's queue; a member of a chain waits for its rendezvous (R204, R221). -/
theorem tileAccept_queued {s u : State} {t v : TileOp} (hcheck : s.checkTile t [] = .ok (u, v))
    (hroom : s.tileRoom v = true) (hr : u.cw.rel = []) (he : t.entry = none) (hb : t.back = none) :
    ∃ x, s.tileAccept t = .next x ∧ (x.core t.core).queue = (u.core t.core).queue ++ [v] ∧ x.mem = u.mem ∧
      (t.chained = false → x.warps = u.warps) ∧ (t.chained = true → x.mic.wait = .chain true) := by
  have hv := checkTile_ok hcheck
  have hcore : v.core = t.core := by rw [hv]; rfl
  have hchain : v.chained = t.chained := by rw [hv]; rfl
  have hframe := acceptTile_frame (s := u) (t := v) (by rw [hv]; exact hb)
  have hqueue : ((u.acceptTile v).core t.core).queue = (u.core t.core).queue ++ [v] := by
    rw [hframe, hcore]
    exact congrArg Core.queue (State.core_setCore_self _ _ _)
  refine ⟨_, tileAccept_ok hcheck hroom hr he, ?_⟩
  rw [hchain]
  cases t.chained with
  | false => exact ⟨hqueue, by rw [hframe]; rfl, fun _ => by rw [hframe]; rfl, nofun⟩
  | true =>
    refine ⟨hqueue, by rw [hframe]; rfl, nofun, fun _ => ?_⟩
    exact (congrArg (fun w => (w.micro (u.acceptTile v).cur.slotB).wait) (State.setCw_cw _ _)).trans
      (congrArg Micro.wait (Warp.micro_setMicro _ _ _))

/-! ### What a tile word does -/

section
variable {s : State} {h : Hdr} (op : Nat) (t1 t2 t3 : BitVec 6)

theorem tileWord_met (hw : s.mic.wake = .met) : s.tileWord h op t1 t2 t3 = .next s := if_pos (.inr hw)

variable (ht : s.taken h = true) (hw : s.mic.wake ≠ .met) (hcore : coreOfBlock s.myBlock = s.here)
include ht hw hcore

theorem tileWord_outside (hwin : ¬ ForWindow s op) :
    s.tileWord h op t1 t2 t3 = s.tileAccept (s.tileOf op t1 t2 t3) :=
  (if_neg (by simp [ht, hw])).trans (if_pos (by simpa using mt (entersWindow_iff hcore op t1 t2 t3).mp hwin))

variable (hwin : ForWindow s op)
include hwin

theorem tileWord_full (hfull : 8 ≤ (s.core s.here).window.length) :
    s.tileWord h op t1 t2 t3 = .next (s.waitFor (.room .window)) :=
  (if_neg (by simp [ht, hw])).trans ((if_neg (by simpa using (entersWindow_iff hcore op t1 t2 t3).mpr hwin)).trans
    (if_pos (by rwa [← hcore] at hfull)))

theorem tileWord_held (hr : s.cw.rel = []) (hroom : (s.core s.here).window.length < 8) :
    let w : HeldWord := { tile := s.tileOf op t1 t2 t3, group := s.mic.group, ctl := s.cw.ctl, pend := s.cw.pend }
    let u := s.setCore s.here { s.core s.here with window := (s.core s.here).window ++ [w] }
    s.tileWord h op t1 t2 t3 =
      .next (if s.mixedGroup then s.flushEntered u s.here else u.later (.rewriteTimeout s.here)) := by
  intro w u
  refine (if_neg (by simp [ht, hw])).trans ((if_neg (by simpa using (entersWindow_iff hcore op t1 t2 t3).mpr hwin)).trans
    ((if_neg (by rw [← hcore] at hroom; exact Nat.not_le.mpr hroom)).trans ?_))
  have hrel : s.tileRelease (s.tileOf op t1 t2 t3) = (s.tileOf op t1 t2 t3, s) := tileRelease_none hr rfl
  have hc : (s.tileOf op t1 t2 t3).core = s.here := hcore
  simp only [hrel, hc]
  rfl

end

/-- A word that needs the baton traps BATON without it, ahead of every other check (R213). -/
theorem checkTile_baton {s : State} {t : TileOp} (hneeds : needsBaton t.op = true)
    (hb : (s.core t.core).baton ≠ some t.warp) : s.checkTile t [] = .error ⟨.baton, t.addr.toNat, 0#16⟩ :=
  if_pos ⟨hneeds, hb⟩

theorem needsBaton_of_range {op : Nat} (h : 2 ≤ op - 0xF0 ∧ op - 0xF0 ≤ 7 ∨ op = 0xF9) : needsBaton op = true := by
  have hop : op = 0xF2 ∨ op = 0xF3 ∨ op = 0xF4 ∨ op = 0xF5 ∨ op = 0xF6 ∨ op = 0xF7 ∨ op = 0xF9 := by omega
  rcases hop with rfl | rfl | rfl | rfl | rfl | rfl | rfl <;> rfl

theorem tileAccept_error {s : State} {t : TileOp} {x : MemFault} (hcheck : s.checkTile t [] = .error x) :
    s.tileAccept t = .next (s.memTrap x) := by
  unfold State.tileAccept
  rw [hcheck]
  rfl

theorem tileAccept_full {s u : State} {t v : TileOp} (hcheck : s.checkTile t [] = .ok (u, v))
    (hroom : s.tileRoom v = false) : s.tileAccept t = .next (s.waitFor (.room .queue)) := by
  unfold State.tileAccept
  rw [hcheck]
  exact if_pos (by simp [hroom])

/-- Settles O30: the window where the word is for it, else the checks, the room and the queue. -/
theorem tileWordResults : Obligations.TileWordResults := by
  intro s h e f g r hmem ht
  obtain ⟨i, op, t1, t2, t3, one, two, three⟩ := r
  obtain ⟨hexec, rfl, rfl, rfl, rfl⟩ := tileRow_of_mem s h e f g hmem
  intro c i' op' t1' f' t3' one' two' three'
  show (s.mic.wake = .met → exec i s = .next s) ∧ _
  refine ⟨fun hmet => hexec.trans (tileWord_met op t1 t2 t3 hmet), fun hw hcore => ⟨fun hwin hr => ⟨fun hroom => ?_,
    fun hfull => hexec.trans (tileWord_full op t1 t2 t3 ht hw hcore hwin hfull)⟩, fun hwin => ?_, fun hop hb => ?_⟩⟩
  · have hheld := hexec.trans (tileWord_held op t1 t2 t3 ht hw hcore hwin hr hroom)
    refine ⟨⟨s.tileOf op t1 t2 t3, s.mic.group, s.cw.ctl, s.cw.pend⟩, keeps_tileOf s op t1 t2 t3, rfl, rfl, rfl, fun halone => hheld.trans ?_, fun hmixed => hheld.trans ?_⟩
    · rw [if_neg (mt (mixedGroup_iff s).mp (not_not_intro halone))]
    · rw [if_pos ((mixedGroup_iff s).mpr hmixed)]
  · have hout := hexec.trans (tileWord_outside op t1 t2 t3 ht hw hcore hwin)
    refine ⟨keeps_tileOf s op t1 t2 t3, fun x hx => hout.trans (tileAccept_error hx), fun u v hv =>
      ⟨fun hroom => hout.trans (tileAccept_full hv hroom), fun hroom hr => ?_⟩⟩
    obtain ⟨x, hx, hqueue, hm, hfree, hchain⟩ := tileAccept_queued hv hroom hr rfl rfl
    have hc : (s.tileOf op t1 t2 t3).core = s.here := hcore
    rw [hc] at hqueue
    exact ⟨x, hout.trans hx, hqueue, hm, fun hn => hfree (by simpa using mt (chained_tileOf_iff s op t1 t2 t3).mp hn),
      fun hin => hchain ((chained_tileOf_iff s op t1 t2 t3).mpr hin)⟩
  · have hwin : ¬ ForWindow s op := fun hf => hb hf.2.2.1
    exact (hexec.trans (tileWord_outside op t1 t2 t3 ht hw hcore hwin)).trans
      (tileAccept_error (checkTile_baton (needsBaton_of_range hop) (by rw [show (s.tileOf op t1 t2 t3).core = s.here from hcore]; exact hb)))

end Sys2Proof.Laws

/-! ## The step that issues a group (R41, R42, R44, R53, R382) -/

namespace Sys2Proof.Laws

open Sys2Proof Sys2Proof.Machine Sys2Proof.Claims

/-! ### Cycles that pass (R104, R109, R111) -/

/-- From s to t cycles have passed for the warps, as their counts show, and nothing else of a warp has changed. -/
structure TimeOnly (s t : State) : Prop where
  cur : t.cur = s.cur
  warp : ∀ k, t.warp k = { s.warp k with nprCount := (t.warp k).nprCount, waited := (t.warp k).waited }

theorem TimeOnly.refl (s : State) : TimeOnly s s := ⟨rfl, fun _ => rfl⟩

theorem TimeOnly.trans {s t u : State} (h : TimeOnly s t) (g : TimeOnly t u) : TimeOnly s u :=
  ⟨g.cur.trans h.cur, fun k => (g.warp k).trans (by rw [h.warp k])⟩

theorem TimeOnly.foldl {α : Type} {f : State → α → State} (hf : ∀ s a, TimeOnly s (f s a)) (l : List α) (s : State) :
    TimeOnly s (l.foldl f s) := by
  induction l generalizing s with
  | nil => exact .refl s
  | cons a l ih => exact (hf s a).trans (ih _)

theorem timeOnly_of_warps {s t : State} (hcur : t.cur = s.cur) (hwarps : t.warps = s.warps) : TimeOnly s t := by
  have hwarp (k : Nat) : t.warp k = s.warp k := by rw [State.warp, hwarps]; rfl
  exact ⟨hcur, fun k => by rw [hwarp k]⟩

theorem timeOnly_spendOne (s : State) (k n : Nat) : TimeOnly s (s.setWarp k ((s.warp k).spend n)) := by
  refine ⟨rfl, fun j => ?_⟩
  by_cases hj : j = k
  · subst hj
    rw [State.warp_setWarp_self]
    rfl
  · rw [State.warp_setWarp_ne _ _ _ hj]

theorem timeOnly_spend (s : State) (c n : Nat) : TimeOnly s (s.spend c n) := by
  refine TimeOnly.foldl (fun s k => ?_) _ s
  split
  · simp only
    split
    · exact (timeOnly_spendOne s k n).trans (timeOnly_of_warps rfl rfl)
    · exact timeOnly_spendOne s k n
  · exact .refl s

theorem timeOnly_elapse (s : State) (c : Nat) : TimeOnly s (s.elapse c) :=
  (timeOnly_of_warps (s := s) (t := s.passCycles c) (by rfl) (by rfl)).trans (timeOnly_spend _ _ _)

/-- A group takes a slot of a new cycle. -/
theorem timeOnly_takeSlot (s : State) (c : Nat) (ws : List W32) (re : Bool) :
    TimeOnly s ((s.newCycle c).takeSlot c ws re) := timeOnly_of_warps (by rfl) (by rfl)

theorem timeOnly_timeGroup (s : State) (ws : List W32) (re : Bool) : TimeOnly s (s.timeGroup ws re) := by
  unfold State.timeGroup
  simp only
  split
  · exact timeOnly_of_warps rfl rfl
  · have helapse : TimeOnly s (s.draw.2.elapse s.here) :=
      (timeOnly_of_warps (s := s) (t := s.draw.2) (by rfl) (by rfl)).trans (timeOnly_elapse _ _)
    split
    · exact helapse
    · exact (helapse.trans (timeOnly_takeSlot _ _ _ _)).trans (timeOnly_spend _ _ _)

theorem timeOnly_chargeTraffic (s : State) (core part : Nat) : TimeOnly s (s.chargeTraffic core part) := by
  refine timeOnly_of_warps ?_ ?_
  all_goals
    unfold State.chargeTraffic
    simp only
    split <;> split <;> rfl

theorem timeOnly_account (s : State) (re : Bool) : TimeOnly s (s.account re) := by
  have hcharge : TimeOnly s (if re then s.mic.pipes.foldl
      (fun (t : State) p => t.chargeRe s.here s.myLaunch.ctx p.1 (s.holdCycles p.2)) s else s) := by
    split
    · exact TimeOnly.foldl (f := fun (t : State) (p : Nat × Nat) => t.chargeRe s.here s.myLaunch.ctx p.1 (s.holdCycles p.2))
        (fun _ _ => timeOnly_of_warps (by rfl) (by rfl)) _ s
    · exact .refl s
  unfold State.account
  simp only
  split
  · exact hcharge.trans (timeOnly_chargeTraffic _ _ _)
  · exact hcharge

theorem timeOnly_dispatched (b : State) : TimeOnly b (dispatched b) := by
  unfold dispatched
  split
  · exact (timeOnly_timeGroup b _ _).trans (timeOnly_account _ _)
  · exact .refl b

theorem TimeOnly.cw {s t : State} (h : TimeOnly s t) :
    t.cw = { s.cw with nprCount := t.cw.nprCount, waited := t.cw.waited } := by
  rw [State.cw, h.cur]
  exact h.warp s.cur.warp

theorem TimeOnly.mic {s t : State} (h : TimeOnly s t) : t.mic = s.mic := by
  rw [State.mic, h.cw, h.cur]
  cases hb : s.cur.slotB <;> simp [State.mic, Warp.micro, hb]

theorem TimeOnly.stat {s t : State} (h : TimeOnly s t) : t.cw.stat = s.cw.stat := by rw [h.cw]

/-! ### The words of a group (R43, R44, R403) -/

theorem runWord_eq (s : State) (i : Instr) : s.runWord i =
    if ∃ r ∈ vSources i, ∃ n ∈ s.mic.src.bad, n / 32 = r then .next (s.trapHere .poison) else exec i s := by
  have hiff : (!s.mic.src.bad.isEmpty ∧ (vSources i).any fun r => s.mic.src.bad.any fun n => n / 32 == r) ↔
      ∃ r ∈ vSources i, ∃ n ∈ s.mic.src.bad, n / 32 = r := by
    simp only [List.any_eq_true, beq_iff_eq]
    refine and_iff_right_of_imp ?_
    rintro ⟨r, -, n, hn, -⟩
    simpa using List.ne_nil_of_mem hn
  unfold State.runWord
  simp only [hiff]

theorem instrOf_of_decodeWord {w : W32} {i : Instr} (h : decodeWord w = .ok i) : instrOf w = some i := by
  rw [instrOf, h]
  rfl

theorem isImx_iff (w : W32) : isImx w = true ↔ opOf w = 1 := by simp [isImx]

theorem runWords_succ {s : State} {n : Nat} {w : W32} {i : Instr} (hw : s.mic.pkt[s.mic.word]? = some w)
    (hi : decodeWord w = .ok i) :
    s.runWords (n + 1) = match (if s.mic.word ∈ s.mic.did then .next s else s.runWord i) with
      | .next r =>
        if r.cw.stat ≠ .running ∨ r.mic.wait ≠ .none then .next r
        else if opOf w = 1 then (r.setMic { r.mic with word := r.mic.word + 1, mid := true }).runWords n
        else if w.getLsbD 31 = true then (r.setMic r.mic.passed).runWords n
        else .next (r.setMic r.mic.passed)
      | o => o := by
  rw [State.runWords, hw]
  simp only [instrOf_of_decodeWord hi, List.contains_iff_mem, isImx_iff]
  rfl

section
variable {s : State} {w : W32} {i : Instr} (hw : s.mic.pkt[s.mic.word]? = some w) (hi : decodeWord w = .ok i)
  (himx : opOf w ≠ 1) (hlast : w.getLsbD 31 = false)
include hw hi himx hlast

/-- The last word of a group runs: the slot moves behind it unless the warp has stopped or the word waits. -/
theorem runWords_last (n : Nat) {r : State} (hdid : s.mic.word ∉ s.mic.did) (hr : s.runWord i = .next r) :
    s.runWords (n + 1) =
      .next (if r.cw.stat ≠ .running ∨ r.mic.wait ≠ .none then r else r.setMic r.mic.passed) := by
  rw [runWords_succ hw hi, if_neg hdid, hr]
  simp only [himx, hlast, if_false, Bool.false_eq_true]
  split <;> rfl

/-- The last word of a group that has had its effect is passed by. -/
theorem runWords_last_did (n : Nat) (hdid : s.mic.word ∈ s.mic.did) (hstat : s.cw.stat = .running)
    (hwait : s.mic.wait = .none) : s.runWords (n + 1) = .next (s.setMic s.mic.passed) := by
  rw [runWords_succ hw hi, if_pos hdid]
  simp only [hstat, hwait, himx, hlast, ne_eq, not_true_eq_false, or_self, if_false, Bool.false_eq_true]

end

/-! ### What a group that is dispatched answers (R44, R382) -/

section
variable {b g r : State} (hrun : g.runWords 3 = .next r)
include hrun

theorem runDispatched_trap (htrap : TakesBack b r) : b.runDispatched g = .next (g.groupTraps r) := by
  obtain ⟨hstat, hcause⟩ := htrap
  unfold State.runDispatched
  rw [hrun]
  refine (if_pos hstat).trans (if_neg ?_)
  rintro ⟨hp, he⟩
  exact hcause.elim (absurd hp) fun hre => by simp [hre] at he

theorem runDispatched_poison (hstat : r.cw.stat ≠ .running) (htrap : ¬ TakesBack b r) :
    b.runDispatched g = State.runPoisoned 3 b g r := by
  have hcause : r.cw.recorded.cause = .poison ∧ (!b.cw.onRe) = true := by
    refine ⟨Classical.not_not.mp fun hc => htrap ⟨hstat, .inl hc⟩, ?_⟩
    cases hre : b.cw.onRe with
    | false => rfl
    | true => exact absurd ⟨hstat, .inr hre⟩ htrap
  unfold State.runDispatched
  rw [hrun]
  exact (if_pos hstat).trans (if_pos hcause)

variable (hstat : r.cw.stat = .running)
include hstat

theorem runDispatched_done (hwait : r.mic.wait = .none) : b.runDispatched g = .next (r.afterGroup b.cur) := by
  unfold State.runDispatched
  rw [hrun]
  exact (if_neg (not_not_intro hstat)).trans (if_pos hwait)

variable (hwait : r.mic.wait ≠ .none)
include hwait

theorem runDispatched_laterTrap {x : State} (hx : State.laterTrap 3 r = some x) :
    b.runDispatched g = .next (g.groupTraps x) := by
  unfold State.runDispatched
  rw [hrun]
  refine (if_neg (not_not_intro hstat)).trans ((if_neg hwait).trans ?_)
  rw [hx]

variable (hx : State.laterTrap 3 r = none)
include hx

theorem runDispatched_waits :
    b.runDispatched g = b.groupWaits g r.mic.word r.mic.wait fun v => v.afterGroup b.cur := by
  unfold State.runDispatched
  rw [hrun]
  refine (if_neg (not_not_intro hstat)).trans ((if_neg hwait).trans ?_)
  rw [hx]

end

theorem forRoom_iff (w : Wait) : w.forRoom = true ↔ ∃ h, w = .room h := by
  cases w <;> simp [Wait.forRoom]

theorem groupWaits_room (s g : State) (i : Nat) {w : Wait} (f : State → State) (hw : ∃ h, w = .room h) :
    s.groupWaits g i w f = .next (s.setMic { s.mic with word := i, wait := w }) := if_pos ((forRoom_iff w).mpr hw)

theorem groupWaits_alone (s : State) {g v : State} {i : Nat} {w : Wait} (f : State → State) (hw : ∀ h, w ≠ .room h)
    (hv : g.waitAlone i = .next v) : s.groupWaits g i w f = .next (f v) := by
  refine (if_neg fun hr => ?_).trans ?_
  · obtain ⟨h, he⟩ := (forRoom_iff w).mp hr
    exact hw h he
  · rw [hv]

/-- What the words of a dispatched group lead to is what the step answers for the group. -/
theorem runGroup_answers {b x : State} (h : b.runDispatched (dispatched b) = .next x) : b.runGroup = answers b x := by
  unfold State.runGroup answers
  unfold dispatched at h
  by_cases hbegin : (b.mic.wakes.isEmpty || !b.mic.mid) = true
  · rw [if_pos hbegin] at h ⊢
    simp only [hbegin, Bool.true_and, h]
    split <;> rfl
  · rw [if_neg hbegin] at h ⊢
    rw [h, Bool.eq_false_iff.mpr hbegin]
    rfl

/-- A group that has begun answers as its words lead (R44). -/
theorem groupRuns_of_step {s b : State} {t : Turn} (hcur : b.cur = t) (hstep : step s = b.runGroup) : GroupRuns s b t := by
  subst hcur
  show ∀ r, (dispatched b).runWords 3 = .next r → _
  intro r hrun
  have hans {x : State} (h : b.runDispatched (dispatched b) = .next x) : step s = answers b x := hstep.trans (runGroup_answers h)
  refine ⟨fun htrap => hans (runDispatched_trap hrun htrap), fun hstat hwait => hans (runDispatched_done hrun hstat hwait),
    fun hstat hwait => ⟨fun x hx => hans (runDispatched_laterTrap hrun hstat hwait hx), fun hx => ?_⟩⟩
  have hwaits := runDispatched_waits (b := b) hrun hstat hwait hx
  exact ⟨fun hroom => hans (hwaits.trans (groupWaits_room _ _ _ _ hroom)),
    fun hroom v hv => hans (hwaits.trans (groupWaits_alone _ _ hroom hv))⟩

end Sys2Proof.Laws

/-! ## The fetch of a packet, and a group of one word (R41, R44, R53, R382) -/

namespace Sys2Proof.Laws

open Sys2Proof Sys2Proof.Machine Sys2Proof.Claims

/-! ### Fetch (R41, R402) -/

theorem leNat_lt (bs : List Byte) : leNat bs < 256 ^ bs.length := by
  induction bs with
  | nil => exact Nat.one_pos
  | cons b bs ih =>
    have hb := b.isLt
    have hpow : 256 ^ (b :: bs).length = 256 * 256 ^ bs.length := Nat.pow_succ'
    rw [leNat, hpow]
    omega

theorem take_read (m : Memory) (a : Nat) {k n : Nat} (h : k ≤ n) : (m.read a n).take k = m.read a k := by
  induction k generalizing a n with
  | zero => rfl
  | succ k ih =>
    obtain ⟨n, rfl⟩ : ∃ j, n = j + 1 := ⟨n - 1, by omega⟩
    simp only [Memory.read, List.take_succ_cons, ih (a + 1) (Nat.le_of_succ_le_succ h)]

theorem drop_read (m : Memory) (a k n : Nat) : (m.read a (k + n)).drop k = m.read (a + k) n := by
  induction k generalizing a with
  | zero => rw [Nat.zero_add]; rfl
  | succ k ih =>
    rw [Nat.succ_add, Memory.read, List.drop_succ_cons, ih, Nat.add_right_comm, Nat.add_assoc]

/-- A word of a packet is the number of its four bytes (R4, R41). -/
theorem toNat_wordOf_read (m : Memory) (a i n : Nat) (h : 4 * i + 4 ≤ n) :
    (wordOf (m.read a n) i).toNat = m.num (a + 4 * i) 4 := by
  obtain ⟨k, rfl⟩ : ∃ k, n = 4 * i + k := ⟨n - 4 * i, by omega⟩
  have hlt := leNat_lt (m.read (a + 4 * i) 4)
  rw [Memory.length_read] at hlt
  rw [wordOf, drop_read, take_read _ _ (by omega), BitVec.toNat_ofNat]
  exact Nat.mod_eq_of_lt hlt

/-- A page that the core TLB holds is read at its home at rest (R402). -/
theorem fetchBytes_rest {s : State} {e : TlbEntry} {va : Nat} (hq : QuietHome s)
    (htlb : tlbFind (s.core s.here).tlb s.myCtx va .fetch = some e) (n : Nat) :
    s.fetchBytes va n = .ok ((s.homeRead (e.phys va) n).1, s.mem.read (e.phys va) n) := by
  obtain ⟨hr, ho, hh, hw, hp, -⟩ := hq
  obtain ⟨htags, hbytes⟩ := homeRead_rest s (e.phys va) n hr ho hh hw
  have hpoison : (s.homeRead (e.phys va) n).1.poison = [] := by rw [htags]; exact hp
  have hx : s.translate s.here s.myCtx va .fetch = .ok s e := by rw [State.translate, htlb]
  unfold State.fetchBytes
  simp only [hx, hpoison, poisonIn_nil, hbytes]

/-- The packet of a slot is its twelve bytes at the code base, and the core's instruction cache takes it (R41). -/
theorem packetWords_rest {s : State} {e : TlbEntry} (hq : QuietHome s)
    (hva : s.codeBase s.cur.warp + 12 * s.pc < 2 ^ 64) (hpage : (s.codeBase s.cur.warp + 12 * s.pc) % 65536 ≤ 65524)
    (hcache : (s.core s.here).icache = [])
    (htlb : tlbFind (s.core s.here).tlb s.myCtx (s.codeBase s.cur.warp + 12 * s.pc) .fetch = some e) :
    let a := s.codeBase s.cur.warp + 12 * s.pc
    let bs := s.mem.read (e.phys a) 12
    let ws := [wordOf bs 0, wordOf bs 1, wordOf bs 2]
    let u := (s.homeRead (e.phys a) 12).1
    s.packetWords =
      .ok (u.setCore u.here { u.core u.here with icache := ⟨u.myCtx, a, ws⟩ :: (u.core u.here).icache }, ws) := by
  intro a bs ws u
  have haddr : (wordAddr (s.codeBase s.cur.warp) s.pc 0).toNat = a := by
    rw [wordAddr, BitVec.toNat_ofNat]
    exact Nat.mod_eq_of_lt hva
  have hn : min 12 (65536 - a % 65536) = 12 := by omega
  have hbytes : s.packetBytes a = .ok (u, bs) := by
    unfold State.packetBytes
    simp only [hn, if_true]
    rw [fetchBytes_rest hq htlb]
  unfold State.packetWords
  simp only [haddr, hcache, List.find?_nil, hbytes]
  rfl

/-! ### The check of a packet (R53) -/

theorem wordFault_ne_poison (regs : Nat) (ss : List Slot) (i : Nat) : wordFault regs ss i ≠ some .poison := by
  unfold wordFault
  simp only
  repeat' split
  all_goals exact nofun

theorem checkPacket_ne_poison {regs : Nat} {ws : List W32} {j : Nat} {c : Cause} (h : checkPacket regs ws = some (j, c)) :
    c ≠ .poison := by
  obtain ⟨i, -, hi⟩ := List.exists_of_findSome?_eq_some h
  obtain ⟨c', hc', he⟩ := Option.map_eq_some_iff.mp hi
  cases he
  exact fun hp => wordFault_ne_poison _ _ _ (hp ▸ hc')

theorem fetchPacket_bad {s v : State} {ws : List W32} {j : Nat} {c : Cause} (hws : s.packetWords = .ok (v, ws))
    (hbad : checkPacket (v.block v.myBlock).regs ws = some (j, c)) :
    let a := wordAddr (v.codeBase v.cur.warp) v.pc j
    s.fetchPacket = (v.setMic { s.mic with group := 0 }).takeTrap v.cur { cause := c, taddr := a, waddr := a } := by
  unfold State.fetchPacket
  rw [hws]
  simp only [hbad]
  rfl

theorem fetchPacket_good {s v : State} {ws : List W32} (hws : s.packetWords = .ok (v, ws))
    (hgood : checkPacket (v.block v.myBlock).regs ws = none) : s.fetchPacket = v.setMic { s.mic with pkt := ws } := by
  unfold State.fetchPacket
  rw [hws]
  simp only [hgood]

/-! ### The slot that issues (R111; log 3) -/

/-- The state in which a slot has been taken off the turn list to issue. -/
def taking (s : State) (t : Turn) : State := { s with cur := t, turns := s.turns.drop 1 }

theorem issue_eq {s : State} {t : Turn} (hhead : s.turns.head? = some t) :
    let y := (taking s t).fetchPacket
    s.issue t = if (taking s t).mic.pkt.isEmpty then
        (if y.cw.stat ≠ .running ∨ !y.mayGo t then .next y else y.issueGroup)
      else (taking s t).issueGroup := by
  unfold State.issue
  simp only [hhead, if_true]
  rfl

section
variable {s : State} {t : Turn} (hhead : s.turns.head? = some t) (hissue : s.canIssue t = true)
include hhead hissue

theorem step_of_turn : step s = s.issue t := by
  have hchosen : s.chosen = some t := by rw [State.chosen, hhead, Option.filter_some, if_pos hissue]
  unfold step State.advanceOne
  rw [hchosen]

theorem step_of_packet (hpkt : (taking s t).mic.pkt ≠ []) :
    step s = State.issueGroup (taking s t) := by
  rw [step_of_turn hhead hissue, issue_eq hhead]
  exact if_neg (by simpa using hpkt)

theorem step_of_fetch (hpkt : (taking s t).mic.pkt = []) :
    let y := State.fetchPacket (taking s t)
    step s = if y.cw.stat ≠ .running ∨ !y.mayGo t then .next y else y.issueGroup := by
  rw [step_of_turn hhead hissue, issue_eq hhead]
  exact if_pos (by simpa using hpkt)

/-- A packet that fails its check traps before any of its words issues (R53). -/
theorem step_of_bad_packet {v : State} {ws : List W32} {j : Nat} {c : Cause}
    (hpkt : (taking s t).mic.pkt = [])
    (hws : (taking s t).packetWords = .ok (v, ws))
    (hbad : checkPacket (v.block v.myBlock).regs ws = some (j, c)) :
    let a := wordAddr (v.codeBase v.cur.warp) v.pc j
    step s = .next ((v.setMic { (taking s t).mic with group := 0 }).takeTrap v.cur
      { cause := c, taddr := a, waddr := a }) := by
  intro a
  refine (step_of_fetch hhead hissue hpkt).trans ?_
  rw [fetchPacket_bad hws hbad]
  refine if_pos (.inl ?_)
  obtain ⟨e, g, d, l, hw⟩ := warp_takeTrap_self (v.setMic { (taking s t).mic with
      group := 0 }) v.cur (i := { cause := c, taddr := a, waddr := a }) (checkPacket_ne_poison hbad)
  rw [State.cw, stopStep_cur (stopStep_takeTrap _ _ _)]
  rw [show (v.setMic _).cur = v.cur from rfl, hw]
  exact (by decide : WarpStat.stopped ≠ .running)

end

theorem holdsPacket_iff (s u : State) (t : Turn) : HoldsPacket s u t ↔
    ((taking s t).mic.pkt ≠ [] ∧ u = taking s t) ∨
      ((taking s t).mic.pkt = [] ∧ u.cur = t ∧ u.mayGo t = true ∧ u.cw.stat = .running ∧ ∃ v ws,
        (taking s t).packetWords = .ok (v, ws) ∧ checkPacket (v.block v.myBlock).regs ws = none ∧
        u = v.setMic { (taking s t).mic with pkt := ws }) := Iff.rfl

/-- A slot that issues holds a packet that has passed its check: the step is the issue of its next group. -/
theorem step_of_held {s u : State} {t : Turn} (hhead : s.turns.head? = some t) (hissue : s.canIssue t = true)
    (hheld : HoldsPacket s u t) : step s = u.issueGroup := by
  rcases (holdsPacket_iff s u t).mp hheld with ⟨hpkt, rfl⟩ | ⟨hpkt, -, hgo, hstat, v, ws, hws, hgood, rfl⟩
  · exact step_of_packet hhead hissue hpkt
  · refine (step_of_fetch hhead hissue hpkt).trans ?_
    rw [fetchPacket_good hws hgood]
    exact if_neg (not_or.mpr ⟨not_not_intro hstat, by rw [hgo]; exact Bool.false_ne_true⟩)

theorem cur_of_held {s u : State} {t : Turn} (hheld : HoldsPacket s u t) : u.cur = t := by
  rcases (holdsPacket_iff s u t).mp hheld with ⟨-, rfl⟩ | ⟨-, hcur, -⟩
  · rfl
  · exact hcur

theorem setMic_mic (s : State) (m : Micro) : (s.setMic m).mic = m :=
  (congrArg (fun w => w.micro s.cur.slotB) (State.setCw_cw s _)).trans (Warp.micro_setMicro _ _ _)

theorem setMic_cw (s : State) (m : Micro) : (s.setMic m).cw = s.cw.setMicro s.cur.slotB m := State.setCw_cw s _

theorem setMic_stat (s : State) (m : Micro) : (s.setMic m).cw.stat = s.cw.stat := by
  rw [setMic_cw, Warp.setMicro_stat]

theorem running_of_canIssue {s : State} {t : Turn} (h : s.canIssue t = true) : (s.warp t.warp).stat = .running ∧
    ((s.warp t.warp).micro t.slotB).wait = .none ∧ ((s.warp t.warp).micro t.slotB).word < 3 := by
  unfold State.canIssue at h
  simp only [Bool.and_eq_true, decide_eq_true_eq, and_assoc] at h
  obtain ⟨hstat, -, hwait, hword, -⟩ := h
  exact ⟨hstat, hwait, hword⟩

/-- The slot that issues runs, waits for nothing and stands at a word of its packet. -/
theorem ready_of_held {s u : State} {t : Turn} (hissue : s.canIssue t = true) (hheld : HoldsPacket s u t) :
    u.cw.stat = .running ∧ u.mic.wait = .none ∧ u.mic.word < 3 := by
  obtain ⟨hstat, hwait, hword⟩ := running_of_canIssue hissue
  rcases (holdsPacket_iff s u t).mp hheld with ⟨-, rfl⟩ | ⟨-, -, -, hrun, v, ws, -, -, rfl⟩
  · exact ⟨hstat, hwait, hword⟩
  · rw [setMic_mic]
    exact ⟨hrun, hwait, hword⟩

/-- A group with nothing to flush and no access held back goes on, begun where it has not. -/
theorem issueGroup_runs {u : State} (hflush : u.flushDue = false) :
    let b := if u.mic.mid = true then u else u.beginGroup
    b.groupHeld = false → b.fenceHeld = false → u.issueGroup = b.runGroup := by
  intro b hheld hfence
  unfold State.issueGroup
  rw [hflush]
  have hb : u.groupAt u.cur = b := rfl
  simp only [hb, hheld, hfence, Bool.false_eq_true, if_false]

theorem beginGroup_cur (u : State) : u.beginGroup.cur = u.cur := rfl

theorem beginGroup_mic (u : State) : u.beginGroup.mic =
    { u.mic with src := u.cw.regs, group := u.mic.word, mid := true, pfx := [], did := [] } :=
  (congrArg (fun w => w.micro u.cur.slotB) (State.setCw_cw u _)).trans (Warp.micro_setMicro _ _ _)

theorem beginGroup_stat (u : State) : u.beginGroup.cw.stat = u.cw.stat :=
  (congrArg Warp.stat (State.setCw_cw u _)).trans (Warp.setMicro_stat _ _ _)

/-! ### A group of one word -/

/-- The address of a word of a packet gives its index (R41). -/
theorem trapIndex_myAddr {g : State} (h : g.mic.word < 3) : g.trapIndex g.myAddr = g.mic.word := by
  have haddr : g.myAddr - wordAddr (g.codeBase g.cur.warp) g.pc 0 = BitVec.ofNat 64 (4 * g.mic.word) := by
    show BitVec.ofNat 64 (g.codeBase g.cur.warp + 12 * g.pc + 4 * g.mic.word) -
      BitVec.ofNat 64 (g.codeBase g.cur.warp + 12 * g.pc) = _
    rw [BitVec.ofNat_add, BitVec.add_comm, BitVec.add_sub_cancel]
  rw [State.trapIndex, haddr, BitVec.toNat_ofNat]
  omega

theorem dispatched_mic (u : State) : (dispatched u.beginGroup).mic =
    { u.mic with src := u.cw.regs, group := u.mic.word, mid := true, pfx := [], did := [] } :=
  (timeOnly_dispatched _).mic.trans (beginGroup_mic u)

theorem dispatched_stat (u : State) : (dispatched u.beginGroup).cw.stat = u.cw.stat :=
  (timeOnly_dispatched _).stat.trans (beginGroup_stat u)

/-- Behind the last word of a group there is none that could trap. -/
theorem laterTrap_last {r : State} {w : W32} (hw : r.mic.pkt[r.mic.word]? = some w) (hlast : w.getLsbD 31 = false)
    (n : Nat) : State.laterTrap n r = none := by
  cases n with
  | zero => rfl
  | succ n =>
    have hget : r.mic.pkt.getD r.mic.word 0#32 = w := by rw [List.getD_eq_getElem?_getD, hw]; rfl
    exact if_neg (by rw [hget, chained, hlast]; exact Bool.false_ne_true)

theorem waitAlone_eq {g : State} {n : Nat} {w : W32} {i : Instr} (hw : g.mic.pkt[n]? = some w) (hi : decodeWord w = .ok i) :
    g.waitAlone n = exec i (g.setMic { g.mic with word := n, pfx := prefixesAt g.mic.pkt n }) := by
  unfold State.waitAlone
  rw [hw, Option.bind_some, instrOf_of_decodeWord hi]

/-- The micro state of a group in which a word's effect is left out, since it has met the poison that r records. -/
def withoutPoisoned (g r : State) : Micro :=
  { g.mic with
    did := g.mic.did ++ [g.trapIndex r.cw.waddr]
    wakes := Tab.put g.mic.wakes (g.trapIndex r.cw.waddr) (.poisoned r.cw.recorded.taddr.toNat) }

theorem runPoisoned_succ (n : Nat) (b g r : State) : State.runPoisoned (n + 1) b g r =
    match (g.setMic (withoutPoisoned g r)).runWords 3 with
    | .next u =>
      if u.cw.stat ≠ .running then
        if u.cw.recorded.cause = .poison then State.runPoisoned n b (g.setMic (withoutPoisoned g r)) u
        else .next (g.groupTraps u)
      else if u.mic.wait ≠ .none then
        let back (x : State) : State := x.setMic { x.mic with wakes := (withoutPoisoned g r).wakes }
        (back b).groupWaits (back g) u.mic.word u.mic.wait fun v => v.afterGroup b.cur
      else .next (u.poisonStop r.cw.recorded)
    | _ => .next (g.groupTraps r) := rfl

section
variable {g : State} {w : W32} {i : Instr} (hw : g.mic.pkt[g.mic.word]? = some w) (hi : decodeWord w = .ok i)
  (himx : opOf w ≠ 1) (hlast : w.getLsbD 31 = false)
include hw hi himx hlast

/-- A word alone in its group that meets poison on the IE has no effect, and the warp stops behind it (R382). -/
theorem runPoisoned_last (n : Nat) (b : State) {r : State} (hdid : g.mic.did = []) (hstat : g.cw.stat = .running)
    (hwait : g.mic.wait = .none) (haddr : g.trapIndex r.cw.waddr = g.mic.word) :
    let v := g.setMic { g.mic with
      did := [g.mic.word], wakes := Tab.put g.mic.wakes g.mic.word (.poisoned r.cw.recorded.taddr.toNat) }
    State.runPoisoned (n + 1) b g r = .next ((v.setMic v.mic.passed).poisonStop r.cw.recorded) := by
  intro v
  have hv : v.mic = { g.mic with
      did := [g.mic.word], wakes := Tab.put g.mic.wakes g.mic.word (.poisoned r.cw.recorded.taddr.toNat) } := setMic_mic g _
  have hrun : v.runWords 3 = .next (v.setMic v.mic.passed) :=
    runWords_last_did (by rw [hv]; exact hw) hi himx hlast 2 (by rw [hv]; exact List.mem_singleton_self _)
      ((setMic_stat g _).trans hstat) (by rw [hv]; exact hwait)
  have hrunning : (v.setMic v.mic.passed).cw.stat = .running := by rw [setMic_stat, setMic_stat, hstat]
  have hdone : (v.setMic v.mic.passed).mic.wait = .none := by rw [setMic_mic]; rfl
  have hm : withoutPoisoned g r = { g.mic with
      did := [g.mic.word], wakes := Tab.put g.mic.wakes g.mic.word (.poisoned r.cw.recorded.taddr.toNat) } := by
    rw [withoutPoisoned, haddr, hdid, List.nil_append]
  rw [runPoisoned_succ, hm, hrun]
  exact (if_neg (not_not_intro hrunning)).trans (if_neg (not_not_intro hdone))

end

/-! ### The obligation -/

section
variable {s u : State} {w : W32} {i : Instr} {r : State} (hw : u.mic.pkt[u.mic.word]? = some w)
  (hi : decodeWord w = .ok i) (himx : opOf w ≠ 1) (hlast : w.getLsbD 31 = false)
  (hr : (dispatched u.beginGroup).runWord i = .next r)
include hw hi himx hlast hr

/-- A word that is a group by itself is what the group runs. -/
theorem runWords_alone : (dispatched u.beginGroup).runWords 3 =
    .next (if r.cw.stat ≠ .running ∨ r.mic.wait ≠ .none then r else r.setMic r.mic.passed) :=
  runWords_last (by rw [dispatched_mic]; exact hw) hi himx hlast 2 (by rw [dispatched_mic]; exact List.not_mem_nil) hr

theorem runDispatched_alone_trap (htrap : TakesBack u.beginGroup r) :
    u.beginGroup.runDispatched (dispatched u.beginGroup) = .next ((dispatched u.beginGroup).groupTraps r) := by
  refine runDispatched_trap ?_ htrap
  rw [runWords_alone hw hi himx hlast hr, if_pos (.inl htrap.1)]

theorem runDispatched_alone_done (hstat : r.cw.stat = .running) (hwait : r.mic.wait = .none) :
    u.beginGroup.runDispatched (dispatched u.beginGroup) = .next ((r.setMic r.mic.passed).afterGroup u.cur) := by
  refine runDispatched_done ?_ ((setMic_stat _ _).trans hstat) (by rw [setMic_mic]; rfl)
  rw [runWords_alone hw hi himx hlast hr, if_neg (not_or.mpr ⟨not_not_intro hstat, not_not_intro hwait⟩)]

theorem runDispatched_alone_waits (hstat : r.cw.stat = .running) (hwait : r.mic.wait ≠ .none)
    (hword : r.mic.word = u.mic.word) (hpkt : r.mic.pkt = u.mic.pkt) :
    u.beginGroup.runDispatched (dispatched u.beginGroup) =
      u.beginGroup.groupWaits (dispatched u.beginGroup) u.mic.word r.mic.wait fun v => v.afterGroup u.cur := by
  have hrun := runWords_alone hw hi himx hlast hr
  rw [if_pos (.inr hwait)] at hrun
  rw [← hword]
  exact runDispatched_waits hrun hstat hwait (laterTrap_last (by rw [hword, hpkt]; exact hw) hlast 3)

theorem runDispatched_alone_poison (hready : u.cw.stat = .running ∧ u.mic.wait = .none ∧ u.mic.word < 3)
    (hstat : r.cw.stat ≠ .running) (htrap : ¬ TakesBack u.beginGroup r)
    (haddr : r.cw.waddr = (dispatched u.beginGroup).myAddr) :
    let g := dispatched u.beginGroup
    let v := g.setMic { g.mic with
      did := [u.mic.word], wakes := Tab.put g.mic.wakes u.mic.word (.poisoned r.cw.recorded.taddr.toNat) }
    u.beginGroup.runDispatched g = .next ((v.setMic v.mic.passed).poisonStop r.cw.recorded) := by
  obtain ⟨hrunning, hnone, hlt⟩ := hready
  have hmic := dispatched_mic u
  have hword : (dispatched u.beginGroup).mic.word = u.mic.word := by rw [hmic]
  have hrun := runWords_alone hw hi himx hlast hr
  rw [if_pos (.inl hstat)] at hrun
  refine (runDispatched_poison hrun hstat htrap).trans ?_
  rw [← hword]
  exact runPoisoned_last (by rw [hmic]; exact hw) hi himx hlast 2 _ (by rw [hmic])
    ((dispatched_stat u).trans hrunning) (by rw [hmic]; exact hnone)
    (by rw [haddr]; exact trapIndex_myAddr (by rw [hword]; exact hlt))

end

/-- Settles O54: the fetch, the check, the group that runs, and the words one by one. -/
theorem stepRunsDecoded : Obligations.StepRunsDecoded := by
  refine ⟨?fetch, ?check, ?group, runWord_eq, fun s n w i hw hi => runWords_succ hw hi⟩
  case fetch =>
    intro s e hq a hva hpage hcache htlb
    refine ⟨_, _, _, _, packetWords_rest hq hva hpage hcache htlb, ?_, toNat_wordOf_read _ _ 0 12 (by decide),
      toNat_wordOf_read _ _ 1 12 (by decide), toNat_wordOf_read _ _ 2 12 (by decide)⟩
    obtain ⟨hr, ho, hh, hw, -, -⟩ := hq
    unfold TagsOnly
    rw [(homeRead_rest s (e.phys a) 12 hr ho hh hw).1]
    rfl
  case check =>
    intro s v t ws j c hhead hissue x hpkt hws hbad
    exact step_of_bad_packet hhead hissue hpkt hws hbad
  case group =>
    intro s u t hhead hissue hheld hflush b hrange hfence
    have hcur := cur_of_held hheld
    have hready := ready_of_held hissue hheld
    have hstep : step s = b.runGroup := (step_of_held hhead hissue hheld).trans (issueGroup_runs hflush hrange hfence)
    have hbcur : b.cur = t := by
      rw [← hcur]
      show State.cur (if _ then _ else _) = _
      split <;> rfl
    refine ⟨groupRuns_of_step hbcur hstep, fun hmid => ?_⟩
    have hb : b = u.beginGroup := if_neg (by rw [hmid]; exact Bool.false_ne_true)
    rw [hb] at hstep ⊢
    intro g w i r hw hi himx hlast hr
    have hans {x : State} (h : u.beginGroup.runDispatched g = .next x) : step s = answers u.beginGroup x :=
      hstep.trans (runGroup_answers h)
    refine ⟨fun htrap => hans (runDispatched_alone_trap hw hi himx hlast hr htrap), fun hstat hwait => ?_,
      fun hstat hwait hword hpkt => ?_, fun hstat htrap haddr =>
        hans (runDispatched_alone_poison hw hi himx hlast hr hready hstat htrap haddr)⟩
    · rw [← hcur]
      exact hans (runDispatched_alone_done hw hi himx hlast hr hstat hwait)
    · have hwaits := runDispatched_alone_waits hw hi himx hlast hr hstat hwait hword hpkt
      rw [hcur] at hwaits
      have hgpkt : (dispatched u.beginGroup).mic.pkt = u.mic.pkt := by rw [dispatched_mic]
      refine ⟨fun hroom => hans (hwaits.trans (groupWaits_room _ _ _ _ hroom)), fun hroom v hv =>
        hans (hwaits.trans (groupWaits_alone _ _ hroom ?_))⟩
      refine (waitAlone_eq (by rw [hgpkt]; exact hw) hi).trans ?_
      rw [hgpkt]
      exact hv

end Sys2Proof.Laws

/-! ## Entries of rings (R363, R369) -/

namespace Sys2Proof.Laws

open Sys2Proof Sys2Proof.Machine Sys2Proof.Claims

/-- From s to t entries have gone to rings of partitions: what a home step may change has changed, and interrupts have been
signalled. -/
def PostStep (s t : State) : Prop :=
  t = { s with agenda := t.agenda, fresh := t.fresh, cores := t.cores, mem := t.mem, poison := t.poison
               zeroLines := t.zeroLines, l2 := t.l2, records := t.records, recordOrder := t.recordOrder
               holders := t.holders, windows := t.windows, flights := t.flights, parts := t.parts
               corrected := t.corrected, msix := t.msix }

theorem PostStep.refl (s : State) : PostStep s s := rfl

theorem PostStep.trans {s t u : State} (h : PostStep s t) (g : PostStep t u) : PostStep s u :=
  Eq.trans g (by rw [h])

theorem PostStep.foldl {α : Type} {f : State → α → State} (h : ∀ s a, PostStep s (f s a)) (l : List α) (s : State) :
    PostStep s (l.foldl f s) := by
  induction l generalizing s with
  | nil => exact .refl s
  | cons a l ih => exact (h s a).trans (ih (f s a))

theorem postStep_of_homeStep {s t : State} (h : HomeStep s t) : PostStep s t :=
  h.frame.trans (by rw [h.frame])

theorem postStep_setPart (s : State) (p : Nat) (x : Partition) : PostStep s (s.setPart p x) := rfl

theorem postStep_signalHost (s : State) (p v : Nat) : PostStep s (s.signalHost p v) := rfl

/-- An entry is written, its partition keeps where the next one goes, and the host is signalled. -/
theorem postStep_entry (s : State) (p a : Nat) (bs : List Byte) (x : Partition) :
    PostStep s (((s.homeWrite a bs).setPart p x).signalHost p 0) :=
  ((postStep_of_homeStep (homeStep_homeWrite s a bs)).trans (postStep_setPart _ p x)).trans (postStep_signalHost _ p 0)

/-- An event in its ring, or one that is lost (R369). -/
theorem postStep_postEvent (s : State) (p : Nat) (e : List Byte) : PostStep s (s.postEvent p e) := by
  unfold State.postEvent
  simp only
  split
  · exact postStep_setPart s p _
  · exact postStep_entry s p _ e _

theorem postStep_postAll (s : State) (e : List Byte) : PostStep s (s.postAll e) :=
  PostStep.foldl (fun s p => postStep_postEvent s p e) _ s

/-- Entries that wait for the completion ring go there while it has room (R369). -/
theorem postStep_drainBacklog (n : Nat) (s : State) (p : Nat) : PostStep s (State.drainBacklog n s p) := by
  induction n generalizing s with
  | zero => exact .refl s
  | succ n ih =>
    simp only [State.drainBacklog]
    split
    · exact .refl s
    split
    · exact .refl s
    refine PostStep.trans ?_ (ih _)
    split
    · exact postStep_entry s p _ _ _
    · exact (postStep_entry s p _ _ _).trans (postStep_signalHost _ p _)

theorem postStep_complete (s : State) (p tag status source queue rollbacks head vector : Nat) :
    PostStep s (s.complete p tag status source queue rollbacks head vector) :=
  (postStep_setPart s p _).trans (postStep_drainBacklog _ _ p)

end Sys2Proof.Laws

/-! ## Core samples and the published capacity table (R85, R129) -/

namespace Sys2Proof.Laws

open Sys2Proof Sys2Proof.Machine Sys2Proof.Claims

/-- The state once the I/O die's clock has been observed (log 4). -/
def observed (s : State) : State := s.now.2

theorem micros_observed (s : State) : s.micros ≤ (observed s).micros := Nat.le_add_right _ _

/-- An observation, after which only one core and the agenda have changed. -/
def TimedAt (c : Nat) (s t : State) : Prop :=
  t = { s with cores := t.cores, micros := t.micros, fresh := t.fresh, agenda := t.agenda } ∧
    s.micros ≤ t.micros ∧ ∀ j, j ≠ c → t.core j = s.core j

theorem TimedAt.later {s t : State} {c : Nat} (h : TimedAt c s t) (i : Instr) : TimedAt c s (t.later i) := by
  obtain ⟨hframe, hmicros, hcore⟩ := h
  exact ⟨by unfold State.later; rw [hframe], hmicros, hcore⟩

section
variable (s : State) (c : Nat)

theorem timedAt_observed : TimedAt c s (observed s) := ⟨rfl, micros_observed s, fun _ _ => rfl⟩

theorem timedAt_setCore (x : Core) : TimedAt c s ((observed s).setCore c x) :=
  ⟨rfl, micros_observed s, fun _ hj => State.core_setCore_ne _ _ _ hj⟩

/-- A core as a sample leaves it, of the times of whose droop events it keeps the last two milliseconds (R85). -/
def sampled (x : Core) (micros n : Nat) (out : Bool) : Core :=
  { x with
    hot := if 95 < n then true else if n < 88 then false else x.hot
    droops := x.droops.filter fun u => decide (micros < u + 2000)
    droopOut := x.droopOut || out }

theorem exec_coreSample (n : Nat) : exec (.coreSample c n) s = .next (
    let out := decide (5 ≤ ((s.core c).droops.filter fun u => decide ((observed s).micros < u + 1000)).length)
    let u := (observed s).setCore c (sampled (s.core c) (observed s).micros n out)
    if out then u.later (.droopExclusionEnd c) else u) := rfl

theorem exec_droopEvent : exec (.droopEvent c) s =
    .next ((observed s).setCore c { s.core c with droops := (s.core c).droops ++ [(observed s).micros] }) := rfl

theorem exec_droopExclusionEnd : exec (.droopExclusionEnd c) s =
    if (s.core c).droops.any fun u => decide ((observed s).micros < u + 2000) then
      .next (if (s.core c).droopOut then (observed s).later (.droopExclusionEnd c) else observed s)
    else .next ((observed s).setCore c { s.core c with droopOut := false, droops := [] }) := rfl

/-- A sample of a core (R85). -/
theorem coreSample_spec (n : Nat) : ∃ t, exec (.coreSample c n) s = .next t ∧ TimedAt c s t ∧
    let out := decide (5 ≤ ((s.core c).droops.filter fun u => decide (t.micros < u + 1000)).length)
    (out = true → Instr.droopExclusionEnd c ∈ t.agenda) ∧ (out = false → t.agenda = s.agenda) ∧
      t.core c = sampled (s.core c) t.micros n out := by
  refine ⟨_, exec_coreSample s c n, ?_⟩
  cases hout : decide (5 ≤ ((s.core c).droops.filter fun u => decide ((observed s).micros < u + 1000)).length) with
  | true =>
    exact ⟨(timedAt_setCore s c _).later _, fun _ => mem_later_agenda _ _, fun h => absurd (hout.symm.trans h) (by decide),
      (State.core_setCore_self _ _ _).trans (congrArg (sampled (s.core c) (observed s).micros n) hout.symm)⟩
  | false =>
    exact ⟨timedAt_setCore s c _, fun h => absurd (hout.symm.trans h) (by decide), fun _ => rfl,
      (State.core_setCore_self _ _ _).trans (congrArg (sampled (s.core c) (observed s).micros n) hout.symm)⟩

/-- The end of a core's droop exclusion comes two milliseconds after its latest droop event (R85). -/
theorem droopExclusionEnd_spec : ∃ t, exec (.droopExclusionEnd c) s = .next t ∧ TimedAt c s t ∧
    ((∃ u ∈ (s.core c).droops, t.micros < u + 2000) →
      t.core c = s.core c ∧ ((s.core c).droopOut = true → Instr.droopExclusionEnd c ∈ t.agenda)) ∧
    ((∀ u ∈ (s.core c).droops, u + 2000 ≤ t.micros) →
      t.core c = { s.core c with droopOut := false, droops := [] } ∧ t.agenda = s.agenda) := by
  rw [exec_droopExclusionEnd]
  by_cases hrecent : ∃ u ∈ (s.core c).droops, (observed s).micros < u + 2000
  · rw [if_pos (by simpa using hrecent)]
    obtain ⟨u, hu, hlt⟩ := hrecent
    have hnot (h : ∀ u ∈ (s.core c).droops, u + 2000 ≤ (observed s).micros) : False := Nat.not_le.mpr hlt (h u hu)
    cases hout : (s.core c).droopOut with
    | true =>
      exact ⟨_, rfl, (timedAt_observed s c).later _, fun _ => ⟨rfl, fun _ => mem_later_agenda _ _⟩, fun h => (hnot h).elim⟩
    | false =>
      exact ⟨_, rfl, timedAt_observed s c, fun _ => ⟨rfl, fun h => absurd h Bool.false_ne_true⟩, fun h => (hnot h).elim⟩
  · rw [if_neg (by simpa using hrecent)]
    exact ⟨_, rfl, timedAt_setCore s c _, fun h => absurd h hrecent, fun _ => ⟨State.core_setCore_self _ _ _, rfl⟩⟩

theorem exec_capacityTableUpdate : ∃ t, exec .capacityTableUpdate s = .next t ∧ t.generation = s.generation + 1 ∧
    t.capTable = s.cores.map (fun e => (e.1, e.2.published)) ∧ t.warps = s.warps := by
  have h := postStep_postAll { s with
    capTable := s.cores.map fun (e : Nat × Core) => (e.1, e.2.published)
    generation := s.generation + 1 } (4#8 :: List.replicate 15 0#8)
  exact ⟨_, rfl, by rw [h], by rw [h], by rw [h]⟩

end

/-- The published entry of a core has a bit for each phase, FULL first, at which it is offline, then its rows there. -/
theorem published_eq (x : Core) : ∃ flags, (∀ i < 4, flags.testBit i = x.offline (3 - i)) ∧
    x.published = [flags, x.rowsAt 3, x.rowsAt 2, x.rowsAt 1, x.rowsAt 0, 6528 - x.safeRows 3] :=
  ⟨_, fun i hi => by simp [testBit_bitSum, hi], rfl⟩

/-- Settles O46: a sample and a droop event change their core alone, and the table lists every core as it stands. -/
theorem coreSampleResults : Obligations.CoreSampleResults := by
  intro s c n
  refine ⟨coreSample_spec s c n, ⟨_, exec_droopEvent s c, timedAt_setCore s c _, rfl, State.core_setCore_self _ _ _⟩,
    droopExclusionEnd_spec s c, ?_⟩
  obtain ⟨t, ht, hgen, htable, hwarps⟩ := exec_capacityTableUpdate s
  refine ⟨t, ht, hgen, fun e he => ?_, by rw [htable, List.length_map], hwarps⟩
  obtain ⟨flags, hflags, hentry⟩ := published_eq e.2
  exact ⟨flags, hflags, by rw [htable, ← hentry]; exact List.mem_map_of_mem he⟩

end Sys2Proof.Laws

/-! ## A completion ring in the memory of another device (R369, R375) -/

namespace Sys2Proof.Laws

open Sys2Proof Sys2Proof.Machine Sys2Proof.Claims

/-- A device without routes whose partition 0 has its completion ring, empty, at the start of device 0's memory. -/
def farRing : State :=
  { parts := [(0, { completion := { base := 2 ^ 64, size := 64, configured := true } })] }

theorem quietHome_farRing : QuietHome farRing := ⟨rfl, rfl, rfl, rfl, rfl, rfl⟩

/-- No route reaches the ring, so that the entry of a completion with tag 1 arrives nowhere. -/
theorem mem_complete_farRing : (farRing.complete 0 1 0 0 0 0 0 0).mem = [] := by decide

/-- Refutes O34: the completion ring of `farRing` has room, but stands in the memory of another device that no route
reaches, so that its byte at 2^64 stays 0, where the entry's first byte is the tag, 1. -/
theorem not_completionEntries : ¬ Obligations.CompletionEntries := by
  intro h
  obtain ⟨hwritten, -⟩ := h.1 farRing 0 1 0 0 0 0 0 0 quietHome_farRing
  obtain ⟨-, -, -, -, hmem⟩ := hwritten rfl rfl (by decide)
  have hbyte := hmem (2 ^ 64)
  rw [mem_complete_farRing] at hbyte
  exact absurd hbyte (by decide)

end Sys2Proof.Laws

/-! ## Bytes of a record as numbers (R77, R79, R80) -/

namespace Sys2Proof.Laws

open Sys2Proof Sys2Proof.Machine Sys2Proof.Claims

theorem numAt_succ (f : Nat → Byte) (j n : Nat) : numAt f j (n + 1) = numAt f j n + (f (j + n)).toNat * 256 ^ n := by
  simp [numAt, List.range_succ]

theorem numAt_lt (f : Nat → Byte) (j n : Nat) : numAt f j n < 256 ^ n := by
  induction n with
  | zero => simp [numAt]
  | succ n ih =>
    have hbyte := (f (j + n)).isLt
    have hmul : (f (j + n)).toNat * 256 ^ n ≤ 255 * 256 ^ n := Nat.mul_le_mul_right _ (by omega)
    rw [numAt_succ, Nat.pow_succ]
    omega

/-- A run of bytes is its first a bytes, and behind them the rest. -/
theorem numAt_append (f : Nat → Byte) (j a b : Nat) : numAt f j (a + b) = numAt f j a + 256 ^ a * numAt f (j + a) b := by
  induction b with
  | zero => simp [numAt]
  | succ b ih => rw [← Nat.add_assoc, numAt_succ, ih, numAt_succ, Nat.mul_add, Nat.pow_add, Nat.add_assoc, Nat.add_assoc,
      Nat.mul_left_comm, Nat.mul_comm (256 ^ a)]

/-- Bytes a to a + b − 1 of a number's bytes. -/
theorem numAt_div_mod (f : Nat → Byte) (j a b c : Nat) : numAt f j (a + b + c) / 256 ^ a % 256 ^ b = numAt f (j + a) b := by
  rw [Nat.add_assoc, numAt_append, Nat.add_mul_div_left _ _ (Nat.pow_pos (by decide)), Nat.div_eq_of_lt (numAt_lt f j a),
    Nat.zero_add, numAt_append, Nat.add_mul_mod_self_left, Nat.mod_eq_of_lt (numAt_lt _ _ _)]

theorem leNat_map_range (f : Nat → Byte) (n : Nat) : leNat ((List.range n).map f) = numAt f 0 n := by
  rw [leNat_eq_sum (m := n) _ (by simp), numAt]
  congr 1
  refine List.map_congr_left fun i hi => ?_
  simp [List.mem_range.mp hi]

/-- A slice of a run of bytes is a run of bytes. -/
theorem take_drop_map_range (f : Nat → Byte) {off n m : Nat} (h : off + n ≤ m) :
    (((List.range m).map f).drop off).take n = (List.range n).map fun i => f (off + i) := by
  refine List.ext_getElem (by simp; omega) fun i h1 h2 => ?_
  simp

theorem fld_map_range (f : Nat → Byte) {off n m : Nat} (h : off + n ≤ m) :
    fld ((List.range m).map f) off n = numAt f off n := by
  rw [fld, take_drop_map_range f h, leNat_map_range]
  simp [numAt]

theorem zeros_map_range (f : Nat → Byte) {off n m : Nat} (h : off + n ≤ m) :
    zeros ((List.range m).map f) off n = true ↔ ZerosAt f off n := by
  rw [zeros, take_drop_map_range f h]
  simp [ZerosAt]

/-- The fields of a record's header by its bytes (R77). -/
theorem headerOf_numAt (f : Nat → Byte) : let h := headerOf (numAt f 0 8)
    h.tag = numAt f 5 2 ∧ h.units = numAt f 4 1 ∧ h.irq = decide (numAt f 3 1 % 2 = 1) ∧ h.kind = numAt f 2 1 ∧
      h.rev = numAt f 0 1 ∧ (h.bad = true ↔ BadHeader f) := by
  have hbyte (j : Nat) : numAt f j 1 < 256 := numAt_lt f j 1
  have htag : bits (numAt f 0 8) 55 40 = numAt f 5 2 := by
    rw [bits, Nat.shiftRight_eq_div_pow]; exact numAt_div_mod f 0 5 2 1
  have hunits : bits (numAt f 0 8) 39 32 = numAt f 4 1 := by
    rw [bits, Nat.shiftRight_eq_div_pow]; exact numAt_div_mod f 0 4 1 3
  have hflags : numAt f 0 8 / 2 ^ 24 % 256 = numAt f 3 1 := numAt_div_mod f 0 3 1 4
  have hkind : bits (numAt f 0 8) 23 16 = numAt f 2 1 := by
    rw [bits, Nat.shiftRight_eq_div_pow]; exact numAt_div_mod f 0 2 1 5
  have hzero : bits (numAt f 0 8) 15 8 = numAt f 1 1 := by
    rw [bits, Nat.shiftRight_eq_div_pow]; exact numAt_div_mod f 0 1 1 6
  have hrev : bits (numAt f 0 8) 7 0 = numAt f 0 1 := by
    have := numAt_div_mod f 0 0 1 7
    rw [Nat.pow_zero, Nat.div_one] at this
    exact this
  have hlast : bits (numAt f 0 8) 63 56 = numAt f 7 1 := by
    rw [bits, Nat.shiftRight_eq_div_pow]; exact numAt_div_mod f 0 7 1 0
  have hrest : bits (numAt f 0 8) 31 25 = numAt f 3 1 / 2 := by
    rw [bits, Nat.shiftRight_eq_div_pow, show (2 : Nat) ^ 25 = 2 ^ 24 * 2 from rfl, ← Nat.div_div_eq_div_mul,
      show 31 + 1 - 25 = 7 from rfl]
    omega
  have hirq : (numAt f 0 8).testBit 24 = decide (numAt f 3 1 % 2 = 1) := by
    rw [Nat.testBit_eq_decide_div_mod_eq]
    exact decide_eq_decide.mpr (by omega)
  refine ⟨htag, hunits, hirq, hkind, hrev, ?_⟩
  have h3 := hbyte 3
  have hhalf : numAt f 3 1 / 2 ≠ 0 ↔ 1 < numAt f 3 1 := by omega
  simp only [headerOf, BadHeader, hunits, hkind, hzero, hrev, hlast, hrest, Bool.or_eq_true, bne_iff_ne,
    decide_eq_true_eq, hhalf, or_assoc]
  exact or_congr_right (or_congr_right or_left_comm)

end Sys2Proof.Laws
/-! ## The record at the head of a queue (R77, R78) -/

namespace Sys2Proof.Laws

open Sys2Proof Sys2Proof.Machine Sys2Proof.Claims

theorem put_put {α : Type} (t : Tab α) (k : Nat) (a b : α) : Tab.put (Tab.put t k a) k b = Tab.put t k b := by
  induction t with
  | nil => simp [Tab.put]
  | cons e t ih =>
    obtain ⟨j, c⟩ := e
    by_cases hlt : j < k
    · simp [Tab.put, hlt, ih]
    · by_cases heq : j = k
      · simp [Tab.put, heq]
      · simp [Tab.put, hlt, heq]

theorem setQueue_setQueue (s : State) (k : Nat) (x y : Queue) : (s.setQueue k x).setQueue k y = s.setQueue k y := by
  simp [State.setQueue, put_put]

theorem tagsOnly_refl (s : State) : TagsOnly s s := rfl

theorem tagsOnly_trans {s t u : State} (h : TagsOnly s t) (g : TagsOnly t u) : TagsOnly s u :=
  Eq.trans g (by rw [h])

theorem quietHome_of_tagsOnly {s u : State} (h : TagsOnly s u) (hq : QuietHome s) : QuietHome u := by
  rw [h]; exact hq

/-- A read at a home at rest (R286). -/
theorem homeRead_quiet {s : State} (hq : QuietHome s) (p n : Nat) :
    TagsOnly s (s.homeRead p n).1 ∧ (s.homeRead p n).2 = s.mem.read p n := by
  obtain ⟨hr, ho, hh, hw, -, -⟩ := hq
  exact homeRead_rest s p n hr ho hh hw

theorem read_eq_map (m : Memory) (a n : Nat) : m.read a n = (List.range n).map fun i => m.byte (a + i) := by
  induction n generalizing a with
  | zero => rfl
  | succ n ih =>
    rw [Memory.read, ih, List.range_succ_eq_map, List.map_cons, List.map_map]
    simp [Function.comp_def, Nat.add_comm 1, Nat.add_assoc]

section
variable {s : State} {part queue : Nat}

/-- The units of a queue from its head on, as the command processor reads them. -/
theorem queueUnits_quiet (hq : QuietHome s) (n : Nat) : ∃ u, TagsOnly s u ∧
    s.queueUnits part queue n = (u, (List.range (64 * n)).map (recordByte s part queue)) := by
  induction n with
  | zero => exact ⟨s, tagsOnly_refl s, rfl⟩
  | succ n ih =>
    obtain ⟨u, hu, hread⟩ := ih
    let q := s.queue (qkey part queue)
    obtain ⟨hv, hbytes⟩ := homeRead_quiet (quietHome_of_tagsOnly hu hq) (q.base + 64 * ((q.head + n) % q.size)) 64
    have hmem : u.mem = s.mem := by rw [hu]
    have hunit : (List.range 64).map (fun i => s.mem.byte (q.base + 64 * ((q.head + n) % q.size) + i)) =
        ((List.range 64).map (64 * n + ·)).map (recordByte s part queue) := by
      rw [List.map_map]
      refine List.map_congr_left fun i hi => ?_
      have hi64 := List.mem_range.mp hi
      have hdiv : (64 * n + i) / 64 = n := by omega
      have hmod : (64 * n + i) % 64 = i := by omega
      simp only [Function.comp_def, recordByte, hdiv, hmod]
      rfl
    have hstep : s.queueUnits part queue (n + 1) =
        ((u.homeRead (q.base + 64 * ((q.head + n) % q.size)) 64).1,
          (List.range (64 * n)).map (recordByte s part queue) ++ (u.homeRead (q.base + 64 * ((q.head + n) % q.size)) 64).2) := by
      unfold State.queueUnits at hread ⊢
      rw [List.range_succ, List.foldl_append, hread]
      rfl
    refine ⟨_, tagsOnly_trans hu hv, hstep.trans ?_⟩
    rw [hbytes, read_eq_map, hmem, hunit, Nat.mul_succ, List.range_add, List.map_append]

/-- Nothing more is fetched where nothing more has been written. -/
theorem fetch_at_tail (h : (s.queue (qkey part queue)).head = (s.queue (qkey part queue)).tail) (n : Nat) :
    State.fetch n s part queue = s := by
  cases n with
  | zero => rfl
  | succ n => exact if_pos (.inr (.inr h))

theorem queue_completeAt (s : State) (tag status head : Nat) (irq : Bool) (k : Nat) :
    (s.completeAt part queue tag status head irq).queue k = s.queue k := by
  have h : PostStep s (s.completeAt part queue tag status head irq) := postStep_complete s part tag status 0 queue 0 head _
  rw [h]
  rfl

/-- The last record fetched so far is done with: its queue's head stands at its tail, and it completes. -/
theorem recordDone_last {h : Header} (status : Nat)
    (htail : (s.queue (qkey part queue)).tail =
      ((s.queue (qkey part queue)).head + h.length) % (s.queue (qkey part queue)).size) :
    let q := s.queue (qkey part queue)
    s.recordDone part queue h status =
      (s.setQueue (qkey part queue) { q with head := q.tail }).completeAt part queue h.tag status q.tail h.irq := by
  intro q
  have hadvance : s.advance part queue h.length = s.setQueue (qkey part queue) { q with head := q.tail } := by
    simp only [State.advance, ← htail, q]
  unfold State.recordDone State.completeRecord
  simp only [hadvance, State.queue_setQueue_self]
  refine fetch_at_tail ?_ _
  rw [queue_completeAt, State.queue_setQueue_self]

/-- How far a ring's tail stands ahead of its head. -/
theorem ring_distance {head tail size n : Nat} (hhead : head < size) (hn : n < size) (htail : tail = (head + n) % size) :
    (tail + size - head) % size = n := by
  by_cases hwrap : head + n < size
  · rw [htail, Nat.mod_eq_of_lt hwrap, show head + n + size - head = n + size by omega, Nat.add_mod_right,
      Nat.mod_eq_of_lt hn]
  · have hmod : (head + n) % size = head + n - size := by
      rw [Nat.mod_eq_sub_mod (by omega), Nat.mod_eq_of_lt (by omega)]
    rw [htail, hmod, show head + n - size + size - head = n by omega, Nat.mod_eq_of_lt hn]

/-- The last record fetched so far as the command processor finds it. -/
theorem headRecord_last {kind units : Nat} {f : Nat → Byte} (hf : recordByte s part queue = f) (hk3 : kind ≤ 3)
    (hq : QuietHome s) (hr : LastRecord s part queue kind units) :
    ∃ u h, TagsOnly s u ∧ s.headRecord part queue kind = some (u, h, (List.range (64 * units)).map f) ∧
      h = headerOf (numAt f 0 8) ∧ h.tag = numAt f 5 2 ∧ h.irq = decide (numAt f 3 1 = 1) ∧ h.length = units ∧
      h.rev = numAt f 0 1 := by
  simp only [LastRecord, hf] at hr
  obtain ⟨hbound, hhold, hskip, hhead, hsize, htail, hzero, hflag, hkind, hclear, hrev, hrev', hunits, hlen⟩ := hr
  obtain ⟨htag, hu, hirq, hk, hrv, hbad⟩ := headerOf_numAt f
  obtain ⟨u, htags, hread⟩ := queueUnits_quiet (part := part) (queue := queue) hq units
  obtain ⟨v, -, hfirst⟩ := queueUnits_quiet (part := part) (queue := queue) hq 1
  rw [hf] at hread hfirst
  have hheader : fld (s.queueUnits part queue 1).2 0 8 = numAt f 0 8 := by
    rw [hfirst]; exact fld_map_range f (by decide)
  have hpos : 1 ≤ units := by split at hlen <;> omega
  have hgood : (headerOf (numAt f 0 8)).bad = false := by
    rw [← Bool.not_eq_true, hbad]
    rintro (h | h | h | h | h | h | h)
    · exact h hzero
    · exact Nat.not_lt.mpr hflag h
    · exact Nat.not_lt.mpr hk3 (hkind ▸ h)
    · exact h hclear
    · exact Nat.ne_of_gt hrev h
    · exact Nat.not_lt.mpr hrev' h
    · exact h (by rw [hkind, hunits]; exact hlen)
  have hlength : (headerOf (numAt f 0 8)).length = units := by
    rw [Header.length, hu, hunits]
    exact Nat.max_eq_left hpos
  have hdist := ring_distance hhead hsize htail
  have hne : ¬ (s.queue (64 * part + queue)).head = (s.queue (64 * part + queue)).tail := by
    intro h
    rw [h, Nat.add_sub_cancel_left, Nat.mod_self] at hdist
    omega
  refine ⟨u, _, htags, ?_, rfl, htag, hirq.trans (decide_eq_decide.mpr (by omega)), hlength, hrv⟩
  simp [State.headRecord, qkey, hheader, hgood, hlength, hread, hk, hkind, hbound, hhold, hskip, hne, hdist]

end

end Sys2Proof.Laws

/-! ## Command records (R77 to R82) -/

namespace Sys2Proof.Laws

open Sys2Proof Sys2Proof.Machine Sys2Proof.Claims

/-- The last record fetched so far, of a kind, of some units and with the bytes f, as the command processor finds it: the
state once it is read, its header, and the queue that stands at its tail behind it. -/
structure Found (s : State) (part queue kind units : Nat) (f : Nat → Byte) (u : State) (h : Header) : Prop where
  tags : TagsOnly s u
  found : s.headRecord part queue kind = some (u, h, (List.range (64 * units)).map f)
  header : h = headerOf (numAt f 0 8)
  tag : h.tag = numAt f 5 2
  irq : h.irq = decide (numAt f 3 1 = 1)
  rev : h.rev = numAt f 0 1
  queue_eq : u.queue (qkey part queue) = s.queue (qkey part queue)
  tail : (s.queue (qkey part queue)).tail =
    ((s.queue (qkey part queue)).head + h.length) % (s.queue (qkey part queue)).size

theorem beq_one (n : Nat) : (n == 1) = decide (n = 1) := rfl

/-- A queue whose head stands at its tail. -/
def Queue.drained (q : Queue) : Queue := { q with head := q.tail }

section
variable {s u : State} {part queue kind units : Nat} {f : Nat → Byte} {h : Header}

theorem found_of_lastRecord (hf : recordByte s part queue = f) (hq : QuietHome s) (hk3 : kind ≤ 3)
    (hr : LastRecord s part queue kind units) : ∃ u h, Found s part queue kind units f u h := by
  obtain ⟨u, h, htags, hfound, hh, htag, hirq, hlength, hrev⟩ := headRecord_last hf hk3 hq hr
  obtain ⟨-, -, -, -, -, htail, -⟩ := hr
  exact ⟨u, h, htags, hfound, hh, htag, hirq, hrev, by rw [htags]; rfl, by rw [hlength]; exact htail⟩

/-- A state with the queue that a record was found in passes that record. -/
theorem Found.advance_of_queue (hfound : Found s part queue kind units f u h) {t : State}
    (ht : t.queue (qkey part queue) = s.queue (qkey part queue)) :
    t.advance part queue h.length = t.setQueue (qkey part queue) (Queue.drained (s.queue (qkey part queue))) := by
  simp only [State.advance, Queue.drained, ht, ← hfound.tail]

theorem Found.advance (hfound : Found s part queue kind units f u h) :
    u.advance part queue h.length = u.setQueue (qkey part queue) (Queue.drained (s.queue (qkey part queue))) :=
  hfound.advance_of_queue hfound.queue_eq

/-- Behind the last record nothing is fetched. -/
theorem Found.fetch_behind (hfound : Found s part queue kind units f u h) {t : State}
    (ht : t.queue (qkey part queue) = s.queue (qkey part queue)) (n : Nat) :
    State.fetch n (t.advance part queue h.length) part queue =
      t.setQueue (qkey part queue) (Queue.drained (s.queue (qkey part queue))) := by
  rw [hfound.advance_of_queue ht, fetch_at_tail (by rw [State.queue_setQueue_self]; rfl)]

theorem Found.recordDone (hfound : Found s part queue kind units f u h) (status : Nat) :
    u.recordDone part queue h status = (u.setQueue (qkey part queue) (Queue.drained (s.queue (qkey part queue)))).completeAt
      part queue (numAt f 5 2) status (s.queue (qkey part queue)).tail (decide (numAt f 3 1 = 1)) := by
  have hdone := recordDone_last (s := u) status (by rw [hfound.queue_eq]; exact hfound.tail)
  rw [hfound.queue_eq, hfound.tag, hfound.irq] at hdone
  exact hdone

end

/-- A record that completes as soon as it is read. -/
def Passes (s : State) (part queue : Nat) (f : Nat → Byte) (i : Instr) (status : Nat) : Prop :=
  ∃ u, TagsOnly s u ∧ exec i s = .next ((u.setQueue (qkey part queue) (Queue.drained (s.queue (qkey part queue)))).completeAt
    part queue (numAt f 5 2) status (s.queue (qkey part queue)).tail (decide (numAt f 3 1 = 1)))

section
variable {s : State} {part queue : Nat} {f : Nat → Byte}

theorem nopRecord_passes (hf : recordByte s part queue = f) (hq : QuietHome s) (hr : LastRecord s part queue 0 1) :
    Passes s part queue f (.nopRecord part queue) (if zeros ((List.range 64).map f) 8 56 then 0 else 5) := by
  obtain ⟨u, h, hfound⟩ := found_of_lastRecord hf hq (by decide) hr
  refine ⟨u, hfound.tags, ?_⟩
  show execNopRecord part queue s = _
  unfold execNopRecord
  rw [hfound.found]
  exact congrArg _ (hfound.recordDone _)

theorem semaphoreOk_iff (f : Nat → Byte) : semaphoreOk ((List.range 64).map f) = true ↔ SemaphoreBody f := by
  have hzeros := zeros_map_range f (off := 25) (n := 39) (m := 64) (by decide)
  simp only [semaphoreOk, SemaphoreBody, Bool.and_eq_true, hzeros, beq_iff_eq, decide_eq_true_eq, and_assoc,
    fld_map_range f (show 8 + 8 ≤ 64 by decide), fld_map_range f (show 24 + 1 ≤ 64 by decide)]

/-- A WAIT or SIGNAL record whose body breaks R79 completes as soon as it is read. -/
theorem semaphoreRecord_passes (hf : recordByte s part queue = f) (hq : QuietHome s) {kind : Nat} (hk3 : kind ≤ 3)
    (hr : LastRecord s part queue kind 1) (hbad : ¬ SemaphoreBody f) {i : Instr}
    (hexec : ∀ u h, s.headRecord part queue kind = some (u, h, (List.range 64).map f) →
      semaphoreOk ((List.range 64).map f) = false → exec i s = .next (u.recordDone part queue h 5)) :
    Passes s part queue f i 5 := by
  obtain ⟨u, h, hfound⟩ := found_of_lastRecord hf hq hk3 hr
  have hno : semaphoreOk ((List.range 64).map f) = false := Bool.eq_false_iff.mpr (mt (semaphoreOk_iff f).mp hbad)
  exact ⟨u, hfound.tags, (hexec u h hfound.found hno).trans (congrArg _ (hfound.recordDone 5))⟩

theorem waitRecord_passes (hf : recordByte s part queue = f) (hq : QuietHome s) (hr : LastRecord s part queue 2 1)
    (hbad : ¬ SemaphoreBody f) : Passes s part queue f (.waitRecord part queue) 5 := by
  refine semaphoreRecord_passes hf hq (by decide) hr hbad fun u h hfound hno => ?_
  show execWaitRecord part queue s = _
  simp [execWaitRecord, hfound, hno]

theorem signalRecord_passes (hf : recordByte s part queue = f) (hq : QuietHome s) (hr : LastRecord s part queue 3 1)
    (hbad : ¬ SemaphoreBody f) : Passes s part queue f (.signalRecord part queue) 5 := by
  refine semaphoreRecord_passes hf hq (by decide) hr hbad fun u h hfound hno => ?_
  show execSignalRecord part queue s = _
  simp [execSignalRecord, hfound, hno]

theorem waitRecord_waits (hf : recordByte s part queue = f) (hq : QuietHome s) (hr : LastRecord s part queue 2 1)
    (hgood : SemaphoreBody f) : ∃ u, TagsOnly s u ∧ exec (.waitRecord part queue) s = .next ((u.setQueue (qkey part queue)
      { Queue.drained (s.queue (qkey part queue)) with
        hold := .wait (numAt f 8 8) (numAt f 16 8) (decide (numAt f 24 1 = 1)) (numAt f 5 2)
          (decide (numAt f 3 1 = 1)) }).later (.waitProceed part queue)) := by
  obtain ⟨u, h, hfound⟩ := found_of_lastRecord hf hq (by decide) hr
  refine ⟨u, hfound.tags, ?_⟩
  have hok := (semaphoreOk_iff f).mpr hgood
  show execWaitRecord part queue s = _
  simp only [execWaitRecord, hfound.found, Nat.mul_one, hok, Bool.not_true, Bool.false_eq_true, if_false, hfound.advance,
    State.queue_setQueue_self, setQueue_setQueue, hfound.tag, hfound.irq,
    fld_map_range f (show 8 + 8 ≤ 64 by decide), fld_map_range f (show 16 + 8 ≤ 64 by decide),
    fld_map_range f (show 24 + 1 ≤ 64 by decide), beq_one]

theorem openOf_congr {s t : State} (h : t.launches = s.launches) (part queue : Nat) : t.openOf part queue = s.openOf part queue := by
  unfold State.openOf State.launch
  rw [h]

theorem signalRecord_waits (hf : recordByte s part queue = f) (hq : QuietHome s) (hr : LastRecord s part queue 3 1)
    (hgood : SemaphoreBody f) : ∃ u, TagsOnly s u ∧
      exec (.signalRecord part queue) s = .next ((u.setQueue (qkey part queue)
        { Queue.drained (s.queue (qkey part queue)) with
          signals := (s.queue (qkey part queue)).signals ++
            [{ addr := numAt f 8 8, value := numAt f 16 8, add := decide (numAt f 24 1 = 1), tag := numAt f 5 2,
               irq := decide (numAt f 3 1 = 1), head := (s.queue (qkey part queue)).tail,
               launches := s.openOf part queue }] }).later (.signalUpdate part queue)) := by
  obtain ⟨u, h, hfound⟩ := found_of_lastRecord hf hq (by decide) hr
  refine ⟨u, hfound.tags, ?_⟩
  have hok := (semaphoreOk_iff f).mpr hgood
  have hopen (x : Queue) : (u.setQueue (qkey part queue) x).openOf part queue = s.openOf part queue :=
    openOf_congr (by rw [hfound.tags]; rfl) part queue
  show execSignalRecord part queue s = _
  simp only [execSignalRecord, hfound.found, Nat.mul_one, hok, Bool.not_true, Bool.false_eq_true, if_false, hfound.advance,
    State.queue_setQueue_self, setQueue_setQueue, hfound.tag, hfound.irq, hopen,
    fld_map_range f (show 8 + 8 ≤ 64 by decide), fld_map_range f (show 16 + 8 ≤ 64 by decide),
    fld_map_range f (show 24 + 1 ≤ 64 by decide), beq_one]
  rw [fetch_at_tail (by rw [State.queue_setQueue_self]; rfl)]
  rfl

end

section
variable {s : State} {part queue : Nat}

theorem waitProceed_completes {addr value tag : Nat} {eq irq : Bool} {u : State} {bs : List Byte}
    (hwait : (s.queue (qkey part queue)).hold = .wait addr value eq tag irq)
    (htail : (s.queue (qkey part queue)).head = (s.queue (qkey part queue)).tail)
    (hread : s.cpRead (s.queue (qkey part queue)).ctx 1 addr 8 = some (u, bs))
    (hcond : if eq then leNat bs = value else value ≤ leNat bs) :
    exec (.waitProceed part queue) s = .next ((u.setQueue (qkey part queue)
      { s.queue (qkey part queue) with hold := .free }).completeAt part queue tag 0 (s.queue (qkey part queue)).head irq) := by
  have hholds : s.waitHolds part queue = true := by
    simp only [State.waitHolds, hwait, hread]
    cases eq <;> simpa using hcond
  show execWaitProceed part queue s = _
  simp only [execWaitProceed, hholds, Bool.not_true, Bool.false_eq_true, if_false, hwait, hread, Option.map_some,
    Option.getD_some, State.completeRecord, State.queue_setQueue_self]
  rw [fetch_at_tail (by rw [queue_completeAt, State.queue_setQueue_self]; exact htail)]

end

section
variable {s : State} {part queue : Nat} {g : Signal} (hg : (s.queue (qkey part queue)).signals = [g])
include hg

theorem signalUpdate_waits (hopen : ∃ l ∈ g.launches, (s.launch l).phase ≠ .done) :
    exec (.signalUpdate part queue) s = .next s := by
  have hready : s.signalReady part queue = false := by
    simpa [State.signalReady, hg, State.done] using hopen
  show execSignalUpdate part queue s = _
  simp [execSignalUpdate, hg, hready]

theorem signalReady_of_done (hdone : ∀ l ∈ g.launches, (s.launch l).phase = .done) : s.signalReady part queue = true := by
  simpa [State.signalReady, hg, State.done] using hdone

/-- A signal whose launches are done, and whose semaphore does not translate (log 40). -/
theorem signalUpdate_untranslated (hdone : ∀ l ∈ g.launches, (s.launch l).phase = .done)
    (hx : (s.setQueue (qkey part queue) { s.queue (qkey part queue) with signals := [] }).cpXlate
      (s.queue (qkey part queue)).ctx g.addr .atomic = none) :
    exec (.signalUpdate part queue) s = .next ((s.setQueue (qkey part queue) { s.queue (qkey part queue) with
      signals := [] }).completeAt part queue g.tag 5 g.head g.irq) := by
  show execSignalUpdate part queue s = _
  simp [execSignalUpdate, hg, signalReady_of_done hg hdone, hx]

/-- A signal whose launches are done stores or adds to its semaphore (R79). -/
theorem signalUpdate_updates (hdone : ∀ l ∈ g.launches, (s.launch l).phase = .done) {u : State} {p : Nat}
    (hx : (s.setQueue (qkey part queue) { s.queue (qkey part queue) with signals := [] }).cpXlate
      (s.queue (qkey part queue)).ctx g.addr .atomic = some (u, p)) :
    exec (.signalUpdate part queue) s = .next (((u.homeRead p 8).1.homeWrite p (leBytes
      (if g.add then (leNat (u.homeRead p 8).2 + g.value) % 2 ^ 64 else g.value) 8)).completeAt
        part queue g.tag 0 g.head g.irq) := by
  show execSignalUpdate part queue s = _
  simp [execSignalUpdate, hg, signalReady_of_done hg hdone, hx]

end

end Sys2Proof.Laws

namespace Sys2Proof.Laws

open Sys2Proof Sys2Proof.Machine Sys2Proof.Claims

theorem or_one_eq (n : Nat) : n ||| 1 = n / 2 * 2 + 1 := by
  have hdiv : (n ||| 1) / 2 = n / 2 := by rw [Nat.or_div_two]; exact Nat.or_zero _
  have hmod : (n ||| 1) % 2 = 1 := Nat.or_mod_two_eq_one.mpr (.inr rfl)
  omega

/-- A launch record as its revision reads it (R80, R82). -/
theorem holdsRecord_launchOf {f : Nat → Byte} {units : Nat} {h : Header} (x : Partition) (hrev : h.rev = numAt f 0 1)
    (htag : h.tag = numAt f 5 2) (hunits : units = if numAt f 0 1 = 3 then 2 else 1) :
    HoldsRecord f (numAt f 0 1) x (launchOf h ((List.range (64 * units)).map f) x) := by
  have hfld (off n : Nat) (hle : off + n ≤ 64) : fld ((List.range (64 * units)).map f) off n = numAt f off n :=
    fld_map_range f (by split at hunits <;> omega)
  have hbit (n i : Nat) : n.testBit i = true ↔ n / 2 ^ i % 2 = 1 := by
    rw [Nat.testBit_eq_decide_div_mod_eq, decide_eq_true_eq]
  refine ⟨?_, ⟨?_, ?_⟩, ?_, ?_, ?_, ?_, ?_⟩
  · simp [launchFields, launchOf, hfld, htag]
  · simp [launchOf, hfld]
  · by_cases h1 : numAt f 0 1 = 1 <;> simp [launchOf, hfld, hrev, h1]
  · simp only [launchOf, hfld 47 1 (by decide), hrev, or_one_eq]
  · simp only [launchOf, hfld 60 1 (by decide), hrev]
  · by_cases h1 : numAt f 0 1 = 1
    · simp [launchOf, hrev, h1]
    · by_cases h3 : numAt f 0 1 = 3 <;> simp [launchOf, hrev, h1, h3, hfld, hbit]
  · intro h3
    have hfld2 (off n : Nat) (hle : off + n ≤ 128) : fld ((List.range (64 * units)).map f) off n = numAt f off n :=
      fld_map_range f (by rw [if_pos h3] at hunits; omega)
    simp [launchFields3, launchOf, hrev, h3, hfld2]
  · intro h3
    simp [launchOf, hrev, h3]

section
variable {s : State} {part queue units : Nat} {f : Nat → Byte} {h : Header} {r : LaunchRec}

theorem coresOf_congr {s t : State} (h : t.layout = s.layout) (p : Nat) : t.coresOf p = s.coresOf p := by
  unfold State.coresOf State.stacksOf
  rw [h]

theorem launchRecord_passes (hf : recordByte s part queue = f) (hq : QuietHome s) (hr : LastRecord s part queue 1 units)
    (hh : h = headerOf (numAt f 0 8)) (hrec : r = launchOf h ((List.range (64 * units)).map f) (s.part part))
    (hbad : ¬ (mapOk h ((List.range (64 * units)).map f) r = true ∧ recordOk r (s.coresOf part).length = true)) :
    Passes s part queue f (.launchRecord part queue) 5 := by
  obtain ⟨u, g, hfound⟩ := found_of_lastRecord hf hq (by decide) hr
  have hg : g = h := hfound.header.trans hh.symm
  subst hg
  have hpart : u.part part = s.part part := by rw [hfound.tags]; rfl
  have hcores : u.coresOf part = s.coresOf part := coresOf_congr (by rw [hfound.tags]) part
  refine ⟨u, hfound.tags, ?_⟩
  show execLaunchRecord part queue s = _
  unfold execLaunchRecord
  rw [hfound.found]
  simp only [hpart, hcores, ← hrec]
  refine (if_pos ?_).trans (congrArg _ (hfound.recordDone 5))
  simpa using Decidable.not_and_iff_not_or_not.mp hbad

/-- A launch that a good record makes: it waits for its placement (R80). -/
theorem launchRecord_launches (hf : recordByte s part queue = f) (hq : QuietHome s) (hr : LastRecord s part queue 1 units)
    (hh : h = headerOf (numAt f 0 8)) (hrec : r = launchOf h ((List.range (64 * units)).map f) (s.part part))
    (hgood : mapOk h ((List.range (64 * units)).map f) r = true ∧ recordOk r (s.coresOf part).length = true) :
    let q := s.queue (qkey part queue)
    HoldsRecord f (numAt f 0 1) (s.part part) r ∧ r.irq = decide (numAt f 3 1 = 1) ∧ ∃ u, ∃ x : Launch, TagsOnly s u ∧
      exec (.launchRecord part queue) s = .next (State.setQueue
        { (u.setLaunch s.launchCount x) with launchCount := s.launchCount + 1 } (qkey part queue) (Queue.drained q)) ∧
      x.phase = .waiting ∧ x.part = part ∧ x.queue = queue ∧ x.ctx = q.ctx ∧ x.record = r ∧ x.recordAt = q.head ∧
      x.nextAt = q.tail := by
  intro q
  obtain ⟨u, g, hfound⟩ := found_of_lastRecord hf hq (by decide) hr
  have hg : g = h := hfound.header.trans hh.symm
  subst hg
  have hpart : u.part part = s.part part := by rw [hfound.tags]; rfl
  have hcores : u.coresOf part = s.coresOf part := coresOf_congr (by rw [hfound.tags]) part
  have hcount : u.launchCount = s.launchCount := by rw [hfound.tags]
  have hunits : units = if numAt f 0 1 = 3 then 2 else 1 := by
    obtain ⟨-, -, -, -, -, -, -, -, -, -, -, -, -, hunits⟩ := hr
    rw [hf] at hunits
    simpa using hunits
  refine ⟨hrec ▸ holdsRecord_launchOf _ hfound.rev hfound.tag hunits, ?_, u,
    { phase := .waiting, part := part, queue := queue, ctx := q.ctx, record := r, recordAt := q.head, nextAt := q.tail
      order := s.launchCount }, hfound.tags, ?_, rfl, rfl, rfl, rfl, rfl, rfl, rfl⟩
  · rw [hrec]
    exact hfound.irq
  · show execLaunchRecord part queue s = _
    unfold execLaunchRecord
    rw [hfound.found]
    simp only [hpart, hcores, ← hrec, hgood.1, hgood.2, hcount, hfound.queue_eq, ← hfound.tail]
    simp only [Bool.not_true, Bool.false_eq_true, or_self, if_false]
    exact congrArg _ (hfound.fetch_behind (by exact hfound.queue_eq) _)

end

end Sys2Proof.Laws

namespace Sys2Proof.Laws

open Sys2Proof Sys2Proof.Machine Sys2Proof.Claims

/-- A ring's head that moves on by its distance to the tail stands at the tail. -/
theorem ring_advance {head tail size : Nat} (hhead : head < size) (htail : tail < size) :
    (head + (tail + size - head) % size) % size = tail := by
  rw [Nat.add_mod_mod, show head + (tail + size - head) = tail + size by omega, Nat.add_mod_right, Nat.mod_eq_of_lt htail]

section
variable {s : State} {part queue : Nat} {x : Queue} {g : Nat → Byte}

/-- A queue that fetches, with a record at its head whose header is bad: the record completes, and what has been written of
the units that it states is passed (R78; log 39). -/
theorem fetch_bad (hx : s.queue (qkey part queue) = x) (hg : recordByte s part queue = g) (hq : QuietHome s)
    (hbad : BadHeader g) (hbound : x.bound = true) (hhold : x.hold = .free) (hskip : x.skip = 0) (hhead : x.head < x.size)
    (htail : x.tail < x.size) {m : Nat} (hm : m = (x.tail + x.size - x.head) % x.size) (hm1 : 1 ≤ m)
    (hmn : m ≤ max (numAt g 4 1) 1) :
    ∃ v, TagsOnly s v ∧ State.fetch x.size s part queue =
      (v.setQueue (qkey part queue) { Queue.drained x with skip := max (numAt g 4 1) 1 - m }).completeAt part queue
        (numAt g 5 2) 5 x.tail (decide (numAt g 3 1 % 2 = 1)) := by
  obtain ⟨hheadertag, hunits, hirq, -, -, hheaderbad⟩ := headerOf_numAt g
  obtain ⟨v, hv, hread⟩ := queueUnits_quiet (part := part) (queue := queue) hq 1
  have hheader : fld (List.map g (List.range (64 * 1))) 0 8 = numAt g 0 8 := fld_map_range g (by decide)
  have hne : ¬ x.head = x.tail := by
    intro h
    rw [h, Nat.add_sub_cancel_left, Nat.mod_self] at hm
    omega
  have hpass : x.pass (max (numAt g 4 1) 1) = { Queue.drained x with skip := max (numAt g 4 1) 1 - m } := by
    simp only [Queue.pass, ← hm, Nat.min_eq_right hmn]
    rw [hm, ring_advance hhead htail]
    rfl
  obtain ⟨n, hn⟩ : ∃ n, x.size = n + 1 := ⟨x.size - 1, by omega⟩
  refine ⟨v, hv, ?_⟩
  simp only [hn, State.fetch, hx, hbound, hhold, hskip, hne, hread, hg, hheader, hheaderbad.mpr hbad, Bool.not_true,
    Bool.false_eq_true, ne_eq, not_true_eq_false, or_self, if_false, if_true, Header.length, hunits, hpass,
    State.completeRecord, State.queue_setQueue_self, hheadertag, hirq]
  exact fetch_at_tail (by rw [queue_completeAt, State.queue_setQueue_self]; rfl) n

/-- A doorbell of a queue whose host owns it, with a tail inside the ring (R368). -/
theorem exec_queueDoorbell {port tail : Nat} (hpart : part < s.layout) (hport : (s.part part).port = port)
    (hboot : s.booted = true) (hqueue : queue < 64) (hx : (s.readDispositions part).queue (qkey part queue) = x)
    (hbound : x.bound = true) (htail : tail < x.size) : exec (.queueDoorbell port part queue tail) s =
      .next (State.fetch x.size ((s.readDispositions part).setQueue (qkey part queue) { x with tail := tail }) part queue) := by
  have howns : s.owns port part = true := by simp [State.owns, hpart, hport]
  show execQueueDoorbell port part queue tail s = _
  simp [execQueueDoorbell, howns, hboot, hx, hbound, Nat.not_le.mpr hqueue, Nat.not_le.mpr htail]

end

/-- The bytes of a queue's records stand where the queue's ring and its head say. -/
theorem recordByte_setQueue (s : State) (part queue : Nat) (x : Queue) (hbase : x.base = (s.queue (qkey part queue)).base)
    (hsize : x.size = (s.queue (qkey part queue)).size) (hhead : x.head = (s.queue (qkey part queue)).head) :
    recordByte (s.setQueue (qkey part queue) x) part queue = recordByte s part queue := by
  funext i
  simp only [recordByte]
  rw [show (s.setQueue (qkey part queue) x).queue (64 * part + queue) = x from State.queue_setQueue_self _ _ _, hbase, hsize,
    hhead]
  rfl

theorem queueDoorbell_bad {s : State} {port part queue tail m : Nat} (hpart : part < s.layout)
    (hport : (s.part part).port = port) (hboot : s.booted = true) (hqueue : queue < 64) :
    let u := s.readDispositions part
    let x := u.queue (qkey part queue)
    let g := recordByte u part queue
    QuietHome u → x.bound = true → x.hold = .free → x.skip = 0 → x.head < x.size → tail < x.size → BadHeader g →
    m = (tail + x.size - x.head) % x.size → 1 ≤ m → m ≤ max (numAt g 4 1) 1 →
    ∃ v, TagsOnly u v ∧ exec (.queueDoorbell port part queue tail) s = .next ((v.setQueue (qkey part queue)
      { x with head := tail, tail := tail, skip := max (numAt g 4 1) 1 - m }).completeAt part queue (numAt g 5 2) 5 tail
        (decide (numAt g 3 1 % 2 = 1))) := by
  intro u x g hq hbound hhold hskip hhead htail hbad hm hm1 hmn
  let w := u.setQueue (qkey part queue) { x with tail := tail }
  have hw : w.queue (qkey part queue) = { x with tail := tail } := State.queue_setQueue_self _ _ _
  obtain ⟨v, hv, hfetch⟩ := fetch_bad (s := w) hw (recordByte_setQueue u part queue { x with tail := tail } rfl rfl rfl) hq hbad
    hbound hhold hskip hhead htail hm hm1 hmn
  let read : State := { u with l2 := v.l2, zeroLines := v.zeroLines, corrected := v.corrected }
  refine ⟨read, rfl, ?_⟩
  rw [exec_queueDoorbell hpart hport hboot hqueue rfl hbound htail]
  refine congrArg Host.Outcome.next (hfetch.trans ?_)
  have hset (y : Queue) : v.setQueue (qkey part queue) y = read.setQueue (qkey part queue) y := by
    rw [hv]
    exact setQueue_setQueue read (qkey part queue) { x with tail := tail } y
  rw [hset]
  rfl

/-- Settles O35: each record is the last one fetched, so that its queue's head comes to stand at its tail. -/
theorem commandRecordResults : Obligations.CommandRecordResults := by
  intro s part queue hq k q f tag irq completes passes
  have hpass {i : Instr} {status : Nat} (h : Passes s part queue f i status) : passes i status := h
  have hzeros : zeros ((List.range 64).map f) 8 56 = true ↔ ZerosAt f 8 56 := zeros_map_range f (by decide)
  refine ⟨?_, fun hr => ⟨fun hz => hpass ?_, fun hz => hpass ?_⟩, fun hr => ⟨waitRecord_waits rfl hq hr,
    fun hbad => hpass (waitRecord_passes rfl hq hr hbad)⟩, ?_, fun hr => ⟨signalRecord_waits rfl hq hr,
    fun hbad => hpass (signalRecord_passes rfl hq hr hbad)⟩, ?_, ?_⟩
  · intro port tail n m hpart hport hboot hqueue u x g hqu hbound hhold hskip hhead htail hbad hn hm hm1 hmn
    subst hn
    exact queueDoorbell_bad hpart hport hboot hqueue hqu hbound hhold hskip hhead htail hbad hm hm1 hmn
  · have hnop := nopRecord_passes (f := f) rfl hq hr
    rwa [if_pos (hzeros.mpr hz)] at hnop
  · have hnop := nopRecord_passes (f := f) rfl hq hr
    rwa [if_neg (mt hzeros.mp hz)] at hnop
  · intro addr value tag eq irq u bs hwait htail hread hcond
    exact waitProceed_completes hwait htail hread hcond
  · intro g hg taken
    refine ⟨signalUpdate_waits hg, fun hdone => ⟨signalUpdate_untranslated hg hdone, fun u p hx hu => ?_⟩⟩
    obtain ⟨htags, hbytes⟩ := homeRead_quiet hu p 8
    refine ⟨_, htags, (signalUpdate_updates hg hdone hx).trans ?_⟩
    rw [hbytes]
    rfl
  · intro units hr h r hh hrec good
    exact ⟨fun hbad => hpass (launchRecord_passes rfl hq hr hh hrec hbad), launchRecord_launches rfl hq hr hh hrec⟩

end Sys2Proof.Laws

/-! ## Lines that leave an L1 by replacement (R87, R263, R264) -/

namespace Sys2Proof.Laws

open Sys2Proof Sys2Proof.Machine Sys2Proof.Claims

theorem find?_eq_some_of_unique {α : Type} {p : α → Bool} {l : List α} {x : α} (hx : x ∈ l) (hp : p x = true)
    (hu : ∀ y ∈ l, p y = true → y = x) : l.find? p = some x := by
  cases h : l.find? p with
  | none => exact absurd hp (List.find?_eq_none.mp h x hx)
  | some y => rw [hu y (List.mem_of_find?_eq_some h) (List.find?_some h)]

/-- A table in rising order lists a key once. -/
theorem eq_of_sorted {α : Type} {t : Tab α} (h : Tab.sorted t = true) {x y : Nat × α} (hx : x ∈ t) (hy : y ∈ t)
    (hxy : x.1 = y.1) : x = y := by
  induction t with
  | nil => simp at hx
  | cons e t ih =>
    obtain ⟨j, b⟩ := e
    obtain ⟨hlt, hs⟩ := Tab.sorted_all h rfl
    rcases List.mem_cons.mp hx with rfl | hx <;> rcases List.mem_cons.mp hy with rfl | hy
    · rfl
    · exact absurd hxy (Nat.ne_of_lt (hlt y hy))
    · exact absurd hxy.symm (Nat.ne_of_lt (hlt x hx))
    · exact ih hs hx hy

theorem reaching_of_lt (s : State) {cells : List (Nat × Byte)} (h : ∀ c ∈ cells, c.1 < 2 ^ 64) : s.reaching cells = cells := by
  refine List.filter_eq_self.mpr fun c hc => ?_
  have hspace : spaceNum c.1 = 0 := Nat.div_eq_of_lt (h c hc)
  simp [State.unreachable, hspace]

/-- A line's bytes are in order, inside the line and unpoisoned, and its clean bytes are as they stand at home. -/
structure OrderedLine (m : Memory) (l : Line) : Prop where
  line : l.line < 2 ^ 57
  poison : l.poison = []
  sorted : Tab.sorted l.bytes = true
  bytes : ∀ e ∈ l.bytes, e.1 < 128 ∧ (e.2.2 = false → e.2.1 = m.byte (128 * l.line + e.1))

/-- A byte as a line holds it, or as it stands at home. -/
def lineByte (m : Memory) (l : Line) (a : Nat) : Byte :=
  match l.bytes.find? fun e => e.1 == a % 128 with
  | some e => e.2.1
  | none => m.byte a

theorem mem_dirty (l : Line) (c : Nat × Byte) : c ∈ l.dirty ↔ ∃ e ∈ l.bytes, e.2.2 = true ∧ c = (128 * l.line + e.1, e.2.1) := by
  simp only [Line.dirty, List.mem_filterMap]
  refine exists_congr fun e => and_congr_right fun _ => ?_
  cases e.2.2 <;> simp [eq_comm]

/-- The dirty bytes of a line written over memory: there every byte stands as the line holds it. -/
theorem byte_writeCells_dirty {m : Memory} {l : Line} (h : OrderedLine m l) (a : Nat) :
    Memory.byte (writeCells m l.dirty) a = if a / 128 = l.line then lineByte m l a else m.byte a := by
  rw [byte_writeCells]
  have hnone (hn : ∀ e ∈ l.bytes, e.2.2 = true → 128 * l.line + e.1 ≠ a) :
      (l.dirty.reverse.find? fun x => x.1 == a) = none := by
    simp only [List.find?_eq_none, List.mem_reverse, mem_dirty]
    rintro _ ⟨e, he, hd, rfl⟩
    simpa using hn e he hd
  split
  · next hline =>
    have hkey (e : Nat × Byte × Bool) (he : e ∈ l.bytes) : 128 * l.line + e.1 = a ↔ e.1 = a % 128 := by
      have := (h.bytes e he).1
      omega
    unfold lineByte
    cases hf : l.bytes.find? fun e => e.1 == a % 128 with
    | none =>
      rw [hnone fun e he _ hea => ?_]
      · rfl
      · exact absurd ((hkey e he).mp hea) (by simpa using List.find?_eq_none.mp hf e he)
    | some e =>
      have he := List.mem_of_find?_eq_some hf
      have hekey : e.1 = a % 128 := by simpa using List.find?_some hf
      have honly (x : Nat × Byte × Bool) (hx : x ∈ l.bytes) (hxa : 128 * l.line + x.1 = a) : x = e :=
        eq_of_sorted h.sorted hx he (((hkey x hx).mp hxa).trans hekey.symm)
      cases hd : e.2.2 with
      | true =>
        rw [find?_eq_some_of_unique (x := (a, e.2.1))]
        · rfl
        · rw [List.mem_reverse, mem_dirty]
          exact ⟨e, he, hd, by rw [(hkey e he).mpr hekey]⟩
        · simp
        · simp only [List.mem_reverse, mem_dirty]
          rintro _ ⟨x, hx, -, rfl⟩ hxa
          have hxa' : 128 * l.line + x.1 = a := by simpa using hxa
          rw [honly x hx hxa', (hkey e he).mpr hekey]
      | false =>
        rw [hnone fun x hx hxd hxa => ?_]
        · simp only [Option.map_none, Option.getD_none]
          rw [(h.bytes e he).2 hd, (hkey e he).mpr hekey]
        · rw [honly x hx hxa, hd] at hxd
          exact absurd hxd Bool.false_ne_true
  · next hline =>
    rw [hnone fun e he _ hea => ?_]
    · rfl
    · have := (h.bytes e he).1
      omega

theorem chargeMem_frame (s : State) (c : Nat) :
    s.chargeMem c = { s with fresh := (s.chargeMem c).fresh, parts := (s.chargeMem c).parts } := by
  unfold State.chargeMem
  simp only
  split <;> rfl

theorem reread_frame (s : State) (c line : Nat) :
    s.reread c line = { s with agenda := (s.reread c line).agenda, flights := (s.reread c line).flights } := by
  unfold State.reread
  simp only
  split <;> rfl

/-- A line's dirty bytes go to a home at rest, which stays at rest. -/
theorem mergeLine_quiet {s : State} (hq : QuietHome s) {l : Line} (hl : OrderedLine s.mem l) (c : Nat) :
    let t := State.mergeLine State.writePrep c s l
    QuietHome t ∧ t.cores = s.cores ∧ ∀ a, t.mem.byte a = if a / 128 = l.line then lineByte s.mem l a else s.mem.byte a := by
  intro t
  obtain ⟨hr, ho, hh, hw, hpoison, hattempts⟩ := id hq
  by_cases hd : l.isDirty = true
  · have hreach : s.reaching l.dirty = l.dirty := by
      refine reaching_of_lt s fun c hc => ?_
      obtain ⟨e, he, -, rfl⟩ := (mem_dirty l c).mp hc
      have := (hl.bytes e he).1
      have := hl.line
      show 128 * l.line + e.1 < 2 ^ 64
      omega
    have hhome : l.poisonHome = [] := by simp [Line.poisonHome, hl.poison]
    have ht : t = ((s.applyCells l.dirty).chargeMem c).reread c l.line := by
      show State.mergeLine State.writePrep c s l = _
      simp only [State.mergeLine, hd, if_true, writePrep_rest s l.line hh hw, hhome, List.foldl_nil]
    have hframe : t = { s with
        mem := writeCells s.mem l.dirty, poison := [], l2 := t.l2, zeroLines := t.zeroLines, corrected := t.corrected
        fresh := t.fresh, parts := t.parts, agenda := t.agenda, flights := t.flights } := by
      rw [ht, reread_frame, chargeMem_frame, applyCells_frame, hreach, hpoison]
      rfl
    refine ⟨?_, by rw [hframe], fun a => ?_⟩
    · rw [hframe]
      exact ⟨hr, ho, hh, hw, rfl, hattempts⟩
    · rw [hframe]
      exact byte_writeCells_dirty hl a
  · have ht : t = s := if_neg hd
    rw [ht]
    refine ⟨hq, rfl, fun a => ?_⟩
    have hclean := byte_writeCells_dirty hl a
    have hnil : l.dirty = [] := by
      refine List.eq_nil_iff_forall_not_mem.mpr fun c hc => ?_
      obtain ⟨e, he, hdirty, -⟩ := (mem_dirty l c).mp hc
      exact hd (List.any_eq_true.mpr ⟨e, he, hdirty⟩)
    rw [hnil] at hclean
    exact hclean

end Sys2Proof.Laws


/-! ## The carve of a core (R86, R87, R127) -/

namespace Sys2Proof.Laws

open Sys2Proof Sys2Proof.Machine Sys2Proof.Claims

theorem orderedLine_of_orderedL1 {s : State} {c : Nat} (ho : OrderedL1 s c) {l : Line} (hl : l ∈ (s.core c).l1) :
    OrderedLine s.mem l := by
  obtain ⟨-, -, -, hlines⟩ := ho
  obtain ⟨hline, hpoison, hsorted, hbytes⟩ := hlines l hl
  exact ⟨hline, hpoison, hsorted, hbytes⟩

/-- A byte of a line that a core holds, and of one that it does not hold. -/
theorem coreByte_of_find {s : State} {c a : Nat} : (∀ l, (s.core c).l1Find (a / 128) = some l →
    coreByte s c a = lineByte s.mem l a) ∧ ((s.core c).l1Find (a / 128) = none → coreByte s c a = s.mem.byte a) := by
  refine ⟨fun l hl => ?_, fun hn => ?_⟩
  · unfold coreByte lineByte
    rw [show (s.core c).l1.find? (fun l => l.line == a / 128) = some l from hl]
    rfl
  · unfold coreByte
    rw [show (s.core c).l1.find? (fun l => l.line == a / 128) = none from hn]
    rfl

/-- From s to t a core has given lines up: its view of memory is as before, what it held of those lines stands at home, and
all else of memory as before. -/
structure GivenUp (s t : State) (c : Nat) (gone : Nat → Bool) : Prop where
  home : HomeStep s t
  quiet : QuietHome t
  ordered : OrderedL1 t c
  l1 : (t.core c).l1 = (s.core c).l1.filter fun l => !gone l.line
  carve : (t.core c).carve = (s.core c).carve
  view : ∀ a, coreByte t c a = coreByte s c a
  mem : ∀ a, t.mem.byte a = if gone (a / 128) = true then coreByte s c a else s.mem.byte a

theorem keepL1_l1 (x : Core) (ls : List Line) : (x.keepL1 ls).l1 = ls := rfl

theorem keepL1_frame (x : Core) (ls : List Line) : x.keepL1 ls = { x with l1 := ls, counters := (x.keepL1 ls).counters } := by
  unfold Core.keepL1
  simp only
  split <;> rfl

section
variable {s : State} {c : Nat} (hq : QuietHome s) (ho : OrderedL1 s c)
include hq ho

theorem givenUp_refl : GivenUp s s c fun _ => false :=
  ⟨.refl s, hq, ho, (List.filter_eq_self.mpr fun _ _ => rfl).symm, rfl, fun _ => rfl, fun _ => rfl⟩

/-- A line that a core holds is evicted. -/
theorem givenUp_evictLine_held {x : Nat} {v : Line} (hv : (s.core c).l1Find x = some v) :
    GivenUp s (s.evictLine c x) c (· == x) := by
  have hmem : v ∈ (s.core c).l1 := List.mem_of_find?_eq_some hv
  have hline : v.line = x := by simpa using List.find?_some hv
  let kept := (s.core c).l1.filter fun y => !(y.line == x)
  let u := s.setCore c ((s.core c).keepL1 kept)
  have ht : s.evictLine c x = State.mergeLine State.writePrep c u v := by
    unfold State.evictLine
    simp only [hv]
    rfl
  obtain ⟨hquiet, hcores, hbyte⟩ := mergeLine_quiet (s := u) hq (orderedLine_of_orderedL1 ho hmem) c
  rw [← ht] at hquiet hcores hbyte
  have hcore : (s.evictLine c x).core c = (s.core c).keepL1 kept := by
    have : (s.evictLine c x).core c = u.core c := by unfold State.core; rw [hcores]
    rw [this, State.core_setCore_self]
  have hl1 : ((s.evictLine c x).core c).l1 = kept := by rw [hcore, keepL1_l1]
  have hcarve : ((s.evictLine c x).core c).carve = (s.core c).carve := by rw [hcore, keepL1_frame]
  have hacc : ((s.evictLine c x).core c).acc = (s.core c).acc := by rw [hcore, keepL1_frame]
  have hgone (a : Nat) (ha : a / 128 = x) : (s.evictLine c x).mem.byte a = coreByte s c a := by
    rw [hbyte, if_pos (ha.trans hline.symm), coreByte_of_find.1 v (by rw [ha]; exact hv)]
    rfl
  have hkept (a : Nat) (ha : a / 128 ≠ x) : (s.evictLine c x).mem.byte a = s.mem.byte a := by
    rw [hbyte, if_neg (fun h => ha (h.trans hline))]
    rfl
  refine ⟨?_, hquiet, ?_, hl1, hcarve, fun a => ?_, fun a => ?_⟩
  · rw [ht]
    exact (homeStep_setCore s c _).trans (homeStep_mergeLine homeStep_writePrep c u v)
  · obtain ⟨hnoacc, hnodup, hways, hlines⟩ := ho
    refine ⟨hacc.trans hnoacc, ?_, fun h => ?_, fun l hl => ?_⟩
    · rw [hl1]
      exact (List.filter_sublist.map _).nodup hnodup
    · rw [hl1]
      show List.filter _ (s.core c).l1 = []
      rw [hways (by rw [← hcarve]; exact h)]
      rfl
    · rw [hl1] at hl
      obtain ⟨hl', hne⟩ := List.mem_filter.mp hl
      have hne' : l.line ≠ x := by simpa using hne
      obtain ⟨h1, h2, h3, h4⟩ := hlines l hl'
      refine ⟨h1, h2, h3, fun e he => ⟨(h4 e he).1, fun hd => ?_⟩⟩
      rw [hkept _ (by have := (h4 e he).1; omega)]
      exact (h4 e he).2 hd
  · by_cases ha : a / 128 = x
    · rw [← hgone a ha]
      refine coreByte_of_find.2 ?_
      unfold Core.l1Find
      rw [hl1, List.find?_eq_none]
      intro l hl
      have := (List.mem_filter.mp hl).2
      rw [ha]
      simpa using this
    · have hfind : ((s.evictLine c x).core c).l1Find (a / 128) = (s.core c).l1Find (a / 128) := by
        unfold Core.l1Find
        rw [hl1, List.find?_filter]
        congr 1
        funext l
        by_cases hl : l.line = a / 128
        · simp [hl, ha]
        · simp [hl]
      cases hf : (s.core c).l1Find (a / 128) with
      | none => rw [coreByte_of_find.2 hf, coreByte_of_find.2 (hfind.trans hf), hkept a ha]
      | some l =>
        rw [coreByte_of_find.1 l hf, coreByte_of_find.1 l (hfind.trans hf)]
        unfold lineByte
        rw [hkept a ha]
  · by_cases ha : a / 128 = x
    · rw [hgone a ha, if_pos (by simpa using ha)]
    · rw [hkept a ha, if_neg (by simpa using ha)]

/-- A line is evicted. -/
theorem givenUp_evictLine (x : Nat) : GivenUp s (s.evictLine c x) c (· == x) := by
  cases hv : (s.core c).l1Find x with
  | some v => exact givenUp_evictLine_held hq ho hv
  | none =>
    have ht : s.evictLine c x = s := by
      unfold State.evictLine
      simp only [hv, State.sendPartials, ho.1]
      rfl
    rw [ht]
    refine ⟨.refl s, hq, ho, (List.filter_eq_self.mpr fun l hl => ?_).symm, rfl, fun _ => rfl, fun a => ?_⟩
    · simpa using List.find?_eq_none.mp hv l hl
    · by_cases ha : a / 128 = x
      · rw [if_pos (by simpa using ha), coreByte_of_find.2 (by rw [ha]; exact hv)]
      · rw [if_neg (by simpa using ha)]

end

theorem GivenUp.trans {s t u : State} {c : Nat} {f g : Nat → Bool} (h : GivenUp s t c f) (k : GivenUp t u c g) :
    GivenUp s u c fun x => f x || g x := by
  refine ⟨h.home.trans k.home, k.quiet, k.ordered, ?_, k.carve.trans h.carve, fun a => (k.view a).trans (h.view a), fun a => ?_⟩
  · rw [k.l1, h.l1, List.filter_filter]
    congr 1
    funext l
    cases f l.line <;> cases g l.line <;> rfl
  · rw [k.mem, h.view, h.mem]
    cases f (a / 128) <;> cases g (a / 128) <;> rfl

/-- Lines of a core at rest are evicted one after the other. -/
theorem givenUp_foldl {s : State} {c : Nat} (hq : QuietHome s) (ho : OrderedL1 s c) (xs : List Nat) :
    GivenUp s (xs.foldl (fun s x => s.evictLine c x) s) c xs.contains := by
  induction xs generalizing s with
  | nil => exact givenUp_refl hq ho
  | cons x xs ih =>
    have h := givenUp_evictLine hq ho x
    have hcontains : (x :: xs).contains = fun y => y == x || xs.contains y := funext fun y => List.contains_cons
    rw [hcontains]
    exact h.trans (ih h.quiet h.ordered)

end Sys2Proof.Laws


namespace Sys2Proof.Laws

open Sys2Proof Sys2Proof.Machine Sys2Proof.Claims

/-- The first row of a way of a carve (R127). -/
def rowOf (k : Carve) (w : Nat) : Nat := 256 + k.slots * (k.regRows + k.scratchRows) + 128 * w

/-- A way of a carve has its rows as a way of another one. -/
theorem wayIn_eq_some {k v : Carve} {w y : Nat} : k.wayIn v w = some y ↔ y < v.ways ∧ rowOf v y = rowOf k w := by
  have hrow (k : Carve) (w : Nat) : k.l1Base + 128 * w = rowOf k w := rfl
  have hbase (k : Carve) (w : Nat) : rowOf k w = k.l1Base + 128 * w := rfl
  unfold Carve.wayIn
  simp only [hrow]
  generalize rowOf k w = row
  rw [hbase]
  split
  · next h =>
    obtain ⟨hle, hmod, hlt⟩ := h
    rw [Option.some.injEq]
    omega
  · next h =>
    simp only [reduceCtorEq, false_iff]
    omega

theorem wayIn_isSome {k v : Carve} {w : Nat} : (k.wayIn v w).isSome = true ↔ ∃ y < v.ways, rowOf v y = rowOf k w := by
  rw [Option.isSome_iff_exists]
  exact exists_congr fun y => wayIn_eq_some

/-- The greatest number below a bound that passes a test. -/
theorem find?_reverse_range {p : Nat → Bool} {n b : Nat} (h : (List.range n).reverse.find? p = some b) :
    p b = true ∧ b < n ∧ ∀ j, b < j → j < n → p j = false := by
  induction n with
  | zero => simp at h
  | succ n ih =>
    rw [List.range_succ, List.reverse_append, List.reverse_singleton, List.singleton_append, List.find?_cons] at h
    cases hp : p n with
    | true =>
      rw [hp] at h
      obtain rfl : n = b := Option.some.inj h
      exact ⟨hp, Nat.lt_succ_self n, fun j h1 h2 => absurd h1 (by omega)⟩
    | false =>
      rw [hp] at h
      obtain ⟨hb, hlt, hmax⟩ := ih h
      refine ⟨hb, by omega, fun j h1 h2 => ?_⟩
      by_cases hj : j = n
      · rw [hj]; exact hp
      · exact hmax j h1 (by omega)

/-- The carve of an empty core for a record, of as many block slots as fit (R86). -/
theorem carve_spec {r : LaunchRec} {cap : Nat} {v : Carve} (h : r.carve cap = some v) :
    let rows := r.warps * r.regs + r.scratchL / 256
    v.regRows = r.warps * r.regs ∧ v.scratchRows = r.scratchL / 256 ∧ 1 ≤ v.slots ∧ v.slots ≤ 16 ∧
      v.slots * rows + 128 * r.l1min ≤ cap ∧ v.slots * r.warps ≤ 48 ∧ (r.bpc = 0 ∨ v.slots ≤ r.bpc) ∧
      v.ways = (cap - v.slots * rows) / 128 ∧
      ∀ n, v.slots < n → n ≤ 16 → (r.bpc = 0 ∨ n ≤ r.bpc) → cap < n * rows + 128 * r.l1min ∨ 48 < n * r.warps := by
  intro rows
  let fits (b : Nat) : Bool :=
    decide (b * rows + 128 * r.l1min ≤ cap) && decide (b * r.warps ≤ 48) && (r.bpc == 0 || decide (b ≤ r.bpc))
  have hfits (n : Nat) : fits n = true ↔ n * rows + 128 * r.l1min ≤ cap ∧ n * r.warps ≤ 48 ∧ (r.bpc = 0 ∨ n ≤ r.bpc) := by
    simp [fits, and_assoc]
  have hcarve : r.carve cap = match ((List.range 17).reverse.find? fits).getD 0 with
      | 0 => none
      | b => some { regRows := r.regRows, scratchRows := r.scratchRows, slots := b, ways := (cap - b * rows) / 128 } := rfl
  rw [hcarve] at h
  cases hfind : (List.range 17).reverse.find? fits with
  | none => rw [hfind] at h; simp at h
  | some b =>
    obtain ⟨hb, hlt, hmax⟩ := find?_reverse_range hfind
    rw [hfind, Option.getD_some] at h
    cases b with
    | zero => simp at h
    | succ n =>
      obtain rfl := Option.some.inj h
      obtain ⟨hrows, hwarps, hbpc⟩ := (hfits _).mp hb
      refine ⟨rfl, rfl, Nat.succ_pos n, Nat.le_of_lt_succ hlt, hrows, hwarps, hbpc, rfl, fun m h1 h2 h3 => ?_⟩
      have hno := hmax m h1 (Nat.lt_succ_of_le h2)
      rw [← Bool.not_eq_true, hfits] at hno
      omega

/-- Elements of a list on which a function repeats no value are told apart by it. -/
theorem eq_of_nodup_map {α β : Type} {f : α → β} {l : List α} (h : (l.map f).Nodup) {x y : α} (hx : x ∈ l) (hy : y ∈ l)
    (hxy : f x = f y) : x = y := by
  induction l with
  | nil => simp at hx
  | cons e l ih =>
    rw [List.map_cons, List.nodup_cons] at h
    obtain ⟨hnot, hrest⟩ := h
    rcases List.mem_cons.mp hx with rfl | hxl <;> rcases List.mem_cons.mp hy with rfl | hyl
    · rfl
    · exact absurd (hxy ▸ List.mem_map_of_mem hyl) hnot
    · exact absurd (hxy ▸ List.mem_map_of_mem hxl) hnot
    · exact ih hrest hxl hyl

section
variable {s : State} {c : Nat} (hq : QuietHome s) (ho : OrderedL1 s c)
include hq ho

/-- The lines of a core whose ways do not stay leave its L1. -/
theorem givenUp_keepWays (stays : Nat → Bool) : ∃ gone, GivenUp s (s.keepWays c stays) c gone ∧
    (∀ m ∈ (s.core c).l1, gone m.line = !stays m.way) ∧
    ∀ x, gone x = true → ∃ m ∈ (s.core c).l1, m.line = x := by
  obtain ⟨hacc, hnodup, -, -⟩ := id ho
  have hway {m : Line} (hm : m ∈ (s.core c).l1) : (s.core c).wayOf m.line = some m.way := by
    have hfind : (s.core c).l1Find m.line = some m := find?_eq_some_of_unique hm (by simp) fun y hy hline =>
      eq_of_nodup_map hnodup hy hm (by simpa using hline)
    simp [Core.wayOf, hfind]
  refine ⟨_, givenUp_foldl hq ho _, fun m hm => ?_, fun x hx => ?_⟩
  · rw [Bool.eq_iff_iff, List.contains_iff_mem, List.mem_filter, hacc, hway hm]
    simpa using fun _ => ⟨m, hm, rfl⟩
  · rw [List.contains_iff_mem, List.mem_filter, hacc] at hx
    simpa using hx.1

end

/-- What a core is carved for at the end of its draining, or while it is empty (R87). -/
theorem exec_coreCarve {s : State} {l c : Nat} (hempty : ∀ y, y / 16 = c → (s.block y).used = false)
    (hc : c ∈ s.coresOf (s.launch l).part)
    (htarget : let ls := s.waitingIn (s.partOfStack (c / 64))
      ((s.core c).draining = some l ∧ l ∈ ls) ∨ (∃ m, (s.core c).draining = some m ∧ m ∉ ls ∧
          s.headOf (s.partOfStack (c / 64)) = some l) ∨
        ((s.core c).draining = none ∧ s.coreOpen c = true ∧ l ∈ s.waitingLaunches))
    (hstep : (s.die (c / 64)).step = none) : exec (.coreCarve l c) s = .next (s.carveFor l c) := by
  have hblocks : s.blocksOn c = [] := by
    simp only [State.blocksOn, List.filter_eq_nil_iff, blockSlotsOf, List.mem_map, List.mem_range]
    rintro _ ⟨i, hi, rfl⟩
    rw [hempty _ (by omega)]
    exact Bool.false_ne_true
  show execCoreCarve l c s = _
  unfold execCoreCarve
  simp only
  rw [if_pos]
  refine ⟨?_, by rw [hblocks]; rfl, List.contains_iff_mem.mpr hc, by simp only [stackOf, hstep]; rfl⟩
  rcases htarget with ⟨hd, hl⟩ | ⟨m, hd, hm, hhead⟩ | ⟨hd, hopen, hl⟩
  · simp [hd, State.carveTarget, stackOf, hl]
  · simp [hd, State.carveTarget, stackOf, Option.filter, hm, hhead]
  · simp [hd, hopen, hl]

theorem homeStep_evictLine (s : State) (c x : Nat) : HomeStep s (s.evictLine c x) := by
  unfold State.evictLine
  simp only
  split
  · exact homeStep_sendPartials s c x
  · exact (homeStep_setCore s c _).trans (homeStep_mergeLine homeStep_writePrep c _ _)

/-- The carve of a core: no warp and no block changes; lines whose ways stay keep their rows and their bytes, and what the
others held stands at home. -/
theorem carveFor_spec {s : State} {l c : Nat} {v : Carve}
    (hv : (s.launch l).record.carve ((s.core c).rows - 256) = some v) :
    let k := (s.core c).carve
    let stays (w : Nat) : Prop := ∃ u < v.ways, rowOf v u = rowOf k w
    let t := s.carveFor l c
    (t.core c).carve = v ∧ (t.core c).draining = none ∧ t.warps = s.warps ∧ t.blocks = s.blocks ∧
      (QuietHome s → OrderedL1 s c →
        (∀ x, (∃ m ∈ (t.core c).l1, m.line = x) ↔ ∃ m ∈ (s.core c).l1, m.line = x ∧ stays m.way) ∧
        (∀ m ∈ (s.core c).l1, stays m.way → ∃ n ∈ (t.core c).l1, n.line = m.line ∧ n.bytes = m.bytes ∧
          rowOf v n.way = rowOf k m.way) ∧
        ∀ a, let gone := ∃ m ∈ (s.core c).l1, m.line = a / 128 ∧ ¬ stays m.way
          (gone → t.mem.byte a = coreByte s c a) ∧ (¬ gone → t.mem.byte a = s.mem.byte a)) := by
  intro k stays t
  let u := s.keepWays c fun w => (k.wayIn v w).isSome
  have ht : t = u.setCore c ((u.core c).recarved v) := by
    show s.carveFor l c = _
    unfold State.carveFor
    simp only [Core.capacity, show Config.renameRows = 256 from rfl, hv]
    rfl
  have hcore : t.core c = (u.core c).recarved v := by rw [ht, State.core_setCore_self]
  have hhome : HomeStep s u := HomeStep.foldl _ (fun s x => homeStep_evictLine s c x) _ _
  refine ⟨by rw [hcore]; rfl, by rw [hcore]; rfl, by rw [ht, State.setCore_warps, hhome.warps],
    by rw [ht, State.setCore_blocks, hhome.blocks], fun hq ho => ?_⟩
  obtain ⟨gone, hgone, hway, hheld⟩ := givenUp_keepWays hq ho fun w => (k.wayIn v w).isSome
  have hstays {w : Nat} : (k.wayIn v w).isSome = true ↔ stays w := wayIn_isSome
  have hkept {m : Line} (hm : m ∈ (s.core c).l1) : gone m.line = false ↔ stays m.way := by
    rw [hway m hm, ← hstays]
    simp
  let moved (m : Line) : Line := { m with way := (k.wayIn v m.way).getD m.way }
  have hl1 : (t.core c).l1 = ((s.core c).l1.filter fun m => !gone m.line).map moved := by
    rw [hcore, ← hgone.l1]
    show (u.core c).l1.map (fun m => { m with way := ((u.core c).carve.wayIn v m.way).getD m.way }) = (u.core c).l1.map moved
    rw [hgone.carve]
  have hmem (n : Line) : n ∈ (t.core c).l1 ↔ ∃ m ∈ (s.core c).l1, stays m.way ∧ moved m = n := by
    rw [hl1, List.mem_map]
    refine exists_congr fun m => ?_
    rw [List.mem_filter, and_assoc]
    exact and_congr_right fun hm => and_congr_left fun _ => by rw [← hkept hm]; simp
  have htmem (a : Nat) : t.mem.byte a = if gone (a / 128) = true then coreByte s c a else s.mem.byte a := by
    rw [ht]
    exact hgone.mem a
  refine ⟨fun x => ⟨?_, ?_⟩, fun m hm hs => ?_, fun a => ⟨?_, fun hno => ?_⟩⟩
  · rintro ⟨n, hn, rfl⟩
    obtain ⟨m, hm, hs, rfl⟩ := (hmem n).mp hn
    exact ⟨m, hm, rfl, hs⟩
  · rintro ⟨m, hm, rfl, hs⟩
    exact ⟨moved m, (hmem _).mpr ⟨m, hm, hs, rfl⟩, rfl⟩
  · obtain ⟨y, hy, hrow⟩ := hs
    have hin : k.wayIn v m.way = some y := wayIn_eq_some.mpr ⟨hy, hrow⟩
    refine ⟨moved m, (hmem _).mpr ⟨m, hm, ⟨y, hy, hrow⟩, rfl⟩, rfl, rfl, ?_⟩
    show rowOf v ((k.wayIn v m.way).getD m.way) = rowOf k m.way
    rw [hin]
    exact hrow
  · rintro ⟨m, hm, hline, hs⟩
    have : gone m.line = true := by
      rw [← Bool.not_eq_false]
      exact mt (hkept hm).mp hs
    rw [htmem, ← hline, if_pos this]
  · rw [htmem, if_neg fun hg => ?_]
    obtain ⟨m, hm, hline⟩ := hheld _ hg
    refine hno ⟨m, hm, hline, fun hs => ?_⟩
    rw [← hline, (hkept hm).mpr hs] at hg
    exact Bool.false_ne_true hg

end Sys2Proof.Laws


/-! ## Held launches, the comet, and the end of a block and of a launch (R76, R83, R88, R92, R101) -/

namespace Sys2Proof.Laws

open Sys2Proof Sys2Proof.Machine Sys2Proof.Claims

section
variable {s : State} {l : Nat} (hheld : (s.launch l).phase = .held)
include hheld

theorem phaseTimeout_fits (hv : s.verdict l = .fits) :
    exec (.phaseTimeout l) s = .next (s.setLaunch l { s.launch l with phase := .waiting }) := by
  show execPhaseTimeout l s = _
  have ht : s.retest l = s.setLaunch l { s.launch l with phase := .waiting } := if_pos ⟨hheld, hv⟩
  simp [execPhaseTimeout, ht]

theorem phaseTimeout_ends (hv : s.verdict l ≠ .fits) (hwait : (s.launch l).record.phasewait ≠ 0) :
    exec (.phaseTimeout l) s = .next (s.endLaunch l 7) := by
  show execPhaseTimeout l s = _
  have ht : s.retest l = s := if_neg fun h => hv h.2
  simp [execPhaseTimeout, ht, hheld, hwait]

end

/-! ### The comet (R92) -/

/-- A launch whose position at the comet is idle: it is a region that has started and not ended. -/
structure CometReady (s : State) (l : Nat) : Prop where
  isOpen : (s.launch l).open = true
  region : (s.launch l).record.region = true
  started : (s.launch l).started = true
  running : (s.launch l).ended = false
  idle : s.idleAt l (s.launch l).comet = true

theorem cometReady_guard {s : State} {l : Nat} (h : CometReady s l) :
    ¬ (!(s.launch l).open ∨ !(s.launch l).record.region ∨ !(s.launch l).started ∨ (s.launch l).ended ∨
      !s.idleAt l (s.launch l).comet) := by
  simp [h.isOpen, h.region, h.started, h.running, h.idle]

theorem whiten_launch (s : State) (l pos : Nat) : (s.whiten l pos).launch l =
    (s.launch l).setQueue pos { s.cardQueue l pos with black := false } := State.launch_setLaunch_self _ _ _

/-- The comet as it goes on from a position that turns white. -/
theorem whiten_setLaunch_spec (s : State) (l pos comet : Nat) (black back : Bool) :
    let x := (s.whiten l pos).launch l
    let t := ((s.whiten l pos).setLaunch l { x with comet := comet, cometBlack := black, cometBack := back }).later
      (.cometForward l)
    (t.launch l).comet = comet ∧ (t.launch l).cometBlack = black ∧ (t.launch l).cometBack = back ∧
      (t.launch l).ended = (s.launch l).ended ∧ t.blackAt l pos = false ∧ t.warps = s.warps ∧
      Instr.cometForward l ∈ t.agenda := by
  intro x t
  have hlaunch : t.launch l = { x with comet := comet, cometBlack := black, cometBack := back } :=
    State.launch_setLaunch_self _ _ _
  have hx : x = (s.launch l).setQueue pos { s.cardQueue l pos with black := false } := whiten_launch s l pos
  refine ⟨by rw [hlaunch], by rw [hlaunch], by rw [hlaunch], by rw [hlaunch, hx]; rfl, ?_, rfl, mem_later_agenda _ _⟩
  unfold State.blackAt State.cardQueue Launch.queueAt
  rw [hlaunch, hx]
  show CardQueue.black (Tab.get {} (Tab.put _ _ _) _) = _
  rw [Tab.get_put_self]

/-- Where no slot waits in a take, a region that ends serves none. -/
theorem foldl_serveTakes_none {t : State} (hnone : ∀ y, (t.block y).takers = []) (bs : List Nat) :
    bs.foldl (fun s b => State.serveTakes 128 s b) t = t := by
  induction bs with
  | nil => rfl
  | cons b bs ih =>
    have hserve : State.serveTakes 128 t b = t := by
      have hno : t.takerServed b = none := by simp [State.takerServed, hnone]
      unfold State.serveTakes
      rw [hno]
    rw [List.foldl_cons, hserve]
    exact ih

section
variable {s : State} {l : Nat} (h : CometReady s l)
include h

theorem cometForward_goes_on (hmid : ¬ ((s.launch l).comet = 0 ∧ (s.launch l).cometBack = true)) :
    let x := s.launch l
    let y := (s.whiten l x.comet).launch l
    let next := (x.comet + 1) % x.record.total
    exec (.cometForward l) s = .next (((s.whiten l x.comet).setLaunch l { y with
      comet := next, cometBlack := x.cometBlack || s.blackAt l x.comet, cometBack := decide (next = 0) }).later
        (.cometForward l)) := by
  show execCometForward l s = _
  exact (if_neg (cometReady_guard h)).trans (if_neg hmid)

theorem cometForward_new_round (hzero : (s.launch l).comet = 0) (hback : (s.launch l).cometBack = true)
    (hblack : (s.launch l).cometBlack = true ∨ s.blackAt l 0 = true) :
    let y := (s.whiten l 0).launch l
    exec (.cometForward l) s = .next (((s.whiten l 0).setLaunch l { y with
      comet := 1 % (s.launch l).record.total, cometBlack := false, cometBack := false }).later (.cometForward l)) := by
  show execCometForward l s = _
  refine (if_neg (cometReady_guard h)).trans ((if_pos ⟨hzero, hback⟩).trans ((if_neg ?_).trans ?_))
  · rw [hzero]
    rcases hblack with hb | hb <;> simp [hb]
  · rw [hzero]

theorem cometForward_ends (hzero : (s.launch l).comet = 0) (hback : (s.launch l).cometBack = true)
    (hwhite : (s.launch l).cometBlack = false) (hwhite0 : s.blackAt l 0 = false) (hnone : ∀ y, (s.block y).takers = []) :
    exec (.cometForward l) s = .next (s.setLaunch l { s.launch l with ended := true }) := by
  show execCometForward l s = _
  refine (if_neg (cometReady_guard h)).trans ((if_pos ⟨hzero, hback⟩).trans ((if_pos ?_).trans ?_))
  · rw [hzero]
    simp [hwhite, hwhite0]
  · exact congrArg _ (foldl_serveTakes_none (by exact hnone) _)

end

end Sys2Proof.Laws


/-! ### A block leaves its core (R101, R411) -/

namespace Sys2Proof.Laws

open Sys2Proof Sys2Proof.Machine Sys2Proof.Claims

/-- A table without the entries at some keys. -/
theorem get_filter_keys {α : Type} (d : α) (t : Tab α) (ks : List Nat) (k : Nat) :
    Tab.get d (t.filter fun e => !ks.contains e.1) k = if k ∈ ks then d else Tab.get d t k := by
  induction t with
  | nil => simp
  | cons e t ih =>
    obtain ⟨j, a⟩ := e
    by_cases hj : j ∈ ks
    · rw [List.filter_cons_of_neg (by simpa using hj), ih]
      by_cases hk : k ∈ ks
      · rw [if_pos hk, if_pos hk]
      · have hne : ¬ j = k := fun h => hk (h ▸ hj)
        rw [if_neg hk, if_neg hk, Tab.get, if_neg hne]
    · rw [List.filter_cons_of_pos (by simpa using hj)]
      simp only [Tab.get, ih]
      by_cases hjk : j = k
      · rw [if_pos hjk, if_pos hjk, if_neg (hjk ▸ hj)]
      · rw [if_neg hjk, if_neg hjk]

/-- From s to t nothing but the agenda has changed. -/
def AgendaOnly (s t : State) : Prop := t = { s with agenda := t.agenda }

theorem AgendaOnly.trans {s t u : State} (h : AgendaOnly s t) (g : AgendaOnly t u) : AgendaOnly s u :=
  Eq.trans g (by rw [h])

theorem AgendaOnly.warp {s t : State} (h : AgendaOnly s t) (k : Nat) : t.warp k = s.warp k := by rw [h]; rfl
theorem AgendaOnly.block {s t : State} (h : AgendaOnly s t) (b : Nat) : t.block b = s.block b := by rw [h]; rfl
theorem AgendaOnly.launch {s t : State} (h : AgendaOnly s t) (l : Nat) : t.launch l = s.launch l := by rw [h]; rfl

theorem agendaOnly_later (s : State) (i : Instr) : AgendaOnly s (s.later i) := rfl

theorem agendaOnly_ite {s t : State} (p : Prop) [Decidable p] (h : AgendaOnly s t) : AgendaOnly s (if p then t else s) := by
  split
  · exact h
  · rfl

/-- A block's core once the block has left, and what was the block's: its events, turns and warps are gone. -/
def withoutBlock (s u : State) (b : Nat) : State :=
  { u.setCore (coreOfBlock b) ((u.core (coreOfBlock b)).withoutBlock b (s.warpsOf b)) with
    agenda := u.agenda.filter fun i => !eventOfWarp (s.warpsOf b) i
    turns := u.turns.filter fun t => !(s.warpsOf b).contains t.warp
    warps := u.warps.filter fun e => !(s.warpsOf b).contains e.1
    blocks := Tab.drop u.blocks b }

/-- A block leaves its core once its partials at other cores have come home; then those that wait for a unit of the core
come onto the agenda. -/
theorem freeBlock_eq (s : State) (b : Nat) : ∃ u, ScratchStep s u ∧ AgendaOnly (withoutBlock s u b) (s.freeBlock b) := by
  let c := coreOfBlock b
  let segs := (s.cores.flatMap fun (e : Nat × Core) => e.2.redHolders.map (·.1)).filter fun g => g / 2 ^ 21 == b
  let u := segs.eraseDups.foldl State.recallSegment s
  let v := withoutBlock s u b
  let w := if (v.core c).baton.isNone ∧ !(v.core c).batonQueue.isEmpty then v.later (.batonGrant c) else v
  let x := if (u.core c).reWarps.length = (w.core c).reWarps.length then w
    else (leastBy (fun k => (w.warp k).turnOf) (w.contextWaiters c)).elim w w.askContext
  have hw : AgendaOnly v w := agendaOnly_ite _ (agendaOnly_later v _)
  have hx : AgendaOnly w x := by
    unfold x
    split
    · rfl
    · cases leastBy (fun k => (w.warp k).turnOf) (w.contextWaiters c) with
      | none => rfl
      | some k => exact agendaOnly_later w _
  exact ⟨u, ScratchStep.foldl _ scratchStep_recallSegment _ _, (hw.trans hx).trans (stirUnits_frame x c)⟩

/-- The block and its warps are gone, and no launch has changed. -/
theorem freeBlock_spec (s : State) (b : Nat) : let t := s.freeBlock b
    t.block b = {} ∧ (∀ k ∈ s.warpsOf b, t.warp k = {}) ∧ ∀ l, t.launch l = s.launch l := by
  intro t
  obtain ⟨u, hu, ht⟩ := freeBlock_eq s b
  refine ⟨?_, fun k hk => ?_, fun l => ?_⟩
  · rw [ht.block]
    exact (Tab.get_drop _ _ _ _).trans (if_pos rfl)
  · rw [ht.warp]
    exact (get_filter_keys _ _ _ _).trans (if_pos hk)
  · rw [ht.launch]
    show u.launch l = s.launch l
    rw [hu.frame]
    rfl

theorem agendaOnly_checkFinished (s : State) (l : Nat) : AgendaOnly s (s.checkFinished l) :=
  agendaOnly_ite _ (agendaOnly_later s _)

section
variable {s : State} {b : Nat} (hended : ∀ k ∈ s.warpsOf b, (s.warp k).stat = .ended)
include hended

/-- No warp of the block has stopped, so that nothing is logged of it. -/
theorem logStopped_ended : s.logStopped b = s := by
  have hkeep (ks : List Nat) (h : ∀ k ∈ ks, (s.warp k).stat = .ended) : ks.foldl (fun (s : State) k =>
      if (s.warp k).stat = .stopped ∧ !(s.warp k).byStop ∧ (s.warp k).cause.toNat % 128 = Cause.poison.code then
        s.logPoison (coreOfWarp k) (s.warp k).taddr.toNat else s) s = s := by
    induction ks with
    | nil => rfl
    | cons k ks ih =>
      rw [List.foldl_cons, if_neg (by simp [h k])]
      exact ih fun j hj => h j (List.mem_cons_of_mem _ hj)
  exact hkeep _ hended

variable (hused : (s.block b).used = true) (hclear : s.unitsClear b = true)
include hused hclear

theorem blockExit_guard : ¬ (!(s.block b).used ∨ (s.warpsOf b).any s.liveWarp ∨ !s.unitsClear b) := by
  have hlive : (s.warpsOf b).any s.liveWarp = false := by
    rw [List.any_eq_false]
    intro k hk
    simp [State.liveWarp, hended k hk]
  simp [hused, hclear, hlive]

/-- A replay hands its signatures over, or, where it has met poison, is given up (R411). -/
theorem exec_blockExit_replay (hreplay : (s.block b).replay = true) : exec (.blockExit b) s = .next (
    if (s.block b).saving = some .trap then s.abandonReplay b
    else (s.freeBlock b).later (.auditReplayComplete (s.block b).launch (s.block b).lin (coreOfBlock b) (s.blockSigs b))) := by
  show execBlockExit b s = _
  refine (if_neg (blockExit_guard hended hused hclear)).trans ((if_pos hreplay).trans ?_)
  split <;> rfl

/-- A block counts as exited, and an audited one may be chosen for a replay (R101, R411). -/
theorem exec_blockExit_plain (hreplay : (s.block b).replay = false) : ∃ (u : State) (x : Launch), exec (.blockExit b) s =
      .next (((u.setLaunch (s.block b).launch x).freeBlock b).checkFinished (s.block b).launch) ∧
    u.warps = s.warps ∧ (s.block b).lin ∈ x.exited ∧
    ((s.launch (s.block b).launch).record.audit = false → x.replaying = (s.launch (s.block b).launch).replaying) := by
  have hlin (ls : List Nat) : (s.block b).lin ∈ addOnce ls (s.block b).lin := by
    unfold addOnce
    split
    · assumption
    · simp
  show ∃ (u : State) (x : Launch), execBlockExit b s = _ ∧ _
  unfold execBlockExit
  simp only
  rw [if_neg (blockExit_guard hended hused hclear)]
  cases haudit : (s.launch (s.block b).launch).record.audit with
  | false =>
    simp only [hreplay, Bool.false_eq_true, if_false, Bool.false_and]
    exact ⟨_, _, rfl, rfl, hlin _, fun _ => rfl⟩
  | true =>
    simp only [hreplay, Bool.false_eq_true, if_false, if_true, Bool.true_and]
    exact ⟨_, _, rfl, rfl, hlin _, fun h => absurd h (by decide)⟩

theorem blockExit_plain (hreplay : (s.block b).replay = false) :
    ∃ t, exec (.blockExit b) s = .next t ∧ t.block b = {} ∧ (∀ k ∈ s.warpsOf b, t.warp k = {}) ∧
      (s.block b).lin ∈ (t.launch (s.block b).launch).exited ∧
      ((s.launch (s.block b).launch).record.audit = false →
        (t.launch (s.block b).launch).replaying = (s.launch (s.block b).launch).replaying) := by
  obtain ⟨u, y, hexec, hwarps, hlin, haudit⟩ := exec_blockExit_plain hended hused hclear hreplay
  generalize (s.block b).launch = l at hexec haudit ⊢
  obtain ⟨hblock, hwarp, hlaunches⟩ := freeBlock_spec (u.setLaunch l y) b
  have hkeep := agendaOnly_checkFinished ((u.setLaunch l y).freeBlock b) l
  have hof : (u.setLaunch l y).warpsOf b = s.warpsOf b := by
    unfold State.warpsOf State.warp
    rw [State.setLaunch_warps, hwarps]
  have hlaunch : (((u.setLaunch l y).freeBlock b).checkFinished l).launch l = y := by
    rw [hkeep.launch, hlaunches, State.launch_setLaunch_self]
  refine ⟨_, hexec, (hkeep.block b).trans hblock, fun k hk => (hkeep.warp k).trans (hwarp k (hof ▸ hk)), ?_, fun ha => ?_⟩
  · rw [hlaunch]
    exact hlin
  · rw [hlaunch]
    exact haudit ha

/-- A replay that has met poison is given up without being compared (R411). -/
theorem blockExit_abandons (hreplay : (s.block b).replay = true) (htrap : (s.block b).saving = some .trap) :
    ∃ t, exec (.blockExit b) s = .next t ∧ t.block b = {} ∧ (∀ k ∈ s.warpsOf b, t.warp k = {}) ∧
      (t.launch (s.block b).launch).replaying = without (s.launch (s.block b).launch).replaying (s.block b).lin := by
  have hexec := exec_blockExit_replay hended hused hclear hreplay
  rw [if_pos htrap] at hexec
  obtain ⟨hblock, hwarp, hlaunches⟩ := freeBlock_spec s b
  have hkeep : AgendaOnly ((s.freeBlock b).setLaunch (s.block b).launch { (s.freeBlock b).launch (s.block b).launch with
      replaying := without ((s.freeBlock b).launch (s.block b).launch).replaying (s.block b).lin }) (s.abandonReplay b) := by
    unfold State.abandonReplay
    rw [logStopped_ended hended]
    exact agendaOnly_checkFinished _ _
  refine ⟨s.abandonReplay b, hexec, ?_, fun k hk => ?_, ?_⟩
  · rw [hkeep.block, State.setLaunch_block, hblock]
  · rw [hkeep.warp, State.setLaunch_warp, hwarp k hk]
  · rw [hkeep.launch, State.launch_setLaunch_self, hlaunches]

/-- A replay hands its signatures over (R411). -/
theorem blockExit_compares (hreplay : (s.block b).replay = true) (htrap : (s.block b).saving ≠ some .trap) :
    ∃ t, exec (.blockExit b) s = .next t ∧ t.block b = {} ∧ (∀ k ∈ s.warpsOf b, t.warp k = {}) ∧
      Instr.auditReplayComplete (s.block b).launch (s.block b).lin (b / 16) (s.blockSigs b) ∈ t.agenda := by
  have hexec := exec_blockExit_replay hended hused hclear hreplay
  rw [if_neg htrap] at hexec
  obtain ⟨hblock, hwarp, -⟩ := freeBlock_spec s b
  exact ⟨_, hexec, hblock, hwarp, mem_later_agenda _ _⟩

end

theorem finished_iff (s : State) (l : Nat) : s.finished l = true ↔ AllExited s l := by
  simp [State.finished, AllExited, LaunchRec.total, and_assoc]

theorem exec_launchComplete (s : State) (l : Nat) : exec (.launchComplete l) s =
    if s.finished l then .next (s.endLaunch l ((s.launch l).ending.getD (if (s.launch l).mismatch then 4 else 0)))
    else .next s := rfl

/-- A launch that is open is done once it has completed (R76). -/
theorem phase_endLaunch {s : State} {l : Nat} (hopen : (s.launch l).open = true) (status : Nat) :
    ((s.endLaunch l status).launch l).phase = .done := by
  unfold State.endLaunch
  simp only [hopen, Bool.not_true, Bool.false_eq_true, if_false]
  have hpost (u : State) (p tag head vector : Nat) {q k : Nat} :
      (u.complete p tag status 0 q k head vector).launch l = u.launch l := by
    rw [postStep_complete u p tag status 0 q k head vector]
    rfl
  rw [hpost]
  show (State.launch (State.setLaunch _ _ _) l).phase = _
  rw [State.launch_setLaunch_self]

/-- Settles O40: an event of a launch's life acts where its condition holds. -/
theorem launchLifeResults : Obligations.LaunchLifeResults := by
  intro s l c b x r total
  refine ⟨?ages, ?drains, ?keeps, ?carves, fun hheld => ⟨phaseTimeout_fits hheld, phaseTimeout_ends hheld⟩, ?comet, ?ends,
    ?round, ?exits, fun hall => ⟨?_, fun st => phase_endLaunch hall.1 st⟩, fun hall => ?_⟩
  case ages => exact fun hopen hnext => if_pos ⟨hopen, hnext⟩
  case drains => exact fun hhead hchoice => if_pos ⟨hhead, hchoice⟩
  case keeps => exact fun hno => if_neg fun h => hno.elim (absurd h.1) (absurd h.2)
  case carves =>
    intro v hempty hc htarget hstep hv
    exact ⟨⟨_, exec_coreCarve hempty hc htarget hstep, carveFor_spec hv⟩, carve_spec hv⟩
  case comet =>
    intro hopen hregion hstarted hended hidle hmid
    obtain ⟨hcomet, hblack, hback, -, hwhite, hwarps, hagenda⟩ := whiten_setLaunch_spec s l x.comet ((x.comet + 1) % total)
      (x.cometBlack || s.blackAt l x.comet) (decide ((x.comet + 1) % total = 0))
    exact ⟨_, cometForward_goes_on ⟨hopen, hregion, hstarted, hended, hidle⟩ hmid, hcomet, hblack, hback, hwhite, hwarps,
      hagenda⟩
  case ends =>
    intro hopen hregion hstarted hended hidle hzero hback hwhite hwhite0 hnone
    exact cometForward_ends ⟨hopen, hregion, hstarted, hended, by rw [hzero]; exact hidle⟩ hzero hback hwhite hwhite0 hnone
  case round =>
    intro hopen hregion hstarted hended hidle hzero hback hblack
    obtain ⟨hcomet, hround, hnew, hgoes, hwhite, hwarps, hagenda⟩ := whiten_setLaunch_spec s l 0 (1 % total) false false
    exact ⟨_, cometForward_new_round ⟨hopen, hregion, hstarted, hended, by rw [hzero]; exact hidle⟩ hzero hback hblack,
      hgoes.trans hended, hcomet, hround, hnew, hwhite, hwarps, hagenda⟩
  case exits =>
    intro hused hended hclear hl
    subst hl
    cases hreplay : (s.block b).replay with
    | false =>
      obtain ⟨t, ht, hblock, hwarps, hexited, haudit⟩ := blockExit_plain hended hused hclear hreplay
      exact ⟨t, ht, hblock, hwarps, fun _ => ⟨hexited, haudit⟩, fun h => absurd h (by decide), fun h => absurd h (by decide)⟩
    | true =>
      by_cases htrap : (s.block b).saving = some .trap
      · obtain ⟨t, ht, hblock, hwarps, hreplaying⟩ := blockExit_abandons hended hused hclear hreplay htrap
        exact ⟨t, ht, hblock, hwarps, fun h => absurd h (by decide), fun _ h => absurd htrap h, fun _ _ => hreplaying⟩
      · obtain ⟨t, ht, hblock, hwarps, hagenda⟩ := blockExit_compares hended hused hclear hreplay htrap
        exact ⟨t, ht, hblock, hwarps, fun h => absurd h (by decide), fun _ _ => hagenda, fun _ h => absurd h htrap⟩
  · rw [exec_launchComplete, if_pos ((finished_iff s l).mpr hall)]
  · rw [exec_launchComplete, if_neg (mt (finished_iff s l).mp hall)]

end Sys2Proof.Laws

/-! ## A card whose slot is reached through a leaf that no write has used (R91, R345, R352) -/

namespace Sys2Proof.Laws

open Sys2Proof Sys2Proof.Machine Sys2Proof.Claims

/-- The page of the first GiB at its own address, as a core's TLB holds it. -/
def firstPage : TlbEntry :=
  { ctx := 1, va := 0, size := 2 ^ 30, frame := 0, w := true, x := true, dty := true, snap := false }

/-- A task region whose one block posts to itself, every register 0: its core's TLB maps the first GiB, and the tables of its
context map it by a leaf at 0x302000 whose acc and dty bits are clear; the card area begins at 0x8000. -/
def freshLeaf : State :=
  { warps := [(0, { stat := .running, ctl := { a := { live := true, mask := 0xFFFFFFFF#32 } } })]
    blocks := [(0, { used := true, warps := 1 })]
    cores := [(0, { tlb := [firstPage] })]
    launches := [(0, { phase := .running, ctx := 1, record := { region := true, cards := 2, cardarea := 0x8000 } })]
    contexts := [(1, some { root := 0x300001#64 })]
    parts := [(0, { win0 := [(0, 2 ^ 30)] })]
    mem := [(0x300000, 0x01#8), (0x300001, 0x10#8), (0x300002, 0x30#8), (0x301000, 0x01#8), (0x301001, 0x20#8),
      (0x301002, 0x30#8), (0x302000, 0xF3#8)] }

theorem plainAccess_freshLeaf : PlainAccess freshLeaf :=
  ⟨⟨rfl, rfl, rfl, rfl, rfl, rfl⟩, ⟨rfl, .nil, fun _ => rfl, fun _ hl => absurd hl List.not_mem_nil⟩, rfl, rfl, rfl, rfl,
    fun _ h => Wake.noConfusion h⟩

theorem cleanL1_freshLeaf : CleanL1 freshLeaf freshLeaf.here := ⟨rfl, rfl, fun _ hl => absurd hl List.not_mem_nil⟩

/-- The command processor reaches the first slot of the card area. -/
theorem sysXlate_freshLeaf : ∃ u, freshLeaf.sysXlate 1 0x8000 = some (u, 0x8000) := by
  have hany : (freshLeaf.sysXlate 1 0x8000).any (fun x => x.2 == 0x8000) = true := by decide +kernel
  cases hx : freshLeaf.sysXlate 1 0x8000 with
  | none => rw [hx] at hany; exact absurd hany Bool.false_ne_true
  | some x =>
    rw [hx] at hany
    exact ⟨x.1, congrArg some (Prod.ext rfl (by simpa using hany))⟩

theorem ringBlock_freshLeaf : freshLeaf.ringBlock 0 0 = some 0 := by decide

/-- The memory that a step or a word leaves. -/
def memAfter : Out → Memory
  | .next t => t.mem
  | _ => []

/-- The write of the card has the walk set acc and dty in the leaf. -/
theorem leaf_post_freshLeaf : (memAfter (exec (.post (under 0#3) 2#6 0#6 0#6) freshLeaf)).byte 0x302000 = 0xFF#8 := by
  decide +kernel

/-- Refutes O28: in `freshLeaf` a card is queued and written to its slot at 0x8000, but memory outside the slot does not stay
as it was: the walk to the slot sets the acc and dty bits of its leaf (R352). -/
theorem not_jobCardResults : ¬ Obligations.JobCardResults := by
  intro h
  obtain ⟨-, -, hpost⟩ := h freshLeaf (under 0#3) 2#6 0#6 0#6 0 0 (by decide)
  obtain ⟨-, -, -, -, hqueue⟩ := hpost rfl (by decide)
  obtain ⟨-, -, hroom⟩ := hqueue (by decide) plainAccess_freshLeaf rfl cleanL1_freshLeaf rfl
  obtain ⟨t, ht, -, -, -, -, -, hwritten⟩ := hroom (by decide) (by decide) ⟨firstPage, by decide, by decide, by decide, by decide⟩
    (fun y hy => by
      obtain rfl : 0 = y := Option.some.inj (ringBlock_freshLeaf.symm.trans hy)
      rfl)
  obtain ⟨u, hx⟩ := sysXlate_freshLeaf
  have hleaf : t.mem.byte 0x302000 = freshLeaf.mem.byte 0x302000 := hwritten u 0x8000 hx (by decide) (by decide) 0x302000
  have hset := leaf_post_freshLeaf
  rw [ht] at hset
  exact absurd (hset.symm.trans hleaf) (by decide)

end Sys2Proof.Laws


/-! ## A divergence stack whose entries lie aligned in memory under misaligned addresses (R94, R95, R258) -/

namespace Sys2Proof.Laws

open Sys2Proof Sys2Proof.Machine Sys2Proof.Claims

/-- A warp with all its lanes in slot A, whose empty divergence stack begins at the address 4. Its core's TLB has a page
that begins there and reaches memory at 0. -/
def oddStack : State :=
  { warps := [(0, { stat := .running, ctl := { a := { live := true, mask := 0xFFFFFFFF#32 } }, pbase := 4 })]
    blocks := [(0, { used := true, warps := 1 })]
    cores := [(0, { tlb := [{ ctx := 0, va := 4, size := 2 ^ 16, frame := 0, w := true, x := false, dty := true, snap := false }] })] }

theorem plainAccess_oddStack : PlainAccess oddStack :=
  ⟨⟨rfl, rfl, rfl, rfl, rfl, rfl⟩, ⟨rfl, .nil, fun _ => rfl, fun _ hl => absurd hl List.not_mem_nil⟩, rfl, rfl, rfl, rfl,
    fun _ h => Wake.noConfusion h⟩

theorem entryAt_oddStack : EntryAt oddStack .write 0 0 := by
  refine ⟨_, rfl, ?_⟩
  decide

/-- The frame's address is not aligned, and the word traps ALIGN. -/
theorem exec_rcv_oddStack : exec (.rcv false 0#18) oddStack = .next (oddStack.memTrap ⟨.align, 4, 0#16⟩) := by
  rfl

/-- A word that traps fixes no transfer. -/
theorem pend_memTrap (s : State) (f : MemFault) : (s.memTrap f).cw.pend = s.cw.pend := by
  have hstop : StopStep s (s.memTrap f) := stopStep_takeTrap s _ _
  unfold State.cw
  rw [stopStep_cur hstop]
  obtain ⟨-, -, -, -, hpend, -⟩ := hstop.warp s.cur.warp
  exact hpend

/-- Refutes O12: where an entry lies aligned in memory but at a misaligned virtual address, as the first of `oddStack`
does, `rcv` traps ALIGN instead of opening its region (R258). No hypothesis of the statement aligns the base of the stack,
or the pages of the TLB. -/
theorem not_regionResults : ¬ Obligations.RegionResults := by
  intro h
  obtain ⟨-, hrcv, -⟩ := h oddStack ⟨false, false, false, 0#3⟩ false 0#18 0#32 plainAccess_oddStack
  obtain ⟨-, hopens, -⟩ := hrcv (by decide) (by decide)
  obtain ⟨t, ht, ⟨hcw, -⟩, -⟩ := hopens 0 rfl (by decide) entryAt_oddStack
  obtain rfl : oddStack.memTrap ⟨.align, 4, 0#16⟩ = t := Host.Outcome.next.inj (exec_rcv_oddStack.symm.trans ht)
  have hpend := pend_memTrap oddStack ⟨.align, 4, 0#16⟩
  rw [hcw] at hpend
  exact absurd hpend (Option.some_ne_none _)

end Sys2Proof.Laws

/-! ## Packets that an icinv or an ifence drops (R107, R402) -/

namespace Sys2Proof.Laws

open Sys2Proof Sys2Proof.Machine Sys2Proof.Claims

theorem get_map_value {α : Type} {d : α} {f : α → α} (hd : f d = d) (t : Tab α) (k : Nat) :
    Tab.get d (t.map fun e => (e.1, f e.2)) k = f (Tab.get d t k) := by
  induction t with
  | nil => exact hd.symm
  | cons e t ih =>
    simp only [List.map_cons, Tab.get, ih]
    split <;> rfl

theorem get_of_not_listed {α : Type} (d : α) {t : Tab α} {k : Nat} (h : ∀ e ∈ t, e.1 ≠ k) : Tab.get d t k = d := by
  induction t with
  | nil => rfl
  | cons e t ih =>
    exact (if_neg (h e List.mem_cons_self)).trans (ih fun x hx => h x (List.mem_cons_of_mem e hx))

theorem atBoundary_iff (m : Micro) : m.atBoundary = true ↔ m.word = 0 ∧ m.mid = false := by
  simp [Micro.atBoundary]

/-- A slot without its packet, where a test drops it and no word of the packet has issued. -/
def unfetched (m : Micro) (drop : Bool) : Micro := if m.atBoundary && drop then { m with pkt := [] } else m

theorem unfetched_eq (m : Micro) (drop : Bool) : unfetched m drop =
    { m with pkt := if m.word = 0 ∧ m.mid = false ∧ drop = true then [] else m.pkt } := by
  have hdrops : (m.atBoundary && drop) = true ↔ m.word = 0 ∧ m.mid = false ∧ drop = true := by
    rw [Bool.and_eq_true, atBoundary_iff, and_assoc]
  unfold unfetched
  by_cases h : (m.atBoundary && drop) = true
  · rw [if_pos h, if_pos (hdrops.mp h)]
  · rw [if_neg h, if_neg (mt hdrops.mpr h)]

theorem unfetched_unfetched (m : Micro) (drop : Bool) : unfetched (unfetched m drop) drop = unfetched m drop := by
  simp only [unfetched_eq]
  split <;> simp_all

/-- The launch of a warp's block. -/
def launchOf (u : State) (w : Warp) : Launch := u.launch (u.block w.block).launch

/-- The byte address of the packet at which a slot of a warp stands (R41, R80). -/
def packetAt (u : State) (w : Warp) (x : Bool) : Nat := (launchOf u w).record.code + 12 * (w.ctl.path x).pc

/-- A warp of a context without the packets whose addresses meet a test, and no word of which has issued. -/
def withoutFetched (u : State) (ctx : Nat) (test : Nat → Bool) (w : Warp) : Warp :=
  if (launchOf u w).ctx = ctx then
    { w with ma := unfetched w.ma (test (packetAt u w false)), mb := unfetched w.mb (test (packetAt u w true)) }
  else w

section
variable (u : State) (ctx : Nat) (test : Nat → Bool)

theorem withoutFetched_twice (w : Warp) :
    withoutFetched u ctx test (withoutFetched u ctx test w) = withoutFetched u ctx test w := by
  unfold withoutFetched
  by_cases h : (launchOf u w).ctx = ctx
  · rw [if_pos h]
    refine (if_pos h).trans ?_
    simp only [packetAt, launchOf, unfetched_unfetched]
  · rw [if_neg h, if_neg h]

theorem withoutFetched_absent : withoutFetched u ctx test {} = {} := by
  unfold withoutFetched
  split
  · simp [unfetched_eq]
  · rfl

/-- One warp of those that drop their packets. -/
theorem dropFetched_eq (s : State) : s.dropFetched ctx test =
    s.warps.foldl (fun t (e : Nat × Warp) => if (launchOf t (t.warp e.1)).ctx = ctx then
      t.setWarp e.1 (withoutFetched t ctx test (t.warp e.1)) else t) s := by
  unfold State.dropFetched
  congr 1
  funext t e
  by_cases h : (launchOf t (t.warp e.1)).ctx = ctx
  · rw [if_pos h, withoutFetched, if_pos h]
    exact if_pos h
  · rw [if_neg h]
    exact if_neg h

theorem foldl_withoutFetched (l : List (Nat × Warp)) (s : State) :
    let t := l.foldl (fun t (e : Nat × Warp) => if (launchOf t (t.warp e.1)).ctx = ctx then
      t.setWarp e.1 (withoutFetched t ctx test (t.warp e.1)) else t) s
    t = { s with warps := t.warps } ∧
      ∀ k, t.warp k = if ∃ e ∈ l, e.1 = k then withoutFetched s ctx test (s.warp k) else s.warp k := by
  induction l generalizing s with
  | nil => exact ⟨rfl, fun k => by simp⟩
  | cons e l ih =>
    have hone : ∃ v : State, (if (launchOf s (s.warp e.1)).ctx = ctx then
          s.setWarp e.1 (withoutFetched s ctx test (s.warp e.1)) else s) = v ∧ v = { s with warps := v.warps } ∧
        ∀ k, v.warp k = if e.1 = k then withoutFetched s ctx test (s.warp k) else s.warp k := by
      refine ⟨_, rfl, by split <;> rfl, fun k => ?_⟩
      split
      · rw [State.warp_setWarp]
        by_cases hk : e.1 = k
        · rw [if_pos hk.symm, if_pos hk, hk]
        · rw [if_neg fun h => hk h.symm, if_neg hk]
      · next h =>
        split
        · next hk => rw [← hk, withoutFetched, if_neg h]
        · rfl
    obtain ⟨v, hv, hframe, hwarp⟩ := hone
    simp only [List.foldl_cons, hv]
    obtain ⟨iframe, iwarp⟩ := ih v
    have hsame (w : Warp) : withoutFetched v ctx test w = withoutFetched s ctx test w := by
      rw [hframe]
      rfl
    refine ⟨iframe.trans (by rw [hframe]), fun k => ?_⟩
    rw [iwarp, hwarp, hsame]
    by_cases hk : e.1 = k
    · simp only [List.mem_cons, exists_eq_or_imp, hk, true_or, if_true, withoutFetched_twice, ite_self]
    · simp only [List.mem_cons, exists_eq_or_imp, hk, false_or, if_false]

/-- Every warp drops the packets that a test of their addresses names. -/
theorem dropFetched_spec (s : State) : s.dropFetched ctx test = { s with warps := (s.dropFetched ctx test).warps } ∧
    ∀ k, (s.dropFetched ctx test).warp k = withoutFetched s ctx test (s.warp k) := by
  obtain ⟨hframe, hwarp⟩ := foldl_withoutFetched ctx test s.warps s
  rw [dropFetched_eq]
  refine ⟨hframe, fun k => (hwarp k).trans ?_⟩
  split
  · rfl
  · next hk =>
    have habsent : s.warp k = {} := by
      unfold State.warp
      exact get_of_not_listed _ fun e he hek => hk ⟨e, he, hek⟩
    rw [habsent, withoutFetched_absent]

end

end Sys2Proof.Laws
namespace Sys2Proof.Laws

open Sys2Proof Sys2Proof.Machine Sys2Proof.Claims

/-! ### The packets that an icinv drops (R107, R402) -/

/-- A byte range of an `icinv` takes the packet at an address: all of them, where it has 2^32 bytes or more (R402). -/
def inRange (start len va : Nat) : Bool := decide (2 ^ 32 ≤ len ∨ (va < start + len ∧ start < va + 12))

theorem inRange_eq (start len va : Nat) : (decide (2 ^ 32 ≤ len) || packetIn va start len) = inRange start len va := by
  unfold inRange packetIn
  rw [Bool.decide_or, Bool.decide_and]

/-- A core without the packets of a context whose addresses meet a test. -/
def withoutCached (ctx : Nat) (gone : Nat → Bool) (c : Core) : Core :=
  { c with icache := c.icache.filter fun p => !(p.ctx == ctx && gone p.va) }

/-- The packets of a context whose addresses meet a test leave the instruction caches of u, and the slots of its warps that
hold such a packet of which no word has issued. -/
def PacketsGone (ctx : Nat) (gone : Nat → Bool) (u t : State) : Prop :=
  t = { u with cores := t.cores, warps := t.warps } ∧
    (∀ c, t.core c = { u.core c with icache := (t.core c).icache } ∧
      ∀ p, p ∈ (t.core c).icache ↔ p ∈ (u.core c).icache ∧ ¬ (p.ctx = ctx ∧ gone p.va = true)) ∧
    ∀ k, t.warp k = { u.warp k with ma := (t.warp k).ma, mb := (t.warp k).mb } ∧
      ∀ x : Bool, (t.warp k).micro x = { (u.warp k).micro x with
        pkt := if (launchOf u (u.warp k)).ctx = ctx ∧ ((u.warp k).micro x).word = 0 ∧ ((u.warp k).micro x).mid = false ∧
          gone (packetAt u (u.warp k) x) = true then [] else ((u.warp k).micro x).pkt }

/-- The state without the packets of a context whose addresses meet a test. -/
def dropPackets (ctx : Nat) (gone : Nat → Bool) (u : State) : State :=
  ({ u with cores := u.cores.map fun (e : Nat × Core) => (e.1, withoutCached ctx gone e.2) } : State).dropFetched ctx gone

theorem micro_withoutFetched (u : State) (ctx : Nat) (gone : Nat → Bool) (w : Warp) (x : Bool) :
    (withoutFetched u ctx gone w).micro x = { w.micro x with
      pkt := if (launchOf u w).ctx = ctx ∧ (w.micro x).word = 0 ∧ (w.micro x).mid = false ∧ gone (packetAt u w x) = true
        then [] else (w.micro x).pkt } := by
  unfold withoutFetched
  by_cases h : (launchOf u w).ctx = ctx
  · simp only [h, if_true, true_and]
    cases x <;> exact unfetched_eq _ _
  · simp only [h, if_false, false_and]

theorem packetsGone_dropPackets (ctx : Nat) (gone : Nat → Bool) (u : State) :
    PacketsGone ctx gone u (dropPackets ctx gone u) := by
  obtain ⟨hframe, hwarp⟩ := dropFetched_spec ctx gone
    { u with cores := u.cores.map fun (e : Nat × Core) => (e.1, withoutCached ctx gone e.2) }
  have hcore (c : Nat) : (dropPackets ctx gone u).core c = withoutCached ctx gone (u.core c) := by
    unfold dropPackets
    rw [hframe]
    exact get_map_value (f := withoutCached ctx gone) rfl u.cores c
  have hwarp' (k : Nat) : (dropPackets ctx gone u).warp k = withoutFetched u ctx gone (u.warp k) := hwarp k
  refine ⟨?_, fun c => ⟨by rw [hcore c]; rfl, fun p => ?_⟩, fun k => ⟨?_, fun x => ?_⟩⟩
  · unfold dropPackets
    rw [hframe]
  · rw [hcore c]
    refine List.mem_filter.trans (and_congr_right fun _ => ?_)
    rw [Bool.not_eq_true', ← Bool.not_eq_true, Bool.and_eq_true, beq_iff_eq]
  · rw [hwarp' k]
    unfold withoutFetched
    split <;> rfl
  · rw [hwarp' k]
    exact micro_withoutFetched u ctx gone (u.warp k) x

theorem exec_icinv {s : State} {h : Hdr} (ht : s.taken h = true) (a b : BitVec 6) (hb : (s.rdS b.toNat).toNat ≠ 0) :
    exec (.icinv h a b) s = .next (dropPackets s.myCtx (inRange (s.rdS a.toNat).toNat (s.rdS b.toNat).toNat)
      s.completeRelease) := by
  have hrange : inRange (s.rdS a.toNat).toNat (s.rdS b.toNat).toNat =
      fun va => decide (2 ^ 32 ≤ (s.rdS b.toNat).toNat) || packetIn va (s.rdS a.toNat).toNat (s.rdS b.toNat).toNat :=
    funext fun va => (inRange_eq _ _ va).symm
  rw [hrange]
  exact if_pos ⟨ht, fun h0 => hb (by rw [h0]; rfl)⟩

/-! ### An ifence (R107) -/

theorem exec_ifence {s : State} {h : Hdr} (ht : s.taken h = true) :
    exec (.ifence h) s = .next (s.setCw { s.cw with ma := unfetched s.cw.ma true, mb := unfetched s.cw.mb true }) := by
  simp only [unfetched, Bool.and_true]
  exact if_pos ht

theorem ifence_spec {s : State} {h : Hdr} (ht : s.taken h = true) : ∃ t, exec (.ifence h) s = .next t ∧ OnlyWarp s t ∧
    t.cw = { s.cw with ma := t.cw.ma, mb := t.cw.mb } ∧ ∀ x : Bool, t.cw.micro x = { s.cw.micro x with
      pkt := if (s.cw.micro x).word = 0 ∧ (s.cw.micro x).mid = false then [] else (s.cw.micro x).pkt } := by
  refine ⟨_, exec_ifence ht, onlyWarp_setCw s _ (by rfl) (by rfl), ?_, fun x => ?_⟩
  · rw [State.setCw_cw]
  · rw [State.setCw_cw]
    cases x <;> exact (unfetched_eq _ true).trans (by simp [Warp.micro])

end Sys2Proof.Laws
namespace Sys2Proof.Laws

open Sys2Proof Sys2Proof.Machine Sys2Proof.Claims

/-! ### The pending release fences while a core writes back (R276, R288, R402) -/

/-- The issuing slot and every warp's pending release fences are as before. -/
def FencesKept (s t : State) : Prop := t.cur = s.cur ∧ ∀ k, (t.warp k).rel = (s.warp k).rel

theorem FencesKept.refl (s : State) : FencesKept s s := ⟨rfl, fun _ => rfl⟩

theorem FencesKept.trans {s t u : State} (h : FencesKept s t) (g : FencesKept t u) : FencesKept s u :=
  ⟨g.1.trans h.1, fun k => (g.2 k).trans (h.2 k)⟩

theorem FencesKept.foldl {α : Type} {f : State → α → State} (h : ∀ s a, FencesKept s (f s a)) (l : List α) (s : State) :
    FencesKept s (l.foldl f s) := by
  induction l generalizing s with
  | nil => exact .refl s
  | cons a l ih => exact (h s a).trans (ih (f s a))

theorem fencesKept_of_warps {s t : State} (hcur : t.cur = s.cur) (hwarps : t.warps = s.warps) : FencesKept s t :=
  ⟨hcur, fun k => by unfold State.warp; rw [hwarps]⟩

theorem fencesKept_of_homeStep {s t : State} (h : HomeStep s t) : FencesKept s t := fencesKept_of_warps h.cur h.warps

theorem setMicro_rel (w : Warp) (b : Bool) (m : Micro) : (w.setMicro b m).rel = w.rel := by cases b <;> rfl

theorem fencesKept_finishWait (s : State) (t : Turn) (x : Wake) {f : Warp → Warp} (hf : ∀ w, (f w).rel = w.rel) :
    FencesKept s (s.finishWait t x f) := by
  refine ⟨by rw [finishWait_frame], fun k => ?_⟩
  by_cases hk : k = t.warp
  · subst hk
    unfold State.finishWait
    simp only
    split
    · rw [State.warp_setWarp_self, setMicro_rel, hf]
    · rw [State.warp_setWarp_self, setMicro_rel]
  · rw [warp_finishWait_ne s t x f hk]

theorem fencesKept_endBowait (s : State) (t : Turn) (done : Bool) : FencesKept s (s.endBowait t done) := by
  unfold State.endBowait
  split
  · refine FencesKept.trans ?_ (fencesKept_finishWait _ t _ fun _ => rfl)
    split
    · exact fencesKept_of_homeStep (homeStep_invalidateClean s _)
    · exact .refl s
  · exact .refl s

theorem fencesKept_wakeObjs (s : State) (b off n : Nat) : FencesKept s (s.wakeObjs b off n) := by
  refine FencesKept.foldl (fun s t => ?_) _ s
  split
  · exact fencesKept_endBowait s t true
  · exact .refl s

theorem fencesKept_dropSegment (s : State) (core seg : Nat) : FencesKept s (s.dropSegment core seg) := by
  unfold State.dropSegment
  simp only
  split
  · exact .refl s
  · exact FencesKept.trans (t := s.setCore core _) (fencesKept_of_warps rfl rfl)
      (FencesKept.foldl (fun s e => FencesKept.trans (t := s.setBlock _ _) (fencesKept_of_warps rfl rfl)
        (fencesKept_wakeObjs _ _ _ _)) _ _)

theorem fencesKept_leaveSegment (s : State) (core seg : Nat) : FencesKept s (s.leaveSegment core seg) :=
  (fencesKept_dropSegment s core seg).trans (fencesKept_of_warps rfl rfl)

theorem fencesKept_flushCore (s : State) (core : Nat) : FencesKept s (s.flushCore core) :=
  (fencesKept_of_homeStep (homeStep_flushLines s core)).trans
    (FencesKept.foldl (fun s seg => fencesKept_leaveSegment s core seg) _ _)

theorem fencesKept_raiseEpoch (s : State) (core : Nat) : FencesKept s (s.raiseEpoch core).2 := by
  unfold State.raiseEpoch
  simp only
  split
  · exact (fencesKept_of_homeStep (homeStep_writeBack s core _)).trans (fencesKept_of_warps rfl rfl)
  · exact fencesKept_of_warps rfl rfl

/-! ### A core at rest writes back (R264, R288, R298) -/

theorem orderedLine_congr {m m' : Memory} {l : Line} (h : OrderedLine m l)
    (hm : ∀ a, a / 128 = l.line → Memory.byte m' a = Memory.byte m a) : OrderedLine m' l :=
  ⟨h.line, h.poison, h.sorted, fun e he => ⟨(h.bytes e he).1, fun hd => by
    rw [hm _ (by have := (h.bytes e he).1; omega)]
    exact (h.bytes e he).2 hd⟩⟩

theorem lineByte_congr {m m' : Memory} {l : Line} {a : Nat} (hm : Memory.byte m' a = Memory.byte m a) :
    lineByte m' l a = lineByte m l a := by
  unfold lineByte
  rw [hm]

/-- A line without a dirty byte holds what stands at its home. -/
theorem lineByte_of_clean {m : Memory} {l : Line} (h : OrderedLine m l) (hd : l.isDirty = false) {a : Nat}
    (ha : a / 128 = l.line) : lineByte m l a = Memory.byte m a := by
  have hnil : l.dirty = [] := by
    refine List.eq_nil_iff_forall_not_mem.mpr fun c hc => ?_
    obtain ⟨e, he, hdirty, -⟩ := (mem_dirty l c).mp hc
    exact Bool.false_ne_true (hd.symm.trans (List.any_eq_true.mpr ⟨e, he, hdirty⟩))
  have hbyte := byte_writeCells_dirty h a
  rw [if_pos ha, hnil] at hbyte
  exact hbyte.symm

/-- Lines of a core go home one after the other. -/
theorem foldl_mergeLine_quiet {s : State} (hq : QuietHome s) (c : Nat) {ls : List Line} (hnodup : (ls.map (·.line)).Nodup)
    (hls : ∀ l ∈ ls, OrderedLine s.mem l) :
    let t := ls.foldl (State.mergeLine State.writePrep c) s
    QuietHome t ∧ t.cores = s.cores ∧ ∀ a, t.mem.byte a = match ls.find? fun l => l.line == a / 128 with
      | some l => lineByte s.mem l a
      | none => s.mem.byte a := by
  induction ls generalizing s with
  | nil => exact ⟨hq, rfl, fun _ => rfl⟩
  | cons l ls ih =>
    obtain ⟨hnew, hnodup⟩ := List.nodup_cons.mp hnodup
    obtain ⟨hq1, hcores1, hbyte1⟩ := mergeLine_quiet hq (hls l List.mem_cons_self) c
    have hother (x : Line) (hx : x ∈ ls) : x.line ≠ l.line := fun h => hnew (List.mem_map.mpr ⟨x, hx, h⟩)
    obtain ⟨hq2, hcores2, hbyte2⟩ := ih hq1 hnodup fun x hx =>
      orderedLine_congr (hls x (List.mem_cons_of_mem l hx)) fun a ha => by
        rw [hbyte1, if_neg (by rw [ha]; exact hother x hx)]
    refine ⟨hq2, hcores2.trans hcores1, fun a => ?_⟩
    rw [List.foldl_cons, hbyte2, List.find?_cons]
    by_cases ha : l.line = a / 128
    · have hnone : (ls.find? fun x => x.line == a / 128) = none := by
        refine List.find?_eq_none.mpr fun x hx hxa => hother x hx ?_
        rw [ha]
        simpa using hxa
      rw [hnone, beq_iff_eq.mpr ha, hbyte1, if_pos ha.symm]
    · have hne : (l.line == a / 128) = false := by simpa using ha
      rw [hne]
      have hsame : (State.mergeLine State.writePrep c s l).mem.byte a = s.mem.byte a := by
        rw [hbyte1, if_neg fun h => ha h.symm]
      cases ls.find? fun x => x.line == a / 128 with
      | none => exact hsame
      | some x => exact lineByte_congr hsame

end Sys2Proof.Laws
namespace Sys2Proof.Laws

open Sys2Proof Sys2Proof.Machine Sys2Proof.Claims

/-- From s to t the lines of a core have gone home: it holds no dirty line, and memory stands as it saw it. -/
structure WrittenBack (s t : State) (c : Nat) : Prop where
  mem : ∀ a, t.mem.byte a = coreByte s c a
  clean : ∀ l ∈ (t.core c).l1, l.isDirty = false
  warps : t.warps = s.warps

theorem writeBack_of_clean {s : State} {c : Nat} (h : ∀ l ∈ (s.core c).l1, l.isDirty = false) :
    s.writeBack c Line.isDirty = s := by
  have hnone : ((s.core c).l1.any Line.isDirty) = false := by simpa using h
  unfold State.writeBack State.writeBackIf
  simp only [hnone, Bool.false_eq_true, if_false]

/-- Memory with the dirty lines of a core written over it is as the core sees it. -/
theorem coreByte_of_dirty {s : State} {c : Nat} (ho : OrderedL1 s c) (a : Nat) :
    coreByte s c a = match ((s.core c).l1.filter Line.isDirty).find? fun l => l.line == a / 128 with
      | some l => lineByte s.mem l a
      | none => s.mem.byte a := by
  obtain ⟨-, hnodup, -, -⟩ := id ho
  cases hf : (s.core c).l1Find (a / 128) with
  | none =>
    have hnone : (((s.core c).l1.filter Line.isDirty).find? fun l => l.line == a / 128) = none :=
      List.find?_eq_none.mpr fun l hl => List.find?_eq_none.mp hf l (List.mem_filter.mp hl).1
    rw [hnone, coreByte_of_find.2 hf]
  | some l =>
    have hl : l ∈ (s.core c).l1 := List.mem_of_find?_eq_some hf
    have hline : l.line = a / 128 := by simpa using List.find?_some hf
    rw [coreByte_of_find.1 l hf]
    cases hd : l.isDirty with
    | true =>
      have hsome : (((s.core c).l1.filter Line.isDirty).find? fun l => l.line == a / 128) = some l := by
        refine find?_eq_some_of_unique (List.mem_filter.mpr ⟨hl, hd⟩) (beq_iff_eq.mpr hline) fun y hy hya => ?_
        have hya' : y.line = a / 128 := by simpa using hya
        exact eq_of_nodup_map hnodup (List.mem_filter.mp hy).1 hl (hya'.trans hline.symm)
      rw [hsome]
    | false =>
      have hnone : (((s.core c).l1.filter Line.isDirty).find? fun l => l.line == a / 128) = none := by
        refine List.find?_eq_none.mpr fun y hy hya => ?_
        have hya' : y.line = a / 128 := by simpa using hya
        obtain ⟨hy1, hy2⟩ := List.mem_filter.mp hy
        rw [eq_of_nodup_map hnodup hy1 hl (hya'.trans hline.symm), hd] at hy2
        exact Bool.false_ne_true hy2
      rw [hnone, lineByte_of_clean (orderedLine_of_orderedL1 ho hl) hd hline.symm]

theorem isDirty_cleaned (l : Line) : l.cleaned.isDirty = false := by simp [Line.cleaned, Line.isDirty]

section
variable {s : State} {c : Nat} (hq : QuietHome s) (ho : OrderedL1 s c)
include hq ho

/-- The dirty lines of a core at rest go home. -/
theorem writtenBack_writeBack : WrittenBack s (s.writeBack c Line.isDirty) c ∧
    ((s.writeBack c Line.isDirty).core c).acc = [] := by
  by_cases hany : ((s.core c).l1.any Line.isDirty) = true
  · let x : Core := { s.core c with l1 := (s.core c).l1.map fun l => if l.isDirty then l.cleaned else l }
    have ht : s.writeBack c Line.isDirty =
        ((s.core c).l1.filter Line.isDirty).foldl (State.mergeLine State.writePrep c) (s.setCore c x) := if_pos hany
    obtain ⟨-, hcores, hbyte⟩ := foldl_mergeLine_quiet (s := s.setCore c x) hq c
      (ls := (s.core c).l1.filter Line.isDirty) ((List.filter_sublist.map _).nodup ho.2.1)
      fun l hl => orderedLine_of_orderedL1 ho (List.mem_filter.mp hl).1
    rw [← ht] at hcores hbyte
    have hcore : (s.writeBack c Line.isDirty).core c = x := by
      unfold State.core
      rw [hcores]
      exact State.core_setCore_self s c x
    refine ⟨⟨fun a => (hbyte a).trans (coreByte_of_dirty ho a).symm, fun l hl => ?_, (homeStep_writeBack s c _).warps⟩, ?_⟩
    · rw [hcore] at hl
      obtain ⟨y, -, rfl⟩ := List.mem_map.mp hl
      cases hy : y.isDirty with
      | true => exact isDirty_cleaned y
      | false => exact hy
    · rw [hcore]
      exact ho.1
  · have hclean : ∀ l ∈ (s.core c).l1, l.isDirty = false := by simpa using hany
    have hnil : (s.core c).l1.filter Line.isDirty = [] := List.filter_eq_nil_iff.mpr fun l hl => by simp [hclean l hl]
    rw [writeBack_of_clean hclean]
    refine ⟨⟨fun a => ?_, hclean, rfl⟩, ho.1⟩
    rw [coreByte_of_dirty ho a, hnil]
    rfl

theorem writtenBack_flushLines : WrittenBack s (s.flushLines c) c := by
  obtain ⟨hback, hacc⟩ := writtenBack_writeBack hq ho
  unfold State.flushLines
  simp only [hacc, List.map_nil, List.foldl_nil]
  exact hback

end

/-- From s to t partials of the scratchpads have gone to their blocks, where no slot waits at a barrier object: no warp, no
byte of global memory and no line of an L1 has changed. -/
def PartialsSent (s t : State) : Prop :=
  t.warps = s.warps ∧ t.mem = s.mem ∧ ∀ c, (t.core c).l1 = (s.core c).l1

theorem PartialsSent.refl (s : State) : PartialsSent s s := ⟨rfl, rfl, fun _ => rfl⟩

theorem PartialsSent.trans {s t u : State} (h : PartialsSent s t) (g : PartialsSent t u) : PartialsSent s u :=
  ⟨g.1.trans h.1, g.2.1.trans h.2.1, fun c => (g.2.2 c).trans (h.2.2 c)⟩

theorem partialsSent_setCore (s : State) (c : Nat) {x : Core} (hx : x.l1 = (s.core c).l1) : PartialsSent s (s.setCore c x) := by
  refine ⟨rfl, rfl, fun d => ?_⟩
  rw [State.core_setCore]
  split
  · next h => rw [hx, h]
  · rfl

/-- No slot of any warp waits at a barrier object. -/
def NoObjectWait (ws : Tab Warp) : Prop := ∀ k x, ¬ AtObject ((Tab.get {} ws k : Warp).micro x).wait

theorem PartialsSent.foldl {α : Type} {f : State → α → State} {ws : Tab Warp}
    (hf : ∀ s a, s.warps = ws → PartialsSent s (f s a)) (l : List α) {s : State} (hs : s.warps = ws) :
    PartialsSent s (l.foldl f s) := by
  induction l generalizing s with
  | nil => exact .refl s
  | cons a l ih =>
    have h := hf s a hs
    exact h.trans (ih (h.1.trans hs))

theorem partialsSent_leaveSegment {s : State} (hs : NoObjectWait s.warps) (core seg : Nat) :
    PartialsSent s (s.leaveSegment core seg) := by
  refine PartialsSent.trans (t := s.dropSegment core seg) ?_ (partialsSent_setCore _ _ (by rfl))
  unfold State.dropSegment
  simp only
  split
  · exact .refl s
  · refine (partialsSent_setCore s core (by rfl)).trans (PartialsSent.foldl (ws := s.warps) (fun u e hu => ?_) _ rfl)
    rw [wakeObjs_noWaiter fun k x => by
      show ¬ AtObject ((Tab.get {} u.warps k : Warp).micro x).wait
      rw [hu]
      exact hs k x]
    exact ⟨rfl, rfl, fun _ => rfl⟩

/-- What a core at rest holds goes home, where no slot waits at a barrier object (R288). -/
theorem writtenBack_flushCore {s : State} {c : Nat} (hq : QuietHome s) (ho : OrderedL1 s c) (hs : NoObjectWait s.warps) :
    WrittenBack s (s.flushCore c) c := by
  have hlines := writtenBack_flushLines hq ho
  have hsent : PartialsSent (s.flushLines c) (s.flushCore c) :=
    PartialsSent.foldl (ws := s.warps) (fun u seg hu => partialsSent_leaveSegment (by rwa [hu]) c seg) _ hlines.warps
  refine ⟨fun a => ?_, fun l hl => ?_, hsent.1.trans hlines.warps⟩
  · rw [hsent.2.1]
    exact hlines.mem a
  · rw [hsent.2.2] at hl
    exact hlines.clean l hl

theorem writtenBack_raiseEpoch {s t : State} {c : Nat} (h : WrittenBack s t c) : WrittenBack s (t.raiseEpoch c).2 c := by
  have hraised : ∃ n, (t.raiseEpoch c).2 = t.setCore c { t.core c with epoch := n } := by
    unfold State.raiseEpoch
    simp only
    split
    · rw [writeBack_of_clean h.clean]
      exact ⟨_, rfl⟩
    · exact ⟨_, rfl⟩
  obtain ⟨n, hn⟩ := hraised
  rw [hn]
  refine ⟨h.mem, fun l hl => ?_, h.warps⟩
  rw [State.core_setCore_self] at hl
  exact h.clean l hl

end Sys2Proof.Laws
namespace Sys2Proof.Laws

open Sys2Proof Sys2Proof.Machine Sys2Proof.Claims

/-! ### The release that an icinv completes (R402) -/

/-- A release fence of `.dev` or `.dom` scope still waits for the write of a lane of the slot's mask. -/
def Fenced (s : State) : Prop := ∃ r ∈ s.cw.rel, 3 ≤ r.scope ∧ r.lanes &&& s.mask ≠ 0#32

/-- The pending release fences without those lanes. -/
def fencesLeft (s : State) : List RelPend :=
  (s.cw.rel.map fun r => if 3 ≤ r.scope then { r with lanes := r.lanes &&& ~~~s.mask } else r).filter
    fun r => decide (r.lanes ≠ 0#32)

theorem any_fenced_iff (s : State) : (s.cw.rel.any fun r => decide (3 ≤ r.scope) && decide (r.lanes &&& s.mask ≠ 0#32)) = true ↔
    Fenced s := by
  simp only [List.any_eq_true, Bool.and_eq_true, decide_eq_true_eq, Fenced]

theorem completeRelease_of_not_fenced {s : State} (h : ¬ Fenced s) : s.completeRelease = s :=
  if_neg (mt (any_fenced_iff s).mp h)

/-- The state without those fences. -/
def unfenced (s : State) : State := s.setCw { s.cw with rel := fencesLeft s }

theorem release_eager (s : State) {scope : Nat} (h : scope ≠ 0) :
    s.release scope true = (none, ((s.flushCore s.here).raiseEpoch s.here).2) := by
  unfold State.release
  rw [if_neg h, Bool.true_or, if_pos rfl]

theorem completeRelease_of_fenced {s : State} (h : Fenced s) :
    s.completeRelease = (((unfenced s).flushCore s.here).raiseEpoch s.here).2 := by
  have hrel : s.completeRelease = ((unfenced s).release 3 true).2 := by
    unfold State.completeRelease
    exact if_pos ((any_fenced_iff s).mpr h)
  rw [hrel, release_eager _ (by decide)]
  rfl

theorem mem_fencesLeft (s : State) {l : Nat} (hl : l < 32) (sc : Nat) :
    (∃ r ∈ fencesLeft s, r.scope = sc ∧ r.lanes.getLsbD l = true) ↔
      (∃ r ∈ s.cw.rel, r.scope = sc ∧ r.lanes.getLsbD l = true) ∧ ¬ (3 ≤ sc ∧ s.inMask l = true) := by
  have hlane (r : RelPend) : (r.lanes &&& ~~~s.mask).getLsbD l = true ↔ r.lanes.getLsbD l = true ∧ s.inMask l = false := by
    rw [BitVec.getLsbD_and, BitVec.getLsbD_not, decide_eq_true hl, Bool.true_and, Bool.and_eq_true, Bool.not_eq_true']
    rfl
  have hsome (r : RelPend) (h : r.lanes.getLsbD l = true) : r.lanes ≠ 0#32 := fun h0 => by simp [h0] at h
  constructor
  · rintro ⟨r, hr, hsc, hbit⟩
    obtain ⟨y, hy, rfl⟩ := List.mem_map.mp (List.mem_filter.mp hr).1
    by_cases h3 : 3 ≤ y.scope
    · rw [if_pos h3] at hsc hbit
      obtain ⟨hin, hout⟩ := (hlane y).mp hbit
      exact ⟨⟨y, hy, hsc, hin⟩, fun ⟨_, hmask⟩ => Bool.false_ne_true (hout.symm.trans hmask)⟩
    · rw [if_neg h3] at hsc hbit
      exact ⟨⟨y, hy, hsc, hbit⟩, fun ⟨hge, _⟩ => h3 (hsc ▸ hge)⟩
  · rintro ⟨⟨r, hr, rfl, hbit⟩, hnot⟩
    by_cases h3 : 3 ≤ r.scope
    · have hkept := (hlane r).mpr ⟨hbit, by simpa [h3] using hnot⟩
      refine ⟨{ r with lanes := r.lanes &&& ~~~s.mask }, List.mem_filter.mpr ⟨List.mem_map.mpr ⟨r, hr, if_pos h3⟩, ?_⟩, rfl, hkept⟩
      exact decide_eq_true (hsome { r with lanes := r.lanes &&& ~~~s.mask } hkept)
    · exact ⟨r, List.mem_filter.mpr ⟨List.mem_map.mpr ⟨r, hr, if_neg h3⟩, decide_eq_true (hsome r hbit)⟩, rfl, hbit⟩

theorem warp_unfenced (s : State) (k : Nat) : (unfenced s).warp k = { s.warp k with rel := ((unfenced s).warp k).rel } := by
  unfold unfenced
  by_cases hk : k = s.cur.warp
  · rw [hk, show (s.setCw { s.cw with rel := fencesLeft s }).warp s.cur.warp = _ from State.setCw_cw s _]
    rfl
  · rw [State.setCw_warp_ne s _ hk]

theorem rel_completeRelease {s : State} (h : Fenced s) : s.completeRelease.cw.rel = fencesLeft s := by
  rw [completeRelease_of_fenced h]
  obtain ⟨hcur, hrel⟩ := (fencesKept_flushCore (unfenced s) s.here).trans (fencesKept_raiseEpoch _ s.here)
  unfold State.cw
  rw [hcur, hrel]
  exact congrArg Warp.rel (State.setCw_cw s { s.cw with rel := fencesLeft s })

/-- The core's dirty lines go home, at rest (R402). -/
theorem writtenBack_completeRelease {s : State} (h : Fenced s) (hq : QuietHome s) (hs : QuietScratch s)
    (ho : OrderedL1 s s.here) : (∀ p, s.completeRelease.mem.byte p = coreByte s s.here p) ∧
      (∀ l ∈ (s.completeRelease.core s.here).l1, l.isDirty = false) ∧
      ∀ k, (s.completeRelease.warp k).regs = (s.warp k).regs ∧ (s.completeRelease.warp k).ctl = (s.warp k).ctl := by
  have hwait : NoObjectWait (unfenced s).warps := fun k x => by
    show ¬ AtObject (((unfenced s).warp k).micro x).wait
    rw [warp_unfenced]
    exact hs.2 k x
  have hback := writtenBack_raiseEpoch (writtenBack_flushCore (s := unfenced s) (c := s.here) hq ho hwait)
  rw [← completeRelease_of_fenced h] at hback
  refine ⟨hback.mem, hback.clean, fun k => ?_⟩
  have hwarp : s.completeRelease.warp k = (unfenced s).warp k := by
    unfold State.warp
    rw [hback.warps]
  rw [hwarp, warp_unfenced]
  exact ⟨rfl, rfl⟩

/-- Settles O17: an `icinv` completes the release before it, and then every core and every warp drops its packets. -/
theorem codeModificationResults : Obligations.CodeModificationResults := by
  intro s h a b ht start len gone place drops fenced
  have hdrops (u : State) : drops u (dropPackets s.myCtx (inRange start len) u) :=
    packetsGone_dropPackets s.myCtx (inRange start len) u
  refine ⟨fun hlen => ?_, fun hlen hf => ⟨_, exec_icinv ht a b hlen, ?_⟩, fun hlen hf => ?_, ifence_spec ht⟩
  · exact if_neg fun hc => hc.2 (BitVec.eq_of_toNat_eq hlen)
  · rw [completeRelease_of_not_fenced hf]
    exact hdrops s
  · refine ⟨_, s.completeRelease, exec_icinv ht a b hlen, hdrops _, fun l hl sc => ?_, writtenBack_completeRelease hf⟩
    rw [rel_completeRelease hf]
    exact mem_fencesLeft s hl sc

end Sys2Proof.Laws
/-! ## Spans that overrun (R104) -/

namespace Sys2Proof.Laws

open Sys2Proof Sys2Proof.Machine Sys2Proof.Claims

theorem sameBytes_trans {s t u : State} (h : SameBytes s t) (g : SameBytes t u) : SameBytes s u :=
  ⟨fun a => (g.1 a).trans (h.1 a), fun b a => (g.2.1 b a).trans (h.2.1 b a), fun k a => (g.2.2 k a).trans (h.2.2 k a)⟩

/-- A core whose window is empty and of whose queue the window delivered no chained word has nothing to discard (R251). -/
theorem discardWindow_empty {s : State} {core : Nat} (hw : (s.core core).window = [])
    (hb : ∀ x ∈ (s.core core).queue, x.back = none) (block : Nat) : s.discardWindow core block = s := by
  have hchain : s.deliveredChain core block = none := by
    refine List.find?_eq_none.mpr fun x hx => ?_
    simp [hb x hx]
  unfold State.discardWindow
  simp only [hchain, hw]

/-! ### A waiting slot takes its instruction back (R104) -/

/-- From s to t barriers, takers and what the cores hold may have changed, and nothing else. -/
structure Unqueued (s t : State) : Prop where
  frame : t = { s with blocks := t.blocks, cores := t.cores }
  block : ∀ b, t.block b = { s.block b with bars := (t.block b).bars, takers := (t.block b).takers }

theorem Unqueued.refl (s : State) : Unqueued s s := ⟨rfl, fun _ => rfl⟩

theorem Unqueued.trans {s t u : State} (h : Unqueued s t) (g : Unqueued t u) : Unqueued s u :=
  ⟨g.frame.trans (by rw [h.frame]), fun b => (g.block b).trans (by rw [h.block b])⟩

theorem Unqueued.foldl {α : Type} {f : State → α → State} (hf : ∀ s a, Unqueued s (f s a)) (l : List α) (s : State) :
    Unqueued s (l.foldl f s) := by
  induction l generalizing s with
  | nil => exact .refl s
  | cons a l ih => exact (hf s a).trans (ih (f s a))

theorem Unqueued.warp {s t : State} (h : Unqueued s t) (k : Nat) : t.warp k = s.warp k := by rw [h.frame]; rfl

theorem Unqueued.sameBytes {s t : State} (h : Unqueued s t) : SameBytes s t := by
  refine ⟨fun a => by rw [h.frame], fun b a => by rw [h.block b], fun k a => ?_⟩
  rw [h.frame]
  rfl

theorem Unqueued.codeBase {s t : State} (h : Unqueued s t) (k : Nat) : t.codeBase k = s.codeBase k := by
  unfold State.codeBase
  rw [h.warp, h.block, h.frame]
  rfl

theorem unqueued_setBlock (s : State) (b : Nat) {x : Block}
    (hx : x = { s.block b with bars := x.bars, takers := x.takers }) : Unqueued s (s.setBlock b x) := by
  refine ⟨rfl, fun d => ?_⟩
  rw [State.block_setBlock]
  split
  · next h => rw [h]; exact hx
  · rfl

theorem unqueued_setCore (s : State) (c : Nat) (x : Core) : Unqueued s (s.setCore c x) := ⟨rfl, fun _ => rfl⟩

/-- The slot that takes its instruction back waits no longer; it leaves the queue or the barrier that it waits at. -/
theorem withdraw_eq (s : State) (t : Turn) : ∃ u, Unqueued s u ∧ s.withdraw t false =
    u.setWarp t.warp ((s.warp t.warp).setMicro t.slotB { (s.warp t.warp).micro t.slotB with wait := .none }) := by
  have hleave : ∃ u, Unqueued s u ∧ s.withdraw t false =
      u.setWarp t.warp ((u.warp t.warp).setMicro t.slotB { (u.warp t.warp).micro t.slotB with wait := .none }) := by
    unfold State.withdraw
    simp only
    rw [if_neg (by split <;> exact Bool.false_ne_true)]
    refine ⟨_, ?_, rfl⟩
    split
    · split
      · exact .refl s
      · exact unqueued_setBlock s _ (by rfl)
    · exact unqueued_setCore s _ _
    · exact unqueued_setBlock s _ (by rfl)
    · exact Unqueued.foldl (fun u x => (unqueued_setCore u _ _).trans (unqueued_setCore _ _ _)) _ s
    · exact .refl s
  obtain ⟨u, hu, heq⟩ := hleave
  exact ⟨u, hu, by rw [heq, hu.warp]⟩

/-! ### The stop of a warp between groups -/

theorem setMicro_npr (w : Warp) (b : Bool) (m : Micro) : (w.setMicro b m).npr = w.npr := by cases b <;> rfl

/-- A warp that is stopped for another cause than poison stands at the next group that its stop slot has not issued, with that
group's address as what its trap is told (R104, R382). -/
theorem stopAt_spec (s : State) (k : Nat) {i : Word → TrapInfo} (hi : ∀ a, (i a).cause ≠ .poison) :
    let w := s.warp k
    let m := w.micro w.stopSlot
    let a := placeOfSlot s k w.stopSlot m.resumeWord
    let x := (s.stopAt k i).warp k
    SameBytes s (s.stopAt k i) ∧ x.stat = .stopped ∧ x.regs = w.regs ∧ x.taddr = (i a).taddr ∧
      x.npr = (w.npr && decide ((i a).cause ≠ .nprOverrun)) ∧
      x.cause = BitVec.ofNat 8 ((i a).cause.code + if (i a).rewritten then 0x80 else 0) := by
  intro w m a x
  obtain ⟨u, hu, hw⟩ := withdraw_eq s ⟨k, w.stopSlot⟩
  let v : Warp := (w.setMicro w.stopSlot { m with wait := .none }).setMicro w.stopSlot
    { m with wait := .none, word := m.resumeWord, group := m.resumeWord }
  let r := (u.setWarp k (w.setMicro w.stopSlot { m with wait := .none })).setWarp k v
  have hr : r.warp k = v := State.warp_setWarp_self _ _ _
  have haddr : r.slotAddr ⟨k, w.stopSlot⟩ = a := by
    have hcode : r.codeBase k = s.codeBase k := by
      rw [← hu.codeBase k]
      unfold State.codeBase
      rw [hr, hu.warp, show v.block = w.block by simp [v]]
      rfl
    unfold State.slotAddr
    rw [hcode, hr]
    simp only [v, Warp.setMicro_ctl, Warp.micro_setMicro]
    rfl
  have hstop : s.stopAt k i = r.takeTrap ⟨k, w.stopSlot⟩ (i a) := by
    rw [← haddr]
    unfold State.stopAt
    simp only [show (s.warp k).stopSlot = w.stopSlot from rfl, hw, State.warp_setWarp_self, Warp.micro_setMicro]
    rfl
  obtain ⟨e, g, d, l, htrap⟩ := warp_takeTrap_self r ⟨k, w.stopSlot⟩ (hi a)
  rw [hr] at htrap
  have hx : x = _ := (congrArg (State.warp · k) hstop).trans htrap
  rw [hx, hstop]
  refine ⟨?_, rfl, ?_, rfl, ?_, rfl⟩
  · have hleft : SameBytes s r := hu.sameBytes
    exact sameBytes_trans hleft (sameBytes_of_stopStep (stopStep_takeTrap r _ _))
  · simp [v, Warp.trapped]
  · simp [v, Warp.trapped, setMicro_npr]

/-- A span that has not reached its limit, or of a warp that does not run, does not overrun (R104). -/
theorem exec_nprOverrun_none {s : State} {k : Nat}
    (h : (s.warp k).npr = false ∨ (s.warp k).stat ≠ .running ∨ (s.warp k).nprCount < 16384) :
    exec (.nprOverrun k) s = .next s := by
  refine if_pos ?_
  rwa [Bool.not_eq_true']

/-- A span at its limit stops its warp (R104). -/
theorem nprOverrun_stops {s : State} {k : Nat} (hnpr : (s.warp k).npr = true) (hrun : (s.warp k).stat = .running)
    (hlimit : 16384 ≤ (s.warp k).nprCount) (hwindow : (s.core (k / 48)).window = [])
    (hback : ∀ x ∈ (s.core (k / 48)).queue, x.back = none) :
    let w := s.warp k
    let m := w.micro w.stopSlot
    ∃ t, exec (.nprOverrun k) s = .next t ∧ (t.warp k).stat = .stopped ∧ (t.warp k).cause = 0x0B#8 ∧
      (t.warp k).npr = false ∧ (t.warp k).taddr = placeOfSlot s k w.stopSlot (if m.mid then m.group else m.word) ∧
      (t.warp k).regs = w.regs ∧ SameBytes s t := by
  intro w m
  have hexec : exec (.nprOverrun k) s = .next (s.stopAt k fun a => { cause := .nprOverrun, taddr := a, waddr := a }) := by
    have hgoes : ¬ ((!(s.warp k).npr) = true ∨ (s.warp k).stat ≠ .running ∨ (s.warp k).nprCount < Config.nprLimit) := by
      rw [hnpr, hrun]
      simpa [Config.nprLimit] using hlimit
    refine (if_neg hgoes).trans ?_
    unfold State.stopWarp
    rw [discardWindow_empty (core := coreOfWarp k) hwindow hback]
  obtain ⟨hbytes, hstat, hregs, htaddr, hspan, hcause⟩ := stopAt_spec s k
    (i := fun a => { cause := .nprOverrun, taddr := a, waddr := a }) fun _ => Cause.noConfusion
  refine ⟨_, hexec, hstat, hcause, ?_, htaddr, hregs, hbytes⟩
  rw [hspan]
  exact Bool.and_false _

end Sys2Proof.Laws

/-! ## The limit of a wait at a barrier object (R311, R313, R316) -/

namespace Sys2Proof.Laws

open Sys2Proof Sys2Proof.Machine Sys2Proof.Claims

/-- The phase of an object is the top bit of its word (R311). -/
theorem num_div_topBit (m : Memory) (o : Nat) : m.num o 8 / 2 ^ 63 = if (m.byte (o + 7)).getLsbD 7 then 1 else 0 := by
  have hlow : leNat (m.read o 7) < 256 ^ 7 := by
    have h := leNat_lt (m.read o 7)
    rwa [Memory.length_read] at h
  have hnum : m.num o 8 = leNat (m.read o 7) + 256 ^ 7 * (m.byte (o + 7)).toNat := by
    simp only [Memory.num, Memory.read, leNat, Nat.add_assoc, Nat.reduceAdd]
    omega
  have hbyte := (m.byte (o + 7)).isLt
  have htop : (m.byte (o + 7)).getLsbD 7 = decide ((m.byte (o + 7)).toNat / 2 ^ 7 % 2 = 1) := by
    rw [BitVec.getLsbD, Nat.testBit_eq_decide_div_mod_eq]
  rw [htop, hnum]
  by_cases h : (m.byte (o + 7)).toNat / 2 ^ 7 % 2 = 1
  · rw [decide_eq_true h, if_pos rfl]
    omega
  · rw [decide_eq_false h, if_neg Bool.false_ne_true]
    omega

/-- The object that a slot waits at has left the token's phase. -/
abbrev LeftPhase (s : State) (b o : Nat) (tok : Bool) : Prop := (s.block b).scratch.num o 8 / 2 ^ 63 ≠ if tok then 1 else 0

theorem objDone_eq (s : State) (b o limit d : Nat) (tok : Bool) (cls : BitVec 2) :
    s.objDone (.bowait b o tok limit d cls) = decide (LeftPhase s b o tok) := by
  unfold LeftPhase
  rw [num_div_topBit]
  show ((((s.block b).scratch.byte (o + 7)).getLsbD 7) != tok) = _
  cases ((s.block b).scratch.byte (o + 7)).getLsbD 7 <;> cases tok <;> decide

section
variable {s : State} {k : Nat} {x : Bool} {b o limit d : Nat} {tok : Bool} {cls : BitVec 2}
  (hw : ((s.warp k).micro x).wait = .bowait b o tok limit d cls)
include hw

theorem exec_bowaitExpire : exec (.bowaitExpire k x) s =
    if (limit = 0 ∧ ¬ LeftPhase s b o tok) ∨ (s.warp k).stat ≠ .running then .next s
    else .next (s.endBowait ⟨k, x⟩ (decide (LeftPhase s b o tok))) := by
  show execBowaitExpire k x s = _
  unfold execBowaitExpire
  simp only [hw, objDone_eq, Bool.not_eq_true', decide_eq_false_iff_not]

/-- A wait that ends, on completion or at its limit. -/
theorem endBowait_spec (done : Bool) :
    let t := s.endBowait ⟨k, x⟩ done
    (¬ MoreInGroup ((s.warp k).micro x) → ∀ q, Tab.get 0#64 (t.warp k).regs.s q =
        if q = d then (if done then 1#64 else 0#64) else Tab.get 0#64 (s.warp k).regs.s q) ∧
      (MoreInGroup ((s.warp k).micro x) → (t.warp k).regs = (s.warp k).regs) ∧
      Resumed ((s.warp k).micro x) ((t.warp k).micro x) (.done done) ∧ OtherWarps s t k ∧ SameBytes s t := by
  intro t
  obtain ⟨u, hu, hbytes, ht⟩ : ∃ u : State, u.warps = s.warps ∧ SameBytes s u ∧
      t = u.finishWait ⟨k, x⟩ (.done done) fun w => w.putS d (if done then 1#64 else 0#64) := by
    refine ⟨if done ∧ cls.getLsbD 1 ∧ ((s.warp k).micro x).alone then s.invalidateClean (coreOfWarp k) else s, ?_, ?_, ?_⟩
    · split <;> rfl
    · split <;> exact sameBytes_refl s
    · show s.endBowait ⟨k, x⟩ done = _
      unfold State.endBowait
      simp only [hw]
  have hwarp (j : Nat) : u.warp j = s.warp j := by
    unfold State.warp
    rw [hu]
  rw [ht]
  have hres := resumed_finishWait u ⟨k, x⟩ (.done done) (fun w => w.putS d (if done then 1#64 else 0#64))
    fun w => Warp.putS_micro w _ _ _
  refine ⟨fun hm q => ?_, fun hm => ?_, ?_, fun j hj => ?_, sameBytes_trans hbytes (sameBytes_finishWait _ _ _ _)⟩
  · rw [regs_finishWait_alone u ⟨k, x⟩ _ _ (by rwa [hwarp])]
    simp only [Warp.putS_s, Tab.get_put, hwarp]
  · rw [regs_finishWait_more u ⟨k, x⟩ _ _ (by rwa [hwarp]), hwarp]
  · rwa [hwarp] at hres
  · rw [warp_finishWait_ne u ⟨k, x⟩ _ _ hj, hwarp]

/-- The limit of a wait passes (R316). -/
theorem bowaitExpire_spec :
    let w := s.warp k
    let done := LeftPhase s b o tok
    (w.stat ≠ .running ∨ (limit = 0 ∧ ¬ done) → exec (.bowaitExpire k x) s = .next s) ∧
      (w.stat = .running → limit ≠ 0 ∨ done → ∃ t, exec (.bowaitExpire k x) s = .next t ∧
        (¬ MoreInGroup (w.micro x) → ∀ q, Tab.get 0#64 (t.warp k).regs.s q =
          if q = d then (if done then 1#64 else 0#64) else Tab.get 0#64 w.regs.s q) ∧
        (MoreInGroup (w.micro x) → (t.warp k).regs = w.regs) ∧
        Resumed (w.micro x) ((t.warp k).micro x) (.done (decide done)) ∧ OtherWarps s t k ∧ SameBytes s t) := by
  intro w done
  rw [exec_bowaitExpire hw]
  refine ⟨fun h => if_pos h.symm, fun hrun h => ⟨_, if_neg ?_, ?_⟩⟩
  · rintro (⟨h0, hd⟩ | hstat)
    · exact h.elim (fun hne => hne h0) hd
    · exact hstat hrun
  · simpa only [decide_eq_true_eq] using endBowait_spec hw (decide done)

end

end Sys2Proof.Laws

/-! ## The grant of the baton (R212 to R214) -/

namespace Sys2Proof.Laws

open Sys2Proof Sys2Proof.Machine Sys2Proof.Claims

theorem tileIdle_iff (c : Core) : c.tileIdle = true ↔ c.queue = [] ∧ c.streamBusy = none ∧ c.loadBusy = none := by
  simp [Core.tileIdle, and_assoc]

theorem batonOpen_iff (s : State) (c k : Nat) : s.batonOpen c k = true ↔
    EngineOpen s (s.core c) (s.launch (s.block (s.warp k).block).launch).ctx k := by
  unfold State.batonOpen State.reloadFits EngineOpen
  simp only [Bool.and_eq_true, Bool.or_eq_true, beq_iff_eq, tileIdle_iff]
  refine and_congr_right fun _ => ?_
  cases (s.core c).savedEngines.find? fun e => e.holder == some k with
  | none => simp
  | some e => simp [tileIdle_iff]

/-- The slot of a warp goes on where it waits for the baton. -/
def batonMet (s : State) (t : Turn) : State :=
  if ((s.warp t.warp).micro t.slotB).wait = .baton then s.finishWait t .met id else s

/-- Both slots of a warp go on where they wait for the baton. -/
def batonMets (s : State) (k : Nat) : State := batonMet (batonMet s ⟨k, false⟩) ⟨k, true⟩

theorem exec_batonGrant {s : State} {c x : Nat} {rest : List Nat} (hfree : (s.core c).baton = none)
    (hqueue : (s.core c).batonQueue = x :: rest) : exec (.batonGrant c) s =
      if s.batonOpen c (x / 2) = false then .next s
      else .next (batonMets ((State.grantBaton
        (s.setCore c { s.core c with batonQueue := rest.filter fun y => y / 2 != x / 2 }) c (x / 2)).reloadEngine c (x / 2))
          (x / 2)) := by
  show execBatonGrant c s = _
  unfold execBatonGrant
  simp only [hfree, hqueue, Bool.not_eq_true']
  rfl

theorem batonMet_cores (s : State) (t : Turn) : (batonMet s t).cores = s.cores := by
  unfold batonMet
  split
  · rw [finishWait_frame]
  · rfl

theorem warp_finishWait_self (s : State) (k : Nat) (b : Bool) (x : Wake) :
    ∃ m, (s.finishWait ⟨k, b⟩ x id).warp k = (s.warp k).setMicro b m := by
  unfold State.finishWait
  simp only
  split <;> exact ⟨_, State.warp_setWarp_self _ _ _⟩

theorem warp_batonMet_ne (s : State) (t : Turn) {j : Nat} (hj : j ≠ t.warp) : (batonMet s t).warp j = s.warp j := by
  unfold batonMet
  split
  · exact warp_finishWait_ne s t .met id hj
  · rfl

theorem warp_batonMet_self (s : State) (k : Nat) (b : Bool) : ∃ m, (batonMet s ⟨k, b⟩).warp k = (s.warp k).setMicro b m ∧
    GoesOn ((s.warp k).micro b) m := by
  unfold batonMet GoesOn
  split
  · next h =>
    obtain ⟨m, hm⟩ := warp_finishWait_self s k b .met
    refine ⟨m, hm, ?_⟩
    have hres := resumed_finishWait s ⟨k, b⟩ .met id fun _ => rfl
    rwa [hm, Warp.micro_setMicro] at hres
  · exact ⟨(s.warp k).micro b, by cases b <;> rfl, rfl⟩

theorem batonMets_spec (s : State) (k : Nat) : let t := batonMets s k
    t.cores = s.cores ∧ OtherWarps s t k ∧ (t.warp k).regs = (s.warp k).regs ∧ (t.warp k).ctl = (s.warp k).ctl ∧
      ∀ b, GoesOn ((s.warp k).micro b) ((t.warp k).micro b) := by
  obtain ⟨m, hm, hgoes⟩ := warp_batonMet_self s k false
  obtain ⟨n, hn, hnext⟩ := warp_batonMet_self (batonMet s ⟨k, false⟩) k true
  have hother : ((s.warp k).setMicro false m).micro true = (s.warp k).micro true := Warp.micro_setMicro_not _ false m
  rw [hm, hother] at hnext
  rw [hm] at hn
  refine ⟨?_, fun j hj => ?_, ?_, ?_, fun b => ?_⟩
  · exact (batonMet_cores _ _).trans (batonMet_cores s _)
  · exact (warp_batonMet_ne _ ⟨k, true⟩ hj).trans (warp_batonMet_ne s ⟨k, false⟩ hj)
  · exact (congrArg Warp.regs hn).trans (by simp)
  · exact (congrArg Warp.ctl hn).trans (by simp)
  · show GoesOn _ (((batonMet (batonMet s ⟨k, false⟩) ⟨k, true⟩).warp k).micro b)
    rw [hn]
    cases b
    · exact hgoes
    · exact hnext

/-- A core whose rule table is exchanged where it differs (R247, R253). -/
theorem core_withTable (table : Option (Nat × List Rule)) (y : Core) : ∃ a r,
    (if y.table = table then y else { y with table := table, applied := [], restarted := [] }) =
      { y with table := table, applied := a, restarted := r } := by
  split
  · next h => exact ⟨y.applied, y.restarted, by rw [← h]⟩
  · exact ⟨[], [], rfl⟩

/-- The core of a grant: the holder's context finds its own table in use, and the engine empty where the last holder had
another context (R213, R247). -/
theorem core_grantBaton (s : State) (c k : Nat) : let g := s.core c
    let ctx := (s.launch (s.block (s.warp k).block).launch).ctx
    let x := (s.grantBaton c k).core c
    x.baton = some k ∧ x.table = s.tableKey ctx ∧ x.batonQueue = g.batonQueue ∧ x.queue = g.queue ∧
      x.savedEngines = g.savedEngines ∧
      (g.batonCtx = ctx → x.bank0 = g.bank0 ∧ x.bank1 = g.bank1 ∧ x.accum = g.accum) ∧
      (g.batonCtx ≠ ctx → x.bank0 = {} ∧ x.bank1 = {} ∧ x.accum = [] ∧ x.overflow = false) := by
  intro g ctx x
  let y : Core := if g.batonCtx = ctx then g else { g.clearEngine with batonCtx := ctx }
  obtain ⟨a, r, htable⟩ := core_withTable (s.tableKey ctx) y
  have hx : x = { (if y.table = s.tableKey ctx then y else { y with table := s.tableKey ctx, applied := [], restarted := [] }) with
      baton := some k } := State.core_setCore_self s c _
  rw [hx, htable]
  by_cases hctx : g.batonCtx = ctx
  · rw [show y = g from if_pos hctx]
    exact ⟨rfl, rfl, rfl, rfl, rfl, fun _ => ⟨rfl, rfl, rfl⟩, fun h => absurd hctx h⟩
  · rw [show y = { g.clearEngine with batonCtx := ctx } from if_neg hctx]
    exact ⟨rfl, rfl, rfl, rfl, rfl, fun h => absurd h hctx, fun _ => ⟨rfl, rfl, rfl, rfl⟩⟩

/-! ### The grant with nothing to reload -/

section
variable {s : State} {c k x : Nat} {rest : List Nat} (hfree : (s.core c).baton = none)
  (hqueue : (s.core c).batonQueue = x :: rest) (hx : x / 2 = k)
include hfree hqueue hx

theorem batonGrant_waits (hopen : ¬ EngineOpen s (s.core c) (s.launch (s.block (s.warp k).block).launch).ctx k) :
    exec (.batonGrant c) s = .next s := by
  rw [exec_batonGrant hfree hqueue, hx]
  exact if_pos (Bool.eq_false_iff.mpr (mt (batonOpen_iff s c k).mp hopen))

/-- The state in which the grant is made: none of the warp's slots waits for it any more. -/
theorem exec_batonGrant_open (hopen : EngineOpen s (s.core c) (s.launch (s.block (s.warp k).block).launch).ctx k) :
    exec (.batonGrant c) s = .next (batonMets ((State.grantBaton
      (s.setCore c { s.core c with batonQueue := rest.filter fun y => y / 2 != k }) c k).reloadEngine c k) k) := by
  rw [exec_batonGrant hfree hqueue, hx]
  exact if_neg (Bool.ne_false_iff.mpr ((batonOpen_iff s c k).mpr hopen))

theorem batonGrant_plain (hopen : EngineOpen s (s.core c) (s.launch (s.block (s.warp k).block).launch).ctx k)
    (hnone : ∀ e ∈ (s.core c).savedEngines, e.holder ≠ some k) :
    let w := s.warp k
    let g := s.core c
    let ctx := (s.launch (s.block w.block).launch).ctx
    ∃ t, exec (.batonGrant c) s = .next t ∧ (t.core c).baton = some k ∧ (t.core c).table = s.tableKey ctx ∧
      (t.core c).batonQueue = rest.filter (fun y => y / 2 != k) ∧ OtherWarps s t k ∧
      (t.warp k).regs = w.regs ∧ (t.warp k).ctl = w.ctl ∧ (∀ b, GoesOn (w.micro b) ((t.warp k).micro b)) ∧
      (g.batonCtx = ctx → (t.core c).bank0 = g.bank0 ∧ (t.core c).bank1 = g.bank1 ∧ (t.core c).accum = g.accum) ∧
      (g.batonCtx ≠ ctx → (t.core c).bank0 = {} ∧ (t.core c).bank1 = {} ∧ (t.core c).accum = [] ∧
        (t.core c).overflow = false) := by
  intro w g ctx
  let u := s.setCore c { g with batonQueue := rest.filter fun y => y / 2 != k }
  have hu : u.core c = { g with batonQueue := rest.filter fun y => y / 2 != k } := State.core_setCore_self s c _
  obtain ⟨hbaton, htable, hwaiters, -, hsaved, hsame, hnew⟩ := core_grantBaton u c k
  rw [hu] at hwaiters hsaved hsame hnew
  have hreload : (u.grantBaton c k).reloadEngine c k = u.grantBaton c k := by
    have hfind : (((u.grantBaton c k).core c).savedEngines.find? fun e => e.holder == some k) = none := by
      rw [hsaved]
      exact List.find?_eq_none.mpr fun e he hk => hnone e he (by simpa using hk)
    unfold State.reloadEngine
    simp only [hfind]
  obtain ⟨hcores, hother, hregs, hctl, hgoes⟩ := batonMets_spec (u.grantBaton c k) k
  have hcore : (batonMets (u.grantBaton c k) k).core c = (u.grantBaton c k).core c := by
    unfold State.core
    rw [hcores]
  refine ⟨batonMets (u.grantBaton c k) k, ?_, ?_⟩
  · rw [exec_batonGrant_open hfree hqueue hx hopen, hreload]
  · rw [hcore]
    exact ⟨hbaton, htable, hwaiters, hother, hregs, hctl, hgoes, hsame, hnew⟩

end

/-! ### The engine of a saved holder comes back (R214) -/

/-- An accepted instruction joins the queue of its core with its ranges; nothing else of the core changes. -/
theorem core_acceptTile (s : State) (o : TileOp) : (s.acceptTile o).core o.core =
    { s.core o.core with queue := (s.core o.core).queue ++ [o], ranges := (s.core o.core).ranges ++ s.rangesOf o } := by
  unfold State.acceptTile
  simp only
  split <;> (rw [stirUnits_frame]; exact State.core_setCore_self s _ _)

theorem core_foldl_acceptTile {c : Nat} (ops : List TileOp) (hops : ∀ o ∈ ops, coreOfBlock o.block = c) (s : State) :
    ∃ r, (ops.foldl (fun s o => s.acceptTile o) s).core c =
      { s.core c with queue := (s.core c).queue ++ ops, ranges := r } := by
  induction ops generalizing s with
  | nil => exact ⟨(s.core c).ranges, by rw [List.append_nil]; rfl⟩
  | cons o ops ih =>
    obtain ⟨r, hr⟩ := ih (fun y hy => hops y (List.mem_cons_of_mem o hy)) (s.acceptTile o)
    have ho : o.core = c := hops o List.mem_cons_self
    have hone := core_acceptTile s o
    rw [ho] at hone
    refine ⟨r, hr.trans ?_⟩
    rw [hone]
    simp

theorem batonGrant_reloads {s : State} {c k x : Nat} {rest : List Nat} (hfree : (s.core c).baton = none)
    (hqueue : (s.core c).batonQueue = x :: rest) (hx : x / 2 = k) {e : EngineImage}
    (he : (s.core c).savedEngines.find? (fun y => y.holder == some k) = some e) (hops : ∀ o ∈ e.ops, coreOfBlock o.block = c)
    (hopen : EngineOpen s (s.core c) (s.launch (s.block (s.warp k).block).launch).ctx k) :
    ∃ t, exec (.batonGrant c) s = .next t ∧ (t.core c).baton = some k ∧ (t.core c).bank0 = e.bank0 ∧
      (t.core c).bank1 = e.bank1 ∧ (t.core c).accum = e.accum ∧ (t.core c).overflow = e.overflow ∧
      (t.core c).queue = e.ops := by
  let u := s.setCore c { s.core c with batonQueue := rest.filter fun y => y / 2 != k }
  have hu : u.core c = { s.core c with batonQueue := rest.filter fun y => y / 2 != k } := State.core_setCore_self s c _
  obtain ⟨⟨hempty, -⟩, -⟩ := hopen.2 e he
  obtain ⟨hbaton, -, -, hops0, hsaved, -⟩ := core_grantBaton u c k
  rw [hu] at hops0 hsaved
  let v := u.grantBaton c k
  let y : Core := { v.core c with
    savedEngines := (v.core c).savedEngines.filter fun y => y.holder != some k
    bank0 := e.bank0, bank1 := e.bank1, accum := e.accum, badAccum := e.badAccum, overflow := e.overflow }
  have hreload : v.reloadEngine c k = e.ops.foldl (fun s o => s.acceptTile o) (v.setCore c y) := by
    have hfind : ((v.core c).savedEngines.find? fun y => y.holder == some k) = some e := by
      rw [hsaved]
      exact he
    unfold State.reloadEngine
    simp only [hfind]
    rfl
  obtain ⟨r, hr⟩ := core_foldl_acceptTile e.ops hops (v.setCore c y)
  rw [← hreload, State.core_setCore_self] at hr
  have hcore : (batonMets (v.reloadEngine c k) k).core c = (v.reloadEngine c k).core c := by
    unfold State.core
    rw [(batonMets_spec (v.reloadEngine c k) k).1]
  refine ⟨_, exec_batonGrant_open hfree hqueue hx hopen, ?_⟩
  rw [hcore, hr]
  refine ⟨hbaton, rfl, rfl, rfl, rfl, ?_⟩
  show (v.core c).queue ++ e.ops = e.ops
  rw [hops0]
  exact (congrArg (· ++ e.ops) hempty).trans (List.nil_append _)

end Sys2Proof.Laws

/-! ## Contexts of the RE: grants and displacements (R119, R120) -/

namespace Sys2Proof.Laws

open Sys2Proof Sys2Proof.Machine Sys2Proof.Claims

theorem exists_leastBy {α : Type} (f : α → Nat) {l : List α} (h : l ≠ []) :
    ∃ a ∈ l, leastBy f l = some a ∧ ∀ b ∈ l, f a ≤ f b := by
  induction l with
  | nil => exact absurd rfl h
  | cons x l ih =>
    by_cases hl : l = []
    · subst hl
      exact ⟨x, List.mem_cons_self, rfl, fun b hb => Nat.le_of_eq (by rw [List.mem_singleton.mp hb])⟩
    · obtain ⟨a, ha, hleast, hmin⟩ := ih hl
      simp only [leastBy, hleast]
      by_cases hlt : f a < f x
      · refine ⟨a, List.mem_cons_of_mem x ha, if_pos hlt, fun b hb => ?_⟩
        rcases List.mem_cons.mp hb with rfl | hb
        · exact Nat.le_of_lt hlt
        · exact hmin b hb
      · refine ⟨x, List.mem_cons_self, if_neg hlt, fun b hb => ?_⟩
        rcases List.mem_cons.mp hb with rfl | hb
        · exact Nat.le_refl _
        · exact Nat.le_trans (Nat.le_of_not_lt hlt) (hmin b hb)

theorem mem_addOnce_self {α : Type} [DecidableEq α] (l : List α) (a : α) : a ∈ addOnce l a := by
  unfold addOnce
  split
  · assumption
  · exact List.mem_append_right l List.mem_cons_self

theorem mem_addOnce_of_mem {α : Type} [DecidableEq α] {l : List α} {a : α} (h : a ∈ l) (b : α) : a ∈ addOnce l b := by
  unfold addOnce
  split
  · exact h
  · exact List.mem_append_left _ h

theorem mem_of_mem_addOnce {α : Type} [DecidableEq α] {l : List α} {a b : α} (h : b ∈ addOnce l a) (hb : b ≠ a) : b ∈ l := by
  unfold addOnce at h
  split at h
  · exact h
  · exact (List.mem_append.mp h).elim id fun h => absurd (List.mem_singleton.mp h) hb

theorem without_addOnce {α : Type} [DecidableEq α] (l : List α) (a : α) : without (addOnce l a) a = without l a := by
  unfold addOnce without
  split
  · rfl
  · simp

theorem eligible_iff (s : State) (k : Nat) : s.eligible k = true ↔ (s.warp k).engine = .ie ∧ (s.warp k).granted = false ∧
    (s.warp k).stat = .running ∧ (s.warp k).cls ≠ none ∧ s.promotable k = true := by
  unfold State.eligible
  simp only [Bool.and_eq_true, decide_eq_true_eq, Bool.not_eq_true', Option.isSome_iff_ne_none, and_assoc]

/-- The state in which a warp stands among those that wait for a context of its core. -/
def asking (s : State) (k : Nat) : State :=
  s.setCore (k / 48) { s.core (k / 48) with reWaiting := addOnce (s.core (k / 48)).reWaiting k }

theorem core_asking (s : State) (k : Nat) : (asking s k).core (k / 48) =
    { s.core (k / 48) with reWaiting := addOnce (s.core (k / 48)).reWaiting k } := State.core_setCore_self s _ _

theorem exec_reContextGrant (s : State) (k : Nat) : exec (.reContextGrant k) s =
    if s.eligible k = false then .next s
    else .next (((asking s k).serveContexts 4 (k / 48)).displaceFor (k / 48) k) := by
  show execReContextGrant k s = _
  unfold execReContextGrant
  simp only [Bool.not_eq_true']
  rfl

/-! ### A free context -/

theorem takeContext_spec (s : State) (k : Nat) : let t := s.takeContext (k / 48) k
    t.core (k / 48) = { s.core (k / 48) with
      reWarps := (s.core (k / 48)).reWarps ++ [k], reWaiting := without (s.core (k / 48)).reWaiting k } ∧
    t.warp k = { s.warp k with granted := true } ∧ OtherWarps s t k ∧ Instr.promotionComplete k ∈ t.agenda ∧
    SameBytes s t ∧ t.launches = s.launches ∧ t.blocks = s.blocks ∧ t.contexts = s.contexts :=
  ⟨State.core_setCore_self s _ _, State.warp_setWarp_self _ _ _, fun _ hj => State.warp_setWarp_ne _ _ _ hj,
    mem_later_agenda _ _, sameBytes_refl s, rfl, rfl, rfl⟩

theorem serveContexts_none {s : State} {c : Nat} (h : s.firstWaiter c = none) (n : Nat) : State.serveContexts n s c = s := by
  cases n with
  | zero => rfl
  | succ n => simp only [State.serveContexts, h, ite_self]

theorem eligible_congr {s t : State} {j : Nat} (hw : t.warp j = s.warp j) (hl : t.launches = s.launches)
    (hb : t.blocks = s.blocks) (hc : t.contexts = s.contexts) : t.eligible j = s.eligible j := by
  unfold State.eligible State.promotable State.launch State.block State.context
  rw [hw, hl, hb, hc]

/-- A warp that no other eligible one waits with takes a free context (R120). -/
theorem reContextGrant_takes {s : State} {k : Nat} (he : s.eligible k = true)
    (hroom : (s.core (k / 48)).reWarps.length < 4)
    (honly : ∀ j ∈ (s.core (k / 48)).reWaiting, j ≠ k → s.eligible j = false) :
    exec (.reContextGrant k) s = .next ((asking s k).takeContext (k / 48) k) := by
  have hfirst : (asking s k).firstWaiter (k / 48) = some k := by
    have hmem : k ∈ ((asking s k).core (k / 48)).reWaiting.filter (asking s k).eligible := by
      rw [core_asking]
      exact List.mem_filter.mpr ⟨mem_addOnce_self _ k, he⟩
    obtain ⟨a, ha, hleast, -⟩ := exists_leastBy (fun j => ((asking s k).warp j).turnOf) (List.ne_nil_of_mem hmem)
    obtain ⟨haw, hae⟩ := List.mem_filter.mp ha
    have hak : a = k := by
      refine Decidable.byContradiction fun hne => ?_
      rw [core_asking] at haw
      have hno := honly a (mem_of_mem_addOnce haw hne) hne
      exact Bool.false_ne_true (hno.symm.trans hae)
    unfold State.firstWaiter
    rw [hleast, hak]
  obtain ⟨hcore, -, hother, -, -, hl, hb, hc⟩ := takeContext_spec (asking s k) k
  let t := (asking s k).takeContext (k / 48) k
  have hwaiting : (t.core (k / 48)).reWaiting = without (s.core (k / 48)).reWaiting k := by
    exact (congrArg Core.reWaiting hcore).trans (by rw [core_asking]; exact without_addOnce _ k)
  have hnone : t.firstWaiter (k / 48) = none := by
    unfold State.firstWaiter
    have hnil : (t.core (k / 48)).reWaiting.filter t.eligible = [] := by
      refine List.filter_eq_nil_iff.mpr fun j hj => ?_
      rw [hwaiting] at hj
      obtain ⟨hjw, hjk⟩ := List.mem_filter.mp hj
      have hjk' : j ≠ k := of_decide_eq_true hjk
      rw [eligible_congr (hother j hjk') hl hb hc]
      exact Bool.eq_false_iff.mp (honly j hjw hjk')
    rw [hnil]
    rfl
  have hserve : (asking s k).serveContexts 4 (k / 48) = t := by
    have hlen : ¬ 4 ≤ ((asking s k).core (k / 48)).reWarps.length := by
      rw [core_asking]
      exact Nat.not_le_of_lt hroom
    show (if 4 ≤ ((asking s k).core (k / 48)).reWarps.length then asking s k else _) = t
    rw [if_neg hlen, hfirst]
    exact serveContexts_none hnone 3
  have hgone : (!(t.core (k / 48)).reWaiting.contains k) = true := by
    rw [hwaiting]
    simp [without]
  rw [exec_reContextGrant, if_neg (by simp [he]), hserve]
  unfold State.displaceFor
  simp only [if_pos (Or.inl hgone)]
  rfl

/-! ### A full set of contexts -/

/-- The warps that wait for a context of a warp's core and stand ahead of it or with it. -/
def aheadOf (s : State) (k : Nat) : List Nat :=
  (addOnce (s.core (k / 48)).reWaiting k).filter fun j => s.eligible j && decide ((s.warp j).turnOf ≤ (s.warp k).turnOf)

theorem leaving_asking (s : State) (k : Nat) : (asking s k).leaving (k / 48) = s.leaving (k / 48) := by
  unfold State.leaving
  rw [core_asking]
  rfl

theorem displaced_asking (s : State) (k n : Nat) : (asking s k).displaced (k / 48) n = s.displaced (k / 48) n := by
  unfold State.displaced
  rw [leaving_asking, core_asking]
  rfl

/-- With no context free a warp waits, or displaces another (R120). -/
theorem reContextGrant_full {s : State} {k n : Nat} (he : s.eligible k = true) (hcls : (s.warp k).cls = some n)
    (hfull : 4 ≤ (s.core (k / 48)).reWarps.length) : exec (.reContextGrant k) s =
      .next (if (aheadOf s k).length ≤ (s.leaving (k / 48)).length then asking s k
        else (s.displaced (k / 48) n).elim (asking s k) (asking s k).displace) := by
  have hserve : (asking s k).serveContexts 4 (k / 48) = asking s k := by
    have hlen : 4 ≤ ((asking s k).core (k / 48)).reWarps.length := by
      rw [core_asking]
      exact hfull
    exact if_pos hlen
  have hcontains : ((asking s k).core (k / 48)).reWaiting.contains k = true := by
    rw [core_asking]
    exact List.contains_iff_mem.mpr (mem_addOnce_self _ k)
  have hahead : (((asking s k).core (k / 48)).reWaiting.filter (asking s k).eligible).filter
      (fun j => decide (((asking s k).warp j).turnOf ≤ ((asking s k).warp k).turnOf)) = aheadOf s k := by
    rw [core_asking, List.filter_filter]
    refine List.filter_congr fun j _ => ?_
    exact Bool.and_comm _ _
  rw [exec_reContextGrant, if_neg (by simp [he]), hserve]
  unfold State.displaceFor
  simp only [hcontains, hahead, leaving_asking, Bool.not_true, Bool.false_eq_true, false_or]
  have hclass : ((asking s k).warp k).cls.getD 5 = n := by
    show (s.warp k).cls.getD 5 = n
    rw [hcls]
    rfl
  rw [hclass, displaced_asking]

theorem displace_promoting {s : State} {j : Nat} (h : (s.warp j).engine = .promoting) :
    s.displace j = s.setWarp j { s.warp j with displaced := true } := if_pos h

/-- A warp on the RE begins to leave it (R121). -/
theorem demote_spec {s : State} {j : Nat} (h : (s.warp j).engine = .re ∨ (s.warp j).engine = .promoting) :
    s.demote j = (s.setWarp j { s.warp j with engine := .demoting, displaced := false, latch := .invalid }).later
      (.demotionComplete j) := by
  unfold State.demote
  rcases h with h | h <;> simp only [h]

end Sys2Proof.Laws

/-! ## Promotion, demotion and the budgets of a core (R110, R119, R121, R309) -/

namespace Sys2Proof.Laws

open Sys2Proof Sys2Proof.Machine Sys2Proof.Claims

/-! ### Grants that a warp asks for -/

theorem not_eligible {s : State} {k : Nat} (h : ¬ ((s.warp k).engine = .ie ∧ (s.warp k).granted = false ∧
    (s.warp k).stat = .running ∧ (s.warp k).cls ≠ none ∧ s.promotable k = true)) : exec (.reContextGrant k) s = .next s := by
  rw [exec_reContextGrant, if_pos (Bool.eq_false_iff.mpr (mt (eligible_iff s k).mp h))]

theorem displace_onRe {s : State} {j : Nat} (h : (s.warp j).engine = .re) : s.displace j = s.demote j :=
  if_neg (by rw [h]; decide)

/-- A free context goes to the warp, which promotes from there (R120, R121). -/
theorem reContextGrant_grants {s : State} {k : Nat} (he : s.eligible k = true)
    (hroom : (s.core (k / 48)).reWarps.length < 4)
    (honly : ∀ j ∈ (s.core (k / 48)).reWaiting, j ≠ k → s.eligible j = false) :
    ∃ t, exec (.reContextGrant k) s = .next t ∧ (t.core (k / 48)).reWarps = (s.core (k / 48)).reWarps ++ [k] ∧
      (t.core (k / 48)).reWaiting = (s.core (k / 48)).reWaiting.filter (fun j => decide (j ≠ k)) ∧
      t.warp k = { s.warp k with granted := true } ∧ OtherWarps s t k ∧ Instr.promotionComplete k ∈ t.agenda ∧
      SameBytes s t := by
  obtain ⟨hcore, hwarp, hother, hagenda, hbytes, -, -, -⟩ := takeContext_spec (asking s k) k
  refine ⟨_, reContextGrant_takes he hroom honly, ?_, ?_, hwarp, hother, hagenda, hbytes⟩
  · rw [hcore, core_asking]
  · exact (congrArg Core.reWaiting hcore).trans (by rw [core_asking]; exact without_addOnce _ k)

/-- A warp that stands behind the contexts that are being left displaces another (R120). -/
theorem reContextGrant_displaces {s : State} {k n j : Nat} (he : s.eligible k = true) (hcls : (s.warp k).cls = some n)
    (hfull : 4 ≤ (s.core (k / 48)).reWarps.length) (hlen : (s.leaving (k / 48)).length < (aheadOf s k).length)
    (hj : s.displaced (k / 48) n = some j) : exec (.reContextGrant k) s = .next ((asking s k).displace j) := by
  rw [reContextGrant_full he hcls hfull, if_neg (Nat.not_le_of_lt hlen), hj]
  rfl

theorem reContextGrant_waits {s : State} {k n : Nat} (he : s.eligible k = true) (hcls : (s.warp k).cls = some n)
    (hfull : 4 ≤ (s.core (k / 48)).reWarps.length)
    (h : (aheadOf s k).length ≤ (s.leaving (k / 48)).length ∨ s.displaced (k / 48) n = none) :
    exec (.reContextGrant k) s = .next (asking s k) := by
  rw [reContextGrant_full he hcls hfull]
  rcases h with h | h
  · rw [if_pos h]
  · rw [h]
    exact congrArg Host.Outcome.next (ite_self _)

/-! ### Promotion (R121) -/

theorem warp_demote_spec {s : State} {j : Nat} (h : (s.warp j).engine = .re ∨ (s.warp j).engine = .promoting) :
    (s.demote j).warp j = { s.warp j with engine := .demoting, displaced := false, latch := .invalid } ∧
      OtherWarps s (s.demote j) j ∧ Instr.demotionComplete j ∈ (s.demote j).agenda := by
  rw [demote_spec h]
  exact ⟨State.warp_setWarp_self _ _ _, fun i hi => State.warp_setWarp_ne _ _ _ hi, mem_later_agenda _ _⟩

theorem flushLoop_empty {s : State} {c : Nat} (h : (s.core c).window = []) (n : Nat) : State.flushLoop n s c = s := by
  cases n with
  | zero => rfl
  | succ n =>
    have hmove : s.windowMove c true = none := by
      unfold State.windowMove
      simp only [h]
    simp only [State.flushLoop, hmove]

/-- A flush of an empty window ends the skip count of the baton's holder (R251). -/
theorem flushWindow_empty {s : State} {c k : Nat} (hw : (s.core c).window = []) (hb : (s.core c).baton = some k)
    (hk : (s.warp k).stat = .running) : s.flushWindow c =
      (s.setCore c { s.core c with flushing := false }).setWarp k { s.warp k with skip := 0 } := by
  have hrun : ((s.setCore c { s.core c with flushing := false }).warp k).stat = .running := hk
  unfold State.flushWindow
  simp only [flushLoop_empty hw, hw, hb, List.head?_nil, Option.map_none, Option.none_or, List.isEmpty_nil, Bool.not_true]
  exact if_pos ⟨trivial, hrun⟩

/-- With its core's window empty and at a packet boundary, a warp that goes on begins to promote (R121). -/
theorem beginPromotion_of {s u : State} {k : Nat}
    (hu : (if (s.core (k / 48)).baton = some k then s.flushWindow (k / 48) else s) = u)
    (hw : (u.core (k / 48)).window = []) (hk : (u.warp k).stat = .running) (hbound : (u.warp k).atBoundary = true) :
    s.beginPromotion k = (u.setWarp k { u.warp k with
      engine := .promoting, granted := false, latch := .invalid }).later (.promotionComplete k) := by
  subst hu
  exact (if_neg (not_not_intro hk)).trans (if_neg (by rw [coreOfWarp, hw, hbound]; simp))

/-- A warp begins to promote at a packet boundary while its core's window is empty (R121). -/
theorem beginPromotion_spec {s : State} {k : Nat} (hw : (s.core (k / 48)).window = []) (hk : (s.warp k).stat = .running)
    (hbound : (s.warp k).atBoundary = true) : (s.beginPromotion k).warp k = { s.warp k with
      engine := .promoting, granted := false, latch := .invalid,
      skip := if (s.core (k / 48)).baton = some k then 0 else (s.warp k).skip } ∧
    OtherWarps s (s.beginPromotion k) k ∧ Instr.promotionComplete k ∈ (s.beginPromotion k).agenda ∧
    SameBytes s (s.beginPromotion k) := by
  by_cases hb : (s.core (k / 48)).baton = some k
  · let u := (s.setCore (k / 48) { s.core (k / 48) with flushing := false }).setWarp k { s.warp k with skip := 0 }
    have huw : u.warp k = { s.warp k with skip := 0 } := State.warp_setWarp_self _ _ _
    have huc : (u.core (k / 48)).window = [] := (congrArg Core.window (State.core_setCore_self s _ _)).trans hw
    have hflush : (if (s.core (k / 48)).baton = some k then s.flushWindow (k / 48) else s) = u :=
      (if_pos hb).trans (flushWindow_empty hw hb hk)
    rw [beginPromotion_of hflush huc (by rw [huw]; exact hk) (by rw [huw]; exact hbound), if_pos hb]
    refine ⟨?_, fun j hj => ?_, mem_later_agenda _ _, sameBytes_refl s⟩
    · exact (State.warp_setWarp_self _ _ _).trans (by rw [huw])
    · exact (State.warp_setWarp_ne _ _ _ hj).trans (State.warp_setWarp_ne _ _ _ hj)
  · rw [beginPromotion_of (if_neg hb) hw hk hbound, if_neg hb]
    exact ⟨State.warp_setWarp_self _ _ _, fun j hj => State.warp_setWarp_ne _ _ _ hj, mem_later_agenda _ _, sameBytes_refl s⟩

theorem promotionComplete_granted {s : State} {k : Nat} (h : (s.warp k).granted = true) : exec (.promotionComplete k) s =
    .next (if (s.warp k).atBoundary = true then s.beginPromotion k else s.later (.promotionComplete k)) := by
  show execPromotionComplete k s = _
  unfold execPromotionComplete
  simp only [h, if_true]

theorem promotionComplete_idle {s : State} {k : Nat} (h : (s.warp k).granted = false) (he : (s.warp k).engine ≠ .promoting) :
    exec (.promotionComplete k) s = .next s := by
  show execPromotionComplete k s = _
  unfold execPromotionComplete
  simp only [h, Bool.false_eq_true, if_false, if_pos he]

theorem promotionComplete_promoting {s : State} {k : Nat} (h : (s.warp k).granted = false)
    (he : (s.warp k).engine = .promoting) : exec (.promotionComplete k) s =
      .next (if (s.warp k).displaced = true ∨ (s.warp k).triggered = false then
        (s.setWarp k { s.warp k with engine := .re }).demote k else s.setWarp k { s.warp k with engine := .re }) := by
  show execPromotionComplete k s = _
  unfold execPromotionComplete
  simp only [h, Bool.false_eq_true, if_false, he, not_true_eq_false, ne_eq, Bool.not_eq_true']

/-- A promoting warp that has been displaced, or lost its trigger, demotes as soon as it is on the RE (R121). -/
theorem promotionComplete_demotes {s : State} {k : Nat} (h : (s.warp k).granted = false)
    (he : (s.warp k).engine = .promoting) (hd : (s.warp k).displaced = true ∨ (s.warp k).triggered = false) :
    ∃ t, exec (.promotionComplete k) s = .next t ∧
      t.warp k = { s.warp k with engine := .demoting, displaced := false, latch := .invalid } ∧ OtherWarps s t k ∧
      Instr.demotionComplete k ∈ t.agenda := by
  let u := s.setWarp k { s.warp k with engine := .re }
  have huw : u.warp k = { s.warp k with engine := .re } := State.warp_setWarp_self _ _ _
  obtain ⟨hwarp, hother, hagenda⟩ := warp_demote_spec (s := u) (j := k) (.inl (by rw [huw]))
  refine ⟨u.demote k, by rw [promotionComplete_promoting h he, if_pos hd], ?_, fun j hj => ?_, hagenda⟩
  · rw [hwarp, huw]
  · exact (hother j hj).trans (State.warp_setWarp_ne _ _ _ hj)

/-! ### Demotion (R121) -/

theorem demotionComplete_idle {s : State} {k : Nat} (h : (s.warp k).engine ≠ .demoting) :
    exec (.demotionComplete k) s = .next s := by
  show execDemotionComplete k s = _
  unfold execDemotionComplete
  simp only [if_pos h]

theorem demotionComplete_early {s : State} {k : Nat} (h : (s.warp k).engine = .demoting) (hd : (s.warp k).drained = false) :
    exec (.demotionComplete k) s = .next (s.later (.demotionComplete k)) := by
  show execDemotionComplete k s = _
  unfold execDemotionComplete
  simp only [h, hd, ne_eq, not_true_eq_false, if_false, Bool.not_false, if_true]

/-- A context that is given back changes the core's list alone, and the first of those that wait asks again (R120). -/
theorem freeContext_spec (s : State) (c k : Nat) : let t := s.freeContext c k
    (t.core c = { s.core c with reWarps := without (s.core c).reWarps k }) ∧ SameBytes s t ∧
    (t.contextWaiters c ≠ [] → ∃ i ∈ t.contextWaiters c, Instr.reContextGrant i ∈ t.agenda ∧
      ∀ j ∈ t.contextWaiters c, (t.warp i).turnOf ≤ (t.warp j).turnOf) := by
  let u := s.setCore c { s.core c with reWarps := without (s.core c).reWarps k }
  have hu : u.core c = { s.core c with reWarps := without (s.core c).reWarps k } := State.core_setCore_self s _ _
  by_cases hnil : u.contextWaiters c = []
  · have hfree : s.freeContext c k = u := by
      unfold State.freeContext
      show (leastBy _ (u.contextWaiters c)).elim u u.askContext = u
      rw [hnil]
      rfl
    rw [hfree]
    exact ⟨hu, sameBytes_refl s, fun h => absurd hnil h⟩
  · obtain ⟨i, hi, hleast, hmin⟩ := exists_leastBy (fun j => (u.warp j).turnOf) hnil
    have hfree : s.freeContext c k = u.askContext i := by
      unfold State.freeContext
      show (leastBy (fun j => (u.warp j).turnOf) (u.contextWaiters c)).elim u u.askContext = _
      rw [hleast]
      rfl
    rw [hfree]
    exact ⟨hu, sameBytes_refl s, fun _ => ⟨i, hi, mem_later_agenda _ _, hmin⟩⟩

/-- The state in which a warp stands on the IE again. -/
def backOnIe (s : State) (k : Nat) : State :=
  (s.setWarp k { s.warp k with
    engine := .ie, cooling := 4, latch := .invalid
    ma := (s.warp k).ma.asksAgain, mb := (s.warp k).mb.asksAgain }).later (.issueBudgetPeriod (k / 48))

theorem exec_demotionComplete_drained {s : State} {k : Nat} (h : (s.warp k).engine = .demoting)
    (hd : (s.warp k).drained = true) : exec (.demotionComplete k) s =
      .next (if (((backOnIe s k).freeContext (k / 48) k).warp k).cls.isSome = true then
        ((backOnIe s k).freeContext (k / 48) k).askContext k else (backOnIe s k).freeContext (k / 48) k) := by
  show execDemotionComplete k s = _
  unfold execDemotionComplete
  simp only [h, hd, ne_eq, not_true_eq_false, if_false, Bool.not_true, Bool.false_eq_true]
  rfl

theorem demotionComplete_spec {s : State} {k : Nat} (h : (s.warp k).engine = .demoting) (hd : (s.warp k).drained = true) :
    ∃ t, exec (.demotionComplete k) s = .next t ∧
      t.warp k = { s.warp k with
        engine := .ie, cooling := 4, latch := .invalid
        ma := (s.warp k).ma.asksAgain, mb := (s.warp k).mb.asksAgain } ∧ OtherWarps s t k ∧
      (t.core (k / 48)).reWarps = (s.core (k / 48)).reWarps.filter (fun j => decide (j ≠ k)) ∧ SameBytes s t ∧
      ((t.warp k).cls ≠ none → Instr.reContextGrant k ∈ t.agenda) ∧
      (t.contextWaiters (k / 48) ≠ [] → ∃ i ∈ t.contextWaiters (k / 48), Instr.reContextGrant i ∈ t.agenda ∧
        ∀ j ∈ t.contextWaiters (k / 48), (t.warp i).turnOf ≤ (t.warp j).turnOf) := by
  let u := (backOnIe s k).freeContext (k / 48) k
  obtain ⟨hcore, hbytes, hwaiters⟩ := freeContext_spec (backOnIe s k) (k / 48) k
  have hself : u.warp k = { s.warp k with
      engine := .ie, cooling := 4, latch := .invalid
      ma := (s.warp k).ma.asksAgain, mb := (s.warp k).mb.asksAgain } :=
    (warp_freeContext _ _ _ _).trans (State.warp_setWarp_self _ _ _)
  have hother : OtherWarps s u k := fun j hj => (warp_freeContext _ _ _ _).trans (State.warp_setWarp_ne _ _ _ hj)
  have hre : (u.core (k / 48)).reWarps = (s.core (k / 48)).reWarps.filter (fun j => decide (j ≠ k)) :=
    congrArg Core.reWarps hcore
  by_cases hcls : (u.warp k).cls.isSome = true
  · refine ⟨u.askContext k, by rw [exec_demotionComplete_drained h hd, if_pos hcls], hself, hother, hre, hbytes,
      fun _ => mem_later_agenda _ _, fun hne => ?_⟩
    obtain ⟨i, hi, hagenda, hmin⟩ := hwaiters hne
    exact ⟨i, hi, mem_addOnce_of_mem hagenda _, hmin⟩
  · exact ⟨u, by rw [exec_demotionComplete_drained h hd, if_neg hcls], hself, hother, hre, hbytes,
      fun hne => absurd (Option.isSome_iff_ne_none.mpr hne) hcls, hwaiters⟩

/-! ### Budgets (R110, R119, R309) -/

/-- A warp whose pause after a demotion is one period shorter (R119). -/
def cooler (w : Warp) : Warp := { w with cooling := w.cooling - 1 }

/-- One warp's part of the renewal of a core's budgets (R119). -/
def coolOne (s : State) (k : Nat) : State :=
  if (s.warp k).cooling = 0 then s
  else if (s.warp k).cooling = 1 ∧ ((s.setWarp k (cooler (s.warp k))).warp k).cls.isSome then
    (s.setWarp k (cooler (s.warp k))).askContext k
  else s.setWarp k (cooler (s.warp k))

theorem coolOne_frame (s : State) (k : Nat) :
    coolOne s k = { s with warps := (coolOne s k).warps, agenda := (coolOne s k).agenda } := by
  unfold coolOne
  split
  · rfl
  · split <;> rfl

theorem warp_coolOne (s : State) (k j : Nat) :
    (coolOne s k).warp j = if j = k then cooler (s.warp j) else s.warp j := by
  by_cases hzero : (s.warp k).cooling = 0
  · rw [coolOne, if_pos hzero]
    split
    · next h =>
      have hsub : (s.warp k).cooling - 1 = (s.warp k).cooling := by omega
      rw [h, cooler, hsub]
    · rfl
  · have hset : (coolOne s k).warp j = (s.setWarp k (cooler (s.warp k))).warp j := by
      rw [coolOne, if_neg hzero]
      split <;> rfl
    rw [hset, State.warp_setWarp]
    split
    · next h => rw [h]
    · rfl

theorem foldl_coolOne (l : List Nat) (s : State) (hl : l.Nodup) :
    (l.foldl coolOne s = { s with warps := (l.foldl coolOne s).warps, agenda := (l.foldl coolOne s).agenda }) ∧
    ∀ j, (l.foldl coolOne s).warp j = if j ∈ l then cooler (s.warp j) else s.warp j := by
  induction l generalizing s with
  | nil => exact ⟨rfl, fun j => rfl⟩
  | cons k l ih =>
    obtain ⟨hk, hl⟩ := List.nodup_cons.mp hl
    obtain ⟨hframe, hwarp⟩ := ih (coolOne s k) hl
    refine ⟨?_, fun j => ?_⟩
    · exact hframe.trans (congrArg (fun t : State =>
        { t with warps := (l.foldl coolOne (coolOne s k)).warps, agenda := (l.foldl coolOne (coolOne s k)).agenda })
        (coolOne_frame s k))
    · rw [List.foldl_cons, hwarp, warp_coolOne]
      by_cases hj : j = k
      · rw [if_neg (hj ▸ hk), if_pos hj, if_pos (by rw [hj]; exact List.mem_cons_self)]
      · simp only [hj, if_false, List.mem_cons, false_or]

theorem mem_warpSlotsOf (c j : Nat) : j ∈ warpSlotsOf c ↔ j / 48 = c := by
  unfold warpSlotsOf
  simp only [List.mem_map, List.mem_range]
  constructor
  · rintro ⟨i, hi, rfl⟩
    omega
  · rintro rfl
    exact ⟨j % 48, by omega, by omega⟩

theorem nodup_warpSlotsOf (c : Nat) : (warpSlotsOf c).Nodup :=
  List.Pairwise.map _ (fun _ _ hne h => hne (Nat.add_left_cancel h)) List.nodup_range

theorem exec_issueBudgetPeriod (s : State) (c : Nat) : exec (.issueBudgetPeriod c) s =
    let u := (warpSlotsOf c).foldl coolOne s
    let v := u.setCore c { u.core c with reUsed := (u.core c).reCarry, reCarry := [] }
    .next (if (warpSlotsOf c).any fun k => (v.warp k).cooling != 0 then v.later (.issueBudgetPeriod c) else v) := rfl

theorem issueBudgetPeriod_spec (s : State) (c : Nat) : ∃ t, exec (.issueBudgetPeriod c) s = .next t ∧
    t = { s with warps := t.warps, cores := t.cores, agenda := t.agenda } ∧
    t.core c = { s.core c with reUsed := (s.core c).reCarry, reCarry := [] } ∧
    ∀ j, t.warp j = if j / 48 = c then { s.warp j with cooling := (s.warp j).cooling - 1 } else s.warp j := by
  rw [exec_issueBudgetPeriod]
  obtain ⟨hframe, hwarp⟩ := foldl_coolOne (warpSlotsOf c) s (nodup_warpSlotsOf c)
  generalize (warpSlotsOf c).foldl coolOne s = u at hframe hwarp ⊢
  obtain ⟨v, hv⟩ : ∃ v, v = u.setCore c { u.core c with reUsed := (u.core c).reCarry, reCarry := [] } := ⟨_, rfl⟩
  have hcore : v.core c = { s.core c with reUsed := (s.core c).reCarry, reCarry := [] } := by
    have hu : u.core c = s.core c := (congrArg (fun t : State => t.core c) hframe).trans rfl
    exact (congrArg (fun t : State => t.core c) hv).trans ((State.core_setCore_self u _ _).trans
      (congrArg (fun g : Core => { g with reUsed := g.reCarry, reCarry := [] }) hu))
  have hwarps : ∀ j, v.warp j = if j / 48 = c then { s.warp j with cooling := (s.warp j).cooling - 1 } else s.warp j := by
    intro j
    have hj : v.warp j = u.warp j := by rw [hv]; rfl
    rw [hj, hwarp]
    simp only [mem_warpSlotsOf]
    rfl
  have hvs : v = { s with warps := v.warps, cores := v.cores, agenda := v.agenda } := by
    have hcores : v = { u with cores := v.cores } := by rw [hv]; rfl
    exact hcores.trans (congrArg (fun t : State => { t with cores := v.cores }) hframe |>.trans (by rw [hv]; rfl))
  simp only [← hv]
  split
  · exact ⟨_, rfl, (congrArg (fun t : State => t.later (.issueBudgetPeriod c)) hvs).trans rfl, hcore, hwarps⟩
  · exact ⟨v, rfl, hvs, hcore, hwarps⟩

/-- A copy slot that holds a copy goes on with it (R309). -/
def copyGoesOn (c i : Nat) (x : Option Copy) (s : State) : State := if x.isSome then s.later (.copyPiece c i) else s

theorem copyGoesOn_frame (c i : Nat) (x : Option Copy) (s : State) :
    copyGoesOn c i x s = { s with agenda := (copyGoesOn c i x s).agenda } := by
  unfold copyGoesOn
  split <;> rfl

theorem mem_copyGoesOn {c i : Nat} {x : Option Copy} {s : State} (h : x ≠ none) :
    Instr.copyPiece c i ∈ (copyGoesOn c i x s).agenda := by
  rw [copyGoesOn, if_pos (Option.isSome_iff_ne_none.mpr h)]
  exact mem_later_agenda _ _

theorem mem_copyGoesOn_of_mem {c i : Nat} {x : Option Copy} {s : State} {y : Instr} (h : y ∈ s.agenda) :
    y ∈ (copyGoesOn c i x s).agenda := by
  unfold copyGoesOn
  split
  · exact mem_addOnce_of_mem h _
  · exact h

theorem exec_copyBudgetPeriod (s : State) (c : Nat) : exec (.copyBudgetPeriod c) s =
    .next (copyGoesOn c 1 (s.core c).copy1 (copyGoesOn c 0 (s.core c).copy0
      (s.setCore c { s.core c with copied := [] }))) := rfl

theorem copyBudgetPeriod_spec (s : State) (c : Nat) : ∃ t, exec (.copyBudgetPeriod c) s = .next t ∧ OnlyCore s t c ∧
    t.core c = { s.core c with copied := [] } ∧ ((s.core c).copy0 ≠ none → Instr.copyPiece c 0 ∈ t.agenda) ∧
    ((s.core c).copy1 ≠ none → Instr.copyPiece c 1 ∈ t.agenda) := by
  let u := s.setCore c { s.core c with copied := [] }
  let v := copyGoesOn c 1 (s.core c).copy1 (copyGoesOn c 0 (s.core c).copy0 u)
  have hv : v = { u with agenda := v.agenda } := (copyGoesOn_frame _ _ _ _).trans
    (congrArg (fun t : State => { t with agenda := v.agenda }) (copyGoesOn_frame _ _ _ _))
  have hcores : v.cores = u.cores := (congrArg State.cores hv).trans rfl
  have hcore : ∀ k, v.core k = u.core k := fun k => by
    unfold State.core
    rw [hcores]
  refine ⟨v, exec_copyBudgetPeriod s c, ⟨hv.trans ?_, fun k hk => ?_⟩, ?_,
    fun h => mem_copyGoesOn_of_mem (mem_copyGoesOn h), fun h => mem_copyGoesOn h⟩
  · rw [hcores]
    rfl
  · exact (hcore k).trans (State.core_setCore_ne _ _ _ hk)
  · exact (hcore c).trans (State.core_setCore_self s _ _)

end Sys2Proof.Laws

/-! ## The timers of a core (R102 to R104, R110, R119 to R121, R212 to R214, R309, R313, R361, R362) -/

namespace Sys2Proof.Laws

open Sys2Proof Sys2Proof.Machine Sys2Proof.Claims

/-- Settles O42: each event is cut at the condition the model tests; a grant, a displacement and a give-back turn on the
least waiter of a core, which `exists_leastBy` finds. -/
theorem timerResults : Obligations.TimerResults := by
  unfold Obligations.TimerResults
  intro s k c n w
  refine ⟨rfl, rfl, exec_nprOverrun_none, nprOverrun_stops, ?_, ?_, ?_, issueBudgetPeriod_spec s c,
    copyBudgetPeriod_spec s c, rfl, rfl⟩
  · intro x b o tok limit d cls hwait
    exact bowaitExpire_spec hwait
  · intro g ctx x rest hfree hqueue hx
    exact ⟨batonGrant_waits hfree hqueue hx, batonGrant_plain hfree hqueue hx,
      fun e he hops hopen => batonGrant_reloads hfree hqueue hx he hops hopen⟩
  · intro g eligible waits asked ahead
    refine ⟨not_eligible, fun he hroom honly => reContextGrant_grants ((eligible_iff s k).mpr he) hroom honly, ?_, ?_, ?_,
      ?_, promotionComplete_idle, demotionComplete_idle, demotionComplete_early, demotionComplete_spec⟩
    · intro he hcls hfull
      have he := (eligible_iff s k).mpr he
      refine ⟨reContextGrant_waits he hcls hfull, fun j hlen hj => ⟨fun hpro => ?_, fun hre => ?_⟩⟩
      · have hpro : ((asking s k).warp j).engine = .promoting := hpro
        rw [reContextGrant_displaces he hcls hfull hlen hj, displace_promoting hpro]
        rfl
      · have hre : ((asking s k).warp j).engine = .re := hre
        obtain ⟨hwarp, hother, hagenda⟩ := warp_demote_spec (.inl hre)
        refine ⟨(asking s k).demote j, ?_, ?_, hwarp, hother, hagenda⟩
        · rw [reContextGrant_displaces he hcls hfull hlen hj, displace_onRe hre]
        · rw [demote_spec (.inl hre)]
          exact congrArg Core.reWaiting (core_asking s k)
    · intro hgranted hbound
      rw [promotionComplete_granted hgranted, if_neg (Bool.eq_false_iff.mp hbound)]
    · intro hgranted hbound hrun hwindow
      exact ⟨s.beginPromotion k, by rw [promotionComplete_granted hgranted, if_pos hbound],
        beginPromotion_spec hwindow hrun hbound⟩
    · intro hgranted hengine
      refine ⟨fun hdisp htrig => ?_, promotionComplete_demotes hgranted hengine⟩
      rw [promotionComplete_promoting hgranted hengine, if_neg (by rw [hdisp, htrig]; simp)]

end Sys2Proof.Laws

/-! ## Reads through an L1 (R263, R264) -/

namespace Sys2Proof.Laws

open Sys2Proof Sys2Proof.Machine Sys2Proof.Claims

/-- From s to t a core at rest has read memory: lines may have come and gone in its L1, its view of memory is as before. -/
structure ReadStep (s t : State) (c : Nat) : Prop where
  home : HomeStep s t
  quiet : QuietHome t
  ordered : OrderedL1 t c
  tlb : (t.core c).tlb = (s.core c).tlb
  ways : (t.core c).carve.ways = (s.core c).carve.ways
  view : SameGlobal s t c

theorem ReadStep.trans {s t u : State} {c : Nat} (h : ReadStep s t c) (g : ReadStep t u c) : ReadStep s u c := by
  refine ⟨h.home.trans g.home, g.quiet, g.ordered, g.tlb.trans h.tlb, g.ways.trans h.ways, fun p => ?_⟩
  obtain ⟨hview, hmem⟩ := h.view p
  obtain ⟨gview, gmem⟩ := g.view p
  refine ⟨gview.trans hview, ?_⟩
  rcases gmem with gmem | gmem
  · exact hmem.imp gmem.trans gmem.trans
  · exact .inr (gmem.trans hview)

theorem coreByte_congr {s t : State} {c : Nat} (hl1 : (t.core c).l1 = (s.core c).l1) (hmem : t.mem = s.mem) (p : Nat) :
    coreByte t c p = coreByte s c p := by
  unfold coreByte
  rw [hl1, hmem]

theorem sendPartials_none {s : State} {c : Nat} (ho : OrderedL1 s c) (line : Nat) : s.sendPartials c line = s := by
  obtain ⟨hacc, -, -, -⟩ := ho
  unfold State.sendPartials
  rw [hacc]
  rfl

/-- A core holds the same lines, in the same ways, and translates alike. -/
structure SameL1 (x y : Core) : Prop where
  l1 : y.l1 = x.l1
  acc : y.acc = x.acc
  carve : y.carve = x.carve
  tlb : y.tlb = x.tlb

theorem sameL1_refl (x : Core) : SameL1 x x := ⟨rfl, rfl, rfl, rfl⟩

section
variable {s : State} {c : Nat} (hq : QuietHome s) (ho : OrderedL1 s c)
include hq ho

/-- A step that leaves memory, its records and the lines of the core as they are. -/
theorem readStep_of_frame {t : State} (hframe : t = { s with
      agenda := t.agenda, cores := t.cores, flights := t.flights, l2 := t.l2, zeroLines := t.zeroLines
      corrected := t.corrected })
    (hcore : SameL1 (s.core c) (t.core c)) : ReadStep s t c := by
  have hmem : t.mem = s.mem := (congrArg State.mem hframe).trans rfl
  refine ⟨⟨by rw [hframe], fun h => by rw [hmem]; exact h⟩, ?_, ?_, hcore.tlb, by rw [hcore.carve], fun p => ?_⟩
  · rw [hframe]
    exact hq
  · unfold OrderedL1
    rw [hcore.l1, hcore.acc, hcore.carve, hmem]
    exact ho
  · rw [coreByte_congr hcore.l1 hmem, hmem]
    exact ⟨rfl, .inl rfl⟩

theorem readStep_refl : ReadStep s s c := readStep_of_frame hq ho rfl (sameL1_refl _)

theorem readStep_demand (line : Nat) : ReadStep s (s.demand c line) c := by
  unfold State.demand
  simp only
  split
  · refine readStep_of_frame hq ho rfl ?_
    rw [State.core_setCore_self]
    exact ⟨rfl, rfl, rfl, rfl⟩
  · split
    · refine readStep_of_frame hq ho rfl ?_
      have hcore (fs : List Flight) : State.core { s.setCore c ((s.core c).addCount 0x73 1) with flights := fs } c =
          (s.core c).addCount 0x73 1 := State.core_setCore_self s c _
      rw [hcore]
      exact ⟨rfl, rfl, rfl, rfl⟩
    · exact readStep_refl hq ho

theorem readStep_dropFlights (line : Nat) : ReadStep s (s.dropFlights c line) c := readStep_of_frame hq ho rfl (sameL1_refl _)

theorem readStep_readArrives (line : Nat) : ReadStep s (s.readArrives line) c := by
  obtain ⟨hr, hord, hh, hw, -, -⟩ := id hq
  rw [readArrives_rest s line hr hord hh hw]
  have hframe := l2Use_frame s line false false
  rw [hframe]
  exact readStep_of_frame hq ho rfl (sameL1_refl _)

theorem tlb_evictLine (x : Nat) : ((s.evictLine c x).core c).tlb = (s.core c).tlb := by
  unfold State.evictLine
  simp only
  split
  · rw [sendPartials_none ho]
  · next v hv =>
    have hl := orderedLine_of_orderedL1 ho (List.mem_of_find?_eq_some hv)
    generalize hu : (s.core c).keepL1 ((s.core c).l1.filter fun y => !(y.line == x)) = u
    obtain ⟨-, hcores, -⟩ := mergeLine_quiet (s := s.setCore c u) hq hl c
    unfold State.core
    rw [hcores]
    show ((s.setCore c u).core c).tlb = (s.core c).tlb
    rw [State.core_setCore_self, ← hu, keepL1_frame]

theorem readStep_evictLine (x : Nat) : ReadStep s (s.evictLine c x) c := by
  have h := givenUp_evictLine hq ho x
  refine ⟨h.home, h.quiet, h.ordered, tlb_evictLine hq ho x, by rw [h.carve], fun p => ⟨h.view p, ?_⟩⟩
  rw [h.mem]
  split
  · exact .inr rfl
  · exact .inl rfl

theorem readStep_allocWay (line : Nat) : ReadStep s (s.allocWay c line).2 c := by
  unfold State.allocWay
  simp only
  split
  · exact readStep_refl hq ho
  · split
    · exact readStep_refl hq ho
    · exact readStep_evictLine hq ho _

/-- A line that holds what the core saw takes its place in the L1. -/
theorem readStep_l1Put {l : Line} (hways : (s.core c).carve.ways ≠ 0) (hl : OrderedLine s.mem l)
    (hbytes : ∀ a, a / 128 = l.line → lineByte s.mem l a = coreByte s c a) : ReadStep s (s.l1Put c l) c := by
  obtain ⟨hacc, hnodup, -, hlines⟩ := id ho
  let others := (s.core c).l1.filter fun x => !(x.line == l.line)
  have hcore : (s.l1Put c l).core c = Core.touch { s.core c with l1 := l :: others } l.line := State.core_setCore_self s c _
  have hl1 : ((s.l1Put c l).core c).l1 = l :: others := by rw [hcore]; rfl
  have hcarve : ((s.l1Put c l).core c).carve = (s.core c).carve := by rw [hcore]; rfl
  have hother {x : Line} (hx : x ∈ others) : x ∈ (s.core c).l1 ∧ x.line ≠ l.line := by
    obtain ⟨hmem, hne⟩ := List.mem_filter.mp hx
    exact ⟨hmem, by simpa using hne⟩
  refine ⟨homeStep_setCore s c _, hq, ⟨(congrArg Core.acc hcore).trans hacc, ?_, fun h => ?_, ?_⟩,
    (congrArg Core.tlb hcore).trans rfl, by rw [hcarve], fun p => ⟨?_, .inl rfl⟩⟩
  · rw [hl1, List.map_cons, List.nodup_cons]
    refine ⟨fun h => ?_, (List.filter_sublist.map _).nodup hnodup⟩
    obtain ⟨x, hx, hline⟩ := List.mem_map.mp h
    exact (hother hx).2 hline
  · rw [hcarve] at h
    exact absurd h hways
  · rw [hl1]
    intro x hx
    rcases List.mem_cons.mp hx with rfl | hx
    · exact ⟨hl.line, hl.poison, hl.sorted, hl.bytes⟩
    · exact hlines x (hother hx).1
  · have hfind : ((s.l1Put c l).core c).l1Find (p / 128) =
        if l.line = p / 128 then some l else others.find? fun x => x.line == p / 128 := by
      unfold Core.l1Find
      rw [hl1, List.find?_cons]
      by_cases h : l.line = p / 128
      · rw [if_pos h, beq_iff_eq.mpr h]
      · rw [if_neg h, beq_eq_false_iff_ne.mpr h]
    by_cases hp : l.line = p / 128
    · rw [if_pos hp] at hfind
      rw [coreByte_of_find.1 l hfind]
      exact hbytes p hp.symm
    · have hsame : (others.find? fun x => x.line == p / 128) = (s.core c).l1Find (p / 128) := by
        unfold Core.l1Find
        rw [List.find?_filter]
        congr 1
        funext x
        by_cases hx : x.line = p / 128
        · simp [hx, Ne.symm hp]
        · simp [hx]
      rw [if_neg hp, hsame] at hfind
      cases hf : (s.core c).l1Find (p / 128) with
      | none => rw [coreByte_of_find.2 hf, coreByte_of_find.2 (hfind.trans hf)]; rfl
      | some x => rw [coreByte_of_find.1 x hf, coreByte_of_find.1 x (hfind.trans hf)]; rfl

end

end Sys2Proof.Laws

/-! ### A line that a core fetches, and a read inside a line (R264) -/

namespace Sys2Proof.Laws

open Sys2Proof Sys2Proof.Machine Sys2Proof.Claims

theorem get_eq_find? {α : Type} (d : α) (t : Tab α) (k : Nat) :
    Tab.get d t k = ((t.find? fun e => e.1 == k).map (·.2)).getD d := by
  induction t with
  | nil => rfl
  | cons e t ih =>
    by_cases h : e.1 = k
    · rw [List.find?_cons_of_pos (by simpa using h)]
      exact if_pos h
    · rw [List.find?_cons_of_neg (by simpa using h), ← ih]
      exact if_neg h

/-- A byte that a line lists. -/
theorem get_eq_lineByte {m : Memory} {l : Line} {a : Nat} (h : ∃ e ∈ l.bytes, e.1 = a % 128) :
    (Tab.get (0#8, false) l.bytes (a % 128)).1 = lineByte m l a := by
  unfold lineByte
  rw [get_eq_find?]
  cases hf : l.bytes.find? fun e => e.1 == a % 128 with
  | some e => rfl
  | none =>
    obtain ⟨e, he, hkey⟩ := h
    exact absurd (beq_iff_eq.mpr hkey) (List.find?_eq_none.mp hf e he)

theorem sorted_map_range' {α : Type} (f : Nat → α) (b n : Nat) :
    Tab.sorted ((List.range' b n).map fun i => (i, f i)) = true := by
  induction n generalizing b with
  | zero => rfl
  | succ n ih =>
    rw [List.range'_succ, List.map_cons]
    show (List.all _ _ && Tab.sorted _) = true
    rw [ih, Bool.and_true]
    refine List.all_eq_true.mpr fun e he => ?_
    obtain ⟨i, hi, rfl⟩ := List.mem_map.mp he
    exact decide_eq_true (List.mem_range'_1.mp hi).1

theorem find?_map_range {α : Type} (f : Nat → α) {n k : Nat} (hk : k < n) :
    ((List.range n).map fun i => (i, f i)).find? (fun e => e.1 == k) = some (k, f k) := by
  refine find?_eq_some_of_unique (List.mem_map.mpr ⟨k, List.mem_range.mpr hk, rfl⟩) (beq_self_eq_true k) fun y hy hkey => ?_
  obtain ⟨i, -, rfl⟩ := List.mem_map.mp hy
  rw [show i = k from beq_iff_eq.mp hkey]

/-- Byte i of a line after a fetch: what was dirty, or what stands at home. -/
def mergedByte (m : Memory) (l : Line) (i : Nat) : Byte × Bool :=
  match Tab.get (0#8, false) l.bytes i with
  | (b, true) => (b, true)
  | _ => (m.byte (128 * l.line + i), false)

theorem bytes_merge (m : Memory) (l : Line) (poison : List Nat) :
    (l.merge (m.read (128 * l.line) 128) poison).bytes = (List.range 128).map fun i => (i, mergedByte m l i) := by
  refine List.map_congr_left fun i hi => ?_
  have hhome : (m.read (128 * l.line) 128).getD i 0#8 = m.byte (128 * l.line + i) := by
    rw [read_eq_map, List.getD_eq_getElem?_getD, List.getElem?_map, List.getElem?_range (List.mem_range.mp hi)]
    rfl
  unfold mergedByte
  simp only [hhome]
  rcases Tab.get (0#8, false) l.bytes i with ⟨b, _ | _⟩ <;> rfl

theorem poison_merge {l : Line} (hl : l.poison = []) (home : List Byte) : (l.merge home []).poison = [] := by
  refine List.filter_eq_nil_iff.mpr fun w _ => ?_
  simp only [hl, List.contains_nil, Bool.or_false, ite_self, Bool.false_eq_true, not_false_eq_true]

/-- A line after a fetch holds what the line held, and what stands at home where it held nothing. -/
theorem mergedByte_eq {m : Memory} {l : Line} (h : OrderedLine m l) {a : Nat} (ha : a / 128 = l.line) :
    (mergedByte m l (a % 128)).1 = lineByte m l a := by
  have hplace : 128 * l.line + a % 128 = a := by omega
  unfold mergedByte lineByte
  rw [get_eq_find?]
  cases hf : l.bytes.find? fun e => e.1 == a % 128 with
  | none => exact congrArg (Memory.byte m) hplace
  | some e =>
    obtain ⟨i, b, d⟩ := e
    have hkey : i = a % 128 := by simpa using List.find?_some hf
    cases d with
    | true => rfl
    | false =>
      have hclean := (h.bytes _ (List.mem_of_find?_eq_some hf)).2 rfl
      exact (congrArg (fun i => Memory.byte m (128 * l.line + i)) hkey.symm).trans hclean.symm

theorem mergedByte_clean {m : Memory} {l : Line} {i : Nat} (h : (mergedByte m l i).2 = false) :
    (mergedByte m l i).1 = m.byte (128 * l.line + i) := by
  unfold mergedByte at h ⊢
  split at h
  · exact absurd h (by simp)
  · rfl

/-- A line that is in order, holds every byte, and each as a core sees it. -/
structure WholeLine (s : State) (c line : Nat) (l : Line) : Prop where
  line_eq : l.line = line
  ordered : OrderedLine s.mem l
  whole : ∀ i < 128, ∃ e ∈ l.bytes, e.1 = i
  seen : ∀ a, a / 128 = line → lineByte s.mem l a = coreByte s c a

theorem wholeLine_merge {s : State} {c line : Nat} (hq : QuietHome s) {l k : Line} (hl : OrderedLine s.mem l)
    (hline : l.line = line) (hseen : ∀ a, a / 128 = line → lineByte s.mem l a = coreByte s c a)
    (hk : k.line = line ∧ k.bytes = (l.merge (s.homeLine line) (s.homePoison line)).bytes ∧
      k.poison = (l.merge (s.homeLine line) (s.homePoison line)).poison) : WholeLine s c line k := by
  obtain ⟨-, -, -, -, hpoison, -⟩ := hq
  obtain ⟨hkline, hkbytes, hkpoison⟩ := hk
  subst hline
  have hbytes : k.bytes = (List.range 128).map fun i => (i, mergedByte s.mem l i) := hkbytes.trans (bytes_merge _ _ _)
  have hnone : s.homePoison l.line = [] := by
    unfold State.homePoison
    rw [hpoison]
    rfl
  refine ⟨hkline, ⟨hkline ▸ hl.line, ?_, ?_, fun e he => ?_⟩, fun i hi => ?_, fun a ha => ?_⟩
  · rw [hkpoison, hnone]
    exact poison_merge hl.poison _
  · rw [hbytes, List.range_eq_range']
    exact sorted_map_range' _ 0 128
  · rw [hbytes] at he
    obtain ⟨i, hi, rfl⟩ := List.mem_map.mp he
    refine ⟨List.mem_range.mp hi, fun hd => ?_⟩
    rw [hkline]
    exact mergedByte_clean hd
  · rw [hbytes]
    exact ⟨_, List.mem_map.mpr ⟨i, List.mem_range.mpr hi, rfl⟩, rfl⟩
  · rw [← hseen a ha, ← mergedByte_eq hl ha]
    unfold lineByte
    rw [hbytes, find?_map_range _ (Nat.mod_lt a (by decide))]

/-- An empty line is in order, and shows what stands at home. -/
theorem orderedLine_empty (m : Memory) {l : Line} (hline : l.line < 2 ^ 57) (hb : l.bytes = []) (hp : l.poison = []) :
    OrderedLine m l ∧ ∀ a, lineByte m l a = m.byte a := by
  refine ⟨⟨hline, hp, by rw [hb]; rfl, fun e he => ?_⟩, fun a => by unfold lineByte; rw [hb]; rfl⟩
  rw [hb] at he
  exact absurd he List.not_mem_nil

/-- What a core holds of a line that it fetches. -/
def heldLine (s : State) (c line : Nat) : Line :=
  (((s.core c).l1Find line).getD { line := line, epoch := (s.core c).epoch }).touchedBy s.toucher

theorem heldLine_spec {s : State} {c line : Nat} (ho : OrderedL1 s c) (hline : line < 2 ^ 57) :
    OrderedLine s.mem (heldLine s c line) ∧ (heldLine s c line).line = line ∧
      ∀ a, a / 128 = line → lineByte s.mem (heldLine s c line) a = coreByte s c a := by
  cases hf : (s.core c).l1Find line with
  | some l =>
    have hheld : heldLine s c line = l.touchedBy s.toucher := by rw [heldLine, hf]; rfl
    have hl := orderedLine_of_orderedL1 ho (List.mem_of_find?_eq_some hf)
    have hkey : l.line = line := by simpa using List.find?_some hf
    rw [hheld]
    exact ⟨⟨hl.line, hl.poison, hl.sorted, hl.bytes⟩, hkey,
      fun a ha => (coreByte_of_find.1 l (by rw [ha]; exact hf)).symm⟩
  | none =>
    have hheld : heldLine s c line = Line.touchedBy { line := line, epoch := (s.core c).epoch } s.toucher := by
      rw [heldLine, hf]
      rfl
    obtain ⟨hl, hbyte⟩ := orderedLine_empty s.mem (l := heldLine s c line) (by rw [hheld]; exact hline)
      (by rw [hheld]; rfl) (by rw [hheld]; rfl)
    refine ⟨hl, by rw [hheld]; rfl, fun a ha => ?_⟩
    rw [hbyte, coreByte_of_find.2 (by rw [ha]; exact hf)]

section
variable {s : State} {c : Nat} (hq : QuietHome s) (ho : OrderedL1 s c)
include hq ho

theorem fetchLine_spec {line : Nat} (hline : line < 2 ^ 57) (urgent : Bool) : ∃ l t, s.fetchLine c line urgent = (l, t) ∧
    ReadStep s t c ∧ WholeLine t c line l := by
  have h1 := readStep_allocWay hq ho line
  have h2 := h1.trans (readStep_dropFlights h1.quiet h1.ordered line)
  have h3 := h2.trans (readStep_readArrives h2.quiet h2.ordered line)
  refine ⟨_, _, rfl, h3, ?_⟩
  obtain ⟨hl, hkey, hseen⟩ := heldLine_spec h3.ordered hline
  refine wholeLine_merge h3.quiet hl hkey hseen ?_
  exact ⟨hkey, rfl, rfl⟩

/-- A read that finds its bytes in a line that takes its place in the L1. -/
theorem readStep_takeLine {p n : Nat} {l : Line} (hways : (s.core c).carve.ways ≠ 0) (hin : p % 128 + n ≤ 128)
    (hline : l.line = p / 128) (hl : OrderedLine s.mem l) (hheld : ∀ i < n, ∃ e ∈ l.bytes, e.1 = p % 128 + i)
    (hseen : ∀ a, a / 128 = p / 128 → lineByte s.mem l a = coreByte s c a) :
    (s.l1Put c l, (List.range n).map (fun i => (Tab.get (0#8, false) l.bytes (p % 128 + i)).1),
      poisonIn (l.poison.map fun w => 16 * (p / 128) + w) p n) =
      (s.l1Put c l, (List.range n).map (fun i => coreByte s c (p + i)), none) ∧ ReadStep s (s.l1Put c l) c := by
  refine ⟨?_, readStep_l1Put hq ho hways hl fun a ha => hseen a (ha.trans hline)⟩
  have hbytes : (List.range n).map (fun i => (Tab.get (0#8, false) l.bytes (p % 128 + i)).1) =
      (List.range n).map fun i => coreByte s c (p + i) := by
    refine List.map_congr_left fun i hi => ?_
    have hi := List.mem_range.mp hi
    have hmod : p % 128 + i = (p + i) % 128 := by omega
    rw [← hseen (p + i) (by omega), hmod]
    exact get_eq_lineByte (by rw [← hmod]; exact hheld i hi)
  rw [hbytes, hl.poison, List.map_nil, poisonIn_nil]

/-- A read inside a line brings the bytes that the core sees (R264). -/
theorem l1Read_spec {p n : Nat} (hp : p < 2 ^ 64) (hin : p % 128 + n ≤ 128) (urgent : Bool) : ∃ t,
    s.l1Read c urgent p n = (t, (List.range n).map (fun i => coreByte s c (p + i)), none) ∧ ReadStep s t c := by
  have hu := readStep_demand hq ho (p / 128)
  unfold State.l1Read
  simp only [lineOf, sendPartials_none hu.ordered]
  generalize s.demand c (p / 128) = u at hu ⊢
  have hsee {v : State} (hv : ReadStep s v c) : (List.range n).map (fun i => coreByte v c (p + i)) =
      (List.range n).map fun i => coreByte s c (p + i) := List.map_congr_left fun i _ => (hv.view _).1
  by_cases hways : (u.core c).carve.ways = 0
  · have h1 := hu.trans (readStep_dropFlights hu.quiet hu.ordered (p / 128))
    have h2 := h1.trans (readStep_readArrives h1.quiet h1.ordered (p / 128))
    have hno : (u.core c).noWays = true := by simp [Core.noWays, hways]
    simp only [hno, if_true]
    refine ⟨_, ?_, h2⟩
    generalize (u.dropFlights c (p / 128)).readArrives (p / 128) = t at h2 ⊢
    obtain ⟨-, -, -, -, hpoison, -⟩ := h2.quiet
    obtain ⟨-, -, hnil, -⟩ := h2.ordered
    have hl1 : (t.core c).l1 = [] := hnil ((h2.ways.trans hu.ways.symm).trans hways)
    have hbyte (a : Nat) : coreByte t c a = t.mem.byte a := coreByte_of_find.2 (by unfold Core.l1Find; rw [hl1]; rfl)
    rw [hpoison, poisonIn_nil, read_eq_map, ← hsee h2]
    simp only [hbyte]
  · have hno : (u.core c).noWays = false := by simp [Core.noWays, hways]
    simp only [hno, Bool.false_eq_true, if_false]
    have hfetch : ∃ l v, u.fetchLine c (p / 128) urgent = (l, v) ∧ ReadStep u v c ∧ WholeLine v c (p / 128) l :=
      fetchLine_spec hu.quiet hu.ordered (by omega) urgent
    have htake {v : State} {l : Line} (hv : ReadStep u v c) (hl : WholeLine v c (p / 128) l) := readStep_takeLine hv.quiet
      hv.ordered (l := l) (fun h => hways (hv.ways.symm.trans h)) hin hl.line_eq hl.ordered (fun i hi => hl.whole _ (by omega)) hl.seen
    obtain ⟨l, v, hlv, hv, hwhole⟩ := hfetch
    obtain ⟨hread, hput⟩ := htake hv hwhole
    have hmiss : ∃ t, (v.l1Put c l, (List.range n).map (fun i => (Tab.get (0#8, false) l.bytes (p % 128 + i)).1),
        poisonIn (l.poison.map fun w => 16 * (p / 128) + w) p n) =
          (t, (List.range n).map (fun i => coreByte s c (p + i)), none) ∧ ReadStep s t c :=
      ⟨_, hread.trans (by rw [hsee (hu.trans hv)]), (hu.trans hv).trans hput⟩
    cases hf : (u.core c).l1Find (p / 128) with
    | none =>
      simp only [hlv]
      exact hmiss
    | some k =>
      by_cases hk : k.holds (p % 128) n = true
      · simp only [hk, if_true]
        have hkey : k.line = p / 128 := by simpa using List.find?_some hf
        have hheld : ∀ i < n, ∃ e ∈ k.bytes, e.1 = p % 128 + i := fun i hi => by
          obtain ⟨e, he, heq⟩ := List.any_eq_true.mp (List.all_eq_true.mp hk i (List.mem_range.mpr hi))
          exact ⟨e, he, by simpa using heq⟩
        let k' : Line := { k.touchedBy u.toucher with prefetched := false }
        have hl := orderedLine_of_orderedL1 hu.ordered (List.mem_of_find?_eq_some hf)
        have hk' : OrderedLine u.mem k' := ⟨hl.line, hl.poison, hl.sorted, hl.bytes⟩
        obtain ⟨hread', hput'⟩ := readStep_takeLine hu.quiet hu.ordered (l := k') hways hin hkey hk' hheld
          fun a ha => (coreByte_of_find.1 k (by rw [ha]; exact hf)).symm
        exact ⟨_, hread'.trans (by rw [hsee hu]), hu.trans hput'⟩
      · simp only [hk, Bool.false_eq_true, if_false, hlv]
        exact hmiss

end

end Sys2Proof.Laws

/-! ### Lane-wise loads of global memory (R258, R355) -/

namespace Sys2Proof.Laws

open Sys2Proof Sys2Proof.Machine Sys2Proof.Claims

/-- The n bytes at p as a core sees them. -/
def seenBytes (s : State) (c p n : Nat) : List Byte := (List.range n).map fun i => coreByte s c (p + i)

/-- An aligned access of a size that divides a line lies inside one. -/
theorem mod_line_add_le {p n : Nat} (hn : n ∣ 128) (hp : p % n = 0) : p % 128 + n ≤ 128 := by
  obtain ⟨a, ha⟩ : n ∣ p % 128 := (Nat.dvd_mod_iff hn).mpr (Nat.dvd_of_mod_eq_zero hp)
  obtain ⟨b, hb⟩ := hn
  have hlt : n * a < n * b := by
    rw [← ha, ← hb]
    exact Nat.mod_lt p (by decide)
  have hab : a + 1 ≤ b := Nat.lt_of_mul_lt_mul_left hlt
  calc p % 128 + n = n * (a + 1) := by rw [ha, Nat.mul_succ]
    _ ≤ n * b := Nat.mul_le_mul_left n hab
    _ = 128 := hb.symm

theorem here_of_homeStep {s t : State} (h : HomeStep s t) : t.here = s.here := by
  unfold State.here
  rw [h.cur]

theorem readLanes_global {s : State} {c : Nat} (hc : s.here = c) (hq : QuietHome s) (ho : OrderedL1 s c) {n : Nat}
    (qs : List (Nat × Nat)) (hok : ∀ e ∈ qs, e.2 < 2 ^ 64 ∧ e.2 % 128 + n ≤ 128) :
    ∃ t, s.readLanes true n (qs.map fun e => (e.1, .global e.2)) = .ok (t, qs.map fun e => (e.1, seenBytes s c e.2 n)) ∧
      ReadStep s t c := by
  induction qs generalizing s with
  | nil => exact ⟨s, rfl, readStep_refl hq ho⟩
  | cons e qs ih =>
    obtain ⟨⟨hp, hin⟩, hrest⟩ := List.forall_mem_cons.mp hok
    obtain ⟨t, hread, ht⟩ := l1Read_spec hq ho hp hin (s.urgent s.cur.warp)
    obtain ⟨u, hlanes, hu⟩ := ih ((here_of_homeStep ht.home).trans hc) ht.quiet ht.ordered hrest
    refine ⟨u, ?_, ht.trans hu⟩
    have hsame : (qs.map fun e => (e.1, seenBytes t c e.2 n)) = qs.map fun e => (e.1, seenBytes s c e.2 n) := by
      refine List.map_congr_left fun e _ => congrArg (Prod.mk e.1) (List.map_congr_left fun i _ => (ht.view _).1)
    have hfirst : s.l1Read c (s.urgent s.cur.warp) e.2 n = (t, seenBytes s c e.2 n, none) := hread
    simp only [List.map_cons, State.readLanes, if_true, State.readPlace, hc, hfirst, hlanes, hsame]

section
variable {s : State} {n : Nat} {ls : List Nat} {a p : Nat → Nat}
  (hok : ∀ l ∈ ls, a l % n = 0 ∧ ReachesByTlb s .read (a l) n (p l))
include hok

theorem xlateLanes_byTlb : s.xlateLanes .read (ls.map fun l => (l, a l)) = .ok (s, ls.map fun l => (l, p l)) := by
  induction ls with
  | nil => rfl
  | cons l ls ih =>
    obtain ⟨⟨-, e, hfind, hphys, -, -⟩, hrest⟩ := List.forall_mem_cons.mp hok
    have htranslate : s.translate s.here s.myCtx (a l) .read = .ok s e := by
      unfold State.translate
      rw [hfind]
    simp only [List.map_cons, State.xlateLanes, htranslate, Kind.writes, Bool.false_eq_true, if_false, ih hrest, hphys]

/-- Aligned lanes of a block without watchpoints that reach memory pass every check. -/
theorem checkLanes_global (hwatch : (s.block s.myBlock).watch = []) :
    s.checkLanes .g .read n n (ls.map fun l => (l, a l)) = .ok (s, ls.map fun l => (l, .global (p l))) := by
  have haligned : firstLane (ls.map fun l => (l, a l)) (fun a => a % n != 0) = none := by
    simpa [firstLane] using fun l hl => (hok l hl).1
  have hnowatch (va : Nat) : s.watched true false va n = none := by
    unfold State.watched
    rw [hwatch]
    exact ite_self _
  have hnone : ((ls.map fun l => (l, a l)).filterMap fun e => s.watched (decide (Kind.read ≠ .write)) Kind.read.writes e.2 n) =
      [] := List.filterMap_eq_nil_iff.mpr fun e _ => hnowatch e.2
  unfold State.checkLanes
  simp only [haligned, xlateLanes_byTlb hok, hnone, List.map_map]
  rfl

/-- A load of lanes that reach memory through the TLB brings the bytes that the core sees. -/
theorem loadLanes_global (hq : QuietHome s) (ho : OrderedL1 s s.here) (hwatch : (s.block s.myBlock).watch = [])
    (hu : Unpoisoned s) (hn : n ∣ 128) : ∃ t, s.loadLanes .g n n true (ls.map fun l => (l, a l)) =
      .ok (t, ls.map fun l => (l, seenBytes s s.here (p l) n)) ∧ ReadStep s t s.here := by
  have hplace : ∀ l ∈ ls, p l < 2 ^ 64 ∧ p l % 128 + n ≤ 128 := fun l hl => by
    obtain ⟨-, e, -, -, hp, hpn⟩ := hok l hl
    exact ⟨hp, mod_line_add_le hn hpn⟩
  obtain ⟨-, -, -, -, -, hattempts⟩ := id hq
  have hcut : (ls.map fun l => (l, Place.global (p l))).find? (fun e => s.cutOff true n e.2) = none := by
    simp only [List.find?_eq_none, List.forall_mem_map]
    intro l hl
    have hspace : spaceNum (p l) = 0 := Nat.div_eq_of_lt (hplace l hl).1
    simp [State.cutOff, State.unreachable, hspace]
  have hwait : (ls.map fun l => (l, Place.global (p l))).findSome? (fun e => s.waitsChannel true n e.2) = none := by
    simp only [List.findSome?_eq_none_iff, List.forall_mem_map]
    intro l _
    simp [State.waitsChannel, State.busyChannel, hattempts]
  obtain ⟨t, hread, ht⟩ := readLanes_global rfl hq ho (n := n) (ls.map fun l => (l, p l)) (List.forall_mem_map.mpr hplace)
  rw [List.map_map, List.map_map] at hread
  have hlanes : s.readLanes true n (ls.map fun l => (l, .global (p l))) =
    .ok (t, ls.map fun l => (l, seenBytes s s.here (p l) n)) := hread
  refine ⟨t, ?_, ht⟩
  unfold State.loadLanes
  simp only [checkLanes_global hok hwatch, hcut, hwait, hlanes]
  cases hw : s.mic.wake with
  | poisoned a => exact absurd hw (hu a)
  | none | bar | bowait | done | swapped | met => rfl

end

end Sys2Proof.Laws

/-! ## The ragged gather (R270) -/

namespace Sys2Proof.Laws

open Sys2Proof Sys2Proof.Machine Sys2Proof.Claims

/-! ### Bytes that a core sees, as numbers -/

theorem length_seenBytes (s : State) (c p n : Nat) : (seenBytes s c p n).length = n := by
  rw [seenBytes, List.length_map, List.length_range]

theorem seenBytes_getD (s : State) (c p : Nat) {n i : Nat} (hi : i < n) :
    (seenBytes s c p n).getD i 0#8 = coreByte s c (p + i) := by
  rw [seenBytes, List.getD_eq_getElem?_getD, List.getElem?_map, List.getElem?_range hi]
  rfl

theorem leNat_seenBytes (s : State) (c p n : Nat) : leNat (seenBytes s c p n) = seenNum s c p n := by
  rw [leNat_eq_sum _ (Nat.le_of_eq (length_seenBytes s c p n))]
  refine congrArg List.sum (List.map_congr_left fun i hi => ?_)
  rw [seenBytes_getD s c p (List.mem_range.mp hi)]

theorem take_drop_seenBytes (s : State) (c p : Nat) {i j n : Nat} (h : i + j ≤ n) :
    ((seenBytes s c p n).drop i).take j = seenBytes s c (p + i) j := by
  refine List.ext_getElem ?_ fun m _ _ => ?_
  · simp only [List.length_take, List.length_drop, length_seenBytes]
    omega
  · simp only [seenBytes, List.getElem_take, List.getElem_drop, List.getElem_map, List.getElem_range, Nat.add_assoc]

theorem rowBase_seenBytes (s : State) (c p : Nat) : rowBase (seenBytes s c p 16) = seenNum s c p 8 :=
  (congrArg leNat (take_drop_seenBytes s c p (i := 0) (j := 8) (by decide))).trans (leNat_seenBytes s c p 8)

theorem rowLen_seenBytes (s : State) (c p : Nat) : rowLen (seenBytes s c p 16) = seenNum s c (p + 8) 4 :=
  (congrArg leNat (take_drop_seenBytes s c p (by decide))).trans (leNat_seenBytes s c _ 4)

theorem rowHigh_seenBytes (s : State) (c p : Nat) : rowHigh (seenBytes s c p 16) = seenNum s c (p + 12) 4 :=
  (congrArg leNat (take_drop_seenBytes s c p (by decide))).trans (leNat_seenBytes s c _ 4)

theorem ofNat_leNat_seenBytes (s : State) (c p : Nat) {n : Nat} (hn : n ≤ 8) :
    BitVec.ofNat 64 (leNat (seenBytes s c p n)) = loadedWord n (fun j => coreByte s c (p + j)) 0 := by
  unfold loadedWord ofBytes
  rw [leNat_eq_sum (m := 8) _ (Nat.le_trans (Nat.le_of_eq (length_seenBytes s c p n)) hn)]
  refine congrArg (fun xs => BitVec.ofNat 64 (List.sum xs)) (List.map_congr_left fun j _ => ?_)
  simp only [Nat.mul_zero, Nat.zero_add]
  by_cases hj : j < n
  · rw [seenBytes_getD s c p hj, if_pos hj, Nat.mod_eq_of_lt (BitVec.isLt _)]
  · have hlen : (seenBytes s c p n).length ≤ j := Nat.le_trans (Nat.le_of_eq (length_seenBytes s c p n)) (Nat.le_of_not_lt hj)
    rw [if_neg hj, List.getD_eq_getElem?_getD, List.getElem?_eq_none hlen]
    rfl

theorem bytesAt_map_of_not_mem (g : Nat → List Byte) {ls : List Nat} {l : Nat} (hl : l ∉ ls) :
    bytesAt (ls.map fun j => (j, g j)) l = [] := by
  have hnone : (ls.map fun j => (j, g j)).find? (fun e => e.1 == l) = none := by
    simp only [List.find?_eq_none, List.forall_mem_map, beq_iff_eq]
    exact fun j hj hjl => hl (hjl ▸ hj)
  rw [bytesAt, hnone]
  rfl

/-! ### Heads of runs of equal rows -/

theorem getLast?_filter_range (p : Nat → Bool) (n : Nat) :
    ((List.range n).filter p).getLast? = (List.range n).reverse.find? p := by
  rw [List.getLast?_eq_head?_reverse, ← List.filter_reverse, List.head?_filter]

/-- A lane heads a run where it is inside its row and the nearest such lane below has another row (R270). -/
theorem getLsbD_headMask (ins : Nat → Bool) (row : Nat → Nat) {l : Nat} (hl : l < 32) :
    (BitVec.ofNat 32 (headMask (((List.range 32).filter ins).map fun j => (j, row j)))).getLsbD l = true ↔ ins l = true ∧
      ∀ j < l, ins j = true → (∀ i, j < i → i < l → ¬ ins i = true) → row j ≠ row l := by
  have hfind : (((List.range 32).filter ins).map fun j => (j, row j)).find? (fun e => e.1 == l) =
      if ins l = true then some (l, row l) else none := by
    split
    · next hin =>
      refine find?_eq_some_of_unique ?_ (beq_self_eq_true l) fun e he hel => ?_
      · exact List.mem_map.mpr ⟨l, List.mem_filter.mpr ⟨List.mem_range.mpr hl, hin⟩, rfl⟩
      · obtain ⟨j, -, rfl⟩ := List.mem_map.mp he
        rw [show j = l from beq_iff_eq.mp hel]
    · next hout =>
      simp only [List.find?_eq_none, List.forall_mem_map, List.mem_filter, beq_iff_eq]
      exact fun j hj hjl => hout (hjl ▸ hj.2)
  have hlast : ((((List.range 32).filter ins).map fun j => (j, row j)).filter fun q => decide (q.1 < l)).getLast? =
      ((List.range 32).reverse.find? fun j => decide (j < l) && ins j).map fun j => (j, row j) := by
    rw [List.filter_map, List.getLast?_map, List.filter_filter, ← getLast?_filter_range]
    rfl
  rw [headMask, BitVec.getLsbD_ofNat, testBit_bitSum]
  simp only [hl, decide_true, Bool.true_and, hfind, hlast]
  cases hin : ins l with
  | false => simp
  | true =>
    simp only [if_true, true_and]
    cases hrev : (List.range 32).reverse.find? fun j => decide (j < l) && ins j with
    | none =>
      refine iff_of_true rfl fun j hj hjin => absurd ?_ (List.find?_eq_none.mp hrev j ?_)
      · rw [decide_eq_true hj, hjin]; rfl
      · exact List.mem_reverse.mpr (List.mem_range.mpr (Nat.lt_trans hj hl))
    | some j =>
      obtain ⟨hj, -, hmax⟩ := find?_reverse_range hrev
      obtain ⟨hjl, hjin⟩ := Bool.and_eq_true_iff.mp hj
      have hjl : j < l := of_decide_eq_true hjl
      have hbetween : ∀ i, j < i → i < l → ¬ ins i = true := fun i h1 h2 hi => by
        have hno := hmax i h1 (Nat.lt_trans h2 hl)
        rw [decide_eq_true h2, hi] at hno
        exact absurd hno (by decide)
      simp only [Option.map_some, bne_iff_ne]
      refine ⟨fun hne i hi hiin hgap => ?_, fun h => h j hjl hjin hbetween⟩
      have hij : i = j := by
        rcases Nat.lt_trichotomy i j with h | h | h
        · exact absurd hjin (hgap j h hjl)
        · exact h
        · exact absurd hiin (hbetween i h hi)
      rw [hij]
      exact hne

/-! ### Row entries -/

section
variable (s : State) (h : Hdr) (x : BitVec 6) (k : BitVec 3) (pe : Nat → Nat)

/-- The row and the column that a lane names, and the address of its row's entry (R270). -/
def laneRow (l : Nat) : Nat := field (s.rdV x.toNat l) 32 0
def laneCol (l : Nat) : Nat := field (s.rdV x.toNat l) 32 1
def rowEntry (l : Nat) : Nat :=
  (s.rdS (48 + k.toNat) + BitVec.ofInt 64 (prefixOffset s) + BitVec.ofNat 64 (16 * laneRow s x l)).toNat

/-- A lane is active and its column inside its row, whose entry lies at pe. -/
def insideRow (l : Nat) : Bool := s.active h l && decide (laneCol s x l < seenNum s s.here (pe l + 8) 4)

/-- The row entries of the active lanes. -/
def rowEntries : List (Nat × List Byte) := (s.activeLanes h).map fun l => (l, seenBytes s s.here (pe l) 16)

/-- Where the element of a lane lies (R270). -/
def elementAt (nb l : Nat) : Nat := (seenNum s s.here (pe l) 8 + nb * laneCol s x l) % 2 ^ 64

theorem bytesAt_rowEntries {l : Nat} (hl : l ∈ s.activeLanes h) :
    bytesAt (rowEntries s h pe) l = seenBytes s s.here (pe l) 16 := bytesAt_map _ hl

theorem lanes_insideRow : ((s.activeLanes h).filter fun l => decide (laneCol s x l < rowLen (bytesAt (rowEntries s h pe) l))) =
    (List.range 32).filter (insideRow s h x pe) := by
  have hlen : ∀ l ∈ s.activeLanes h, decide (laneCol s x l < rowLen (bytesAt (rowEntries s h pe) l)) =
      decide (laneCol s x l < seenNum s s.here (pe l + 8) 4) := fun l hl => by
    rw [bytesAt_rowEntries s h pe hl, rowLen_seenBytes]
  rw [List.filter_congr hlen, State.activeLanes, List.filter_filter]
  exact List.filter_congr fun l _ => Bool.and_comm _ _

theorem elements_eq (nb : Nat) : (((List.range 32).filter (insideRow s h x pe)).map fun l =>
    (l, (rowBase (bytesAt (rowEntries s h pe) l) + nb * laneCol s x l) % 2 ^ 64)) =
      ((List.range 32).filter (insideRow s h x pe)).map fun l => (l, elementAt s x pe nb l) := by
  refine List.map_congr_left fun l hl => ?_
  obtain ⟨hlt, hin⟩ := List.mem_filter.mp hl
  have hact : l ∈ s.activeLanes h :=
    (mem_activeLanes s h l).mpr ⟨List.mem_range.mp hlt, (Bool.and_eq_true_iff.mp hin).1⟩
  rw [bytesAt_rowEntries s h pe hact, rowBase_seenBytes, elementAt]

end

/-! ### The two reads of a gather -/

section
variable {s u : State} {h : Hdr} {x : BitVec 6} {k : BitVec 3} {pe : Nat → Nat}
  (hread : s.loadLanes .g 16 16 true ((s.activeLanes h).map fun l => (l, rowEntry s x k l)) = .ok (u, rowEntries s h pe))
include hread

theorem exec_ldrag_bad {d : BitVec 6} {z : BitVec 3} {e : Nat × List Byte}
    (hbad : (rowEntries s h pe).find? (fun e => rowHigh e.2 != 0) = some e) :
    exec (.ldrag h d x z k) s = .next (s.memTrap ⟨.bounds, rowEntry s x k e.1, 0#16⟩) := by
  show execLdrag h d x z k s = _
  unfold execLdrag
  simp only [elem_eq_field]
  have hload := hread
  unfold rowEntry laneRow at hload
  simp only [wordOfInt, off_eq_prefixOffset, hload, hbad]
  rfl

/-- What a lane takes of a gather: its element, and its key with the mask of heads (R270). -/
def gathered (ins : Nat → Bool) (row : Nat → Nat) (r : List (Nat × List Byte)) (i l : Nat) : Word :=
  if i = 0 then BitVec.ofNat 64 (leNat (bytesAt r l))
  else BitVec.ofNat 64 ((if ((List.range 32).filter ins).contains l then row l else 0xFFFFFFFF) +
    headMask (((List.range 32).filter ins).map fun j => (j, row j)) * 2 ^ 32)

theorem exec_ldrag_good {v : State} {d : BitVec 6} {z : BitVec 3} {r : List (Nat × List Byte)}
    (hgood : (rowEntries s h pe).find? (fun e => rowHigh e.2 != 0) = none)
    (hload : u.loadLanes .g (2 ^ z.toNat) (2 ^ z.toNat) true (((List.range 32).filter (insideRow s h x pe)).map fun l =>
      (l, elementAt s x pe (2 ^ z.toNat) l)) = .ok (v, r)) :
    exec (.ldrag h d x z k) s =
      .next (putGroup v d.toNat 2 (s.active h) (gathered (insideRow s h x pe) (laneRow s x) r)) := by
  have hentries := hread
  unfold rowEntry laneRow at hentries
  have hins := lanes_insideRow s h x pe
  have helements := elements_eq s h x pe (2 ^ z.toNat)
  unfold laneCol at hins helements
  show execLdrag h d x z k s = _
  unfold execLdrag
  simp only [elem_eq_field, wordOfInt, off_eq_prefixOffset, hentries, hgood, hins, helements, hload]
  rfl

end

end Sys2Proof.Laws

/-! ### What `ldrag` does (R270) -/

namespace Sys2Proof.Laws

open Sys2Proof Sys2Proof.Machine Sys2Proof.Claims

theorem find?_activeLanes {s : State} {h : Hdr} {P : Nat → Bool} {l : Nat} (hl : l < 32) (hact : s.active h l = true)
    (hP : P l = true) (hmin : ∀ j < l, s.active h j = true → P j = false) : (s.activeLanes h).find? P = some l := by
  rw [State.activeLanes, lanes, List.find?_filter, List.find?_range_eq_some]
  refine ⟨by rw [hact, hP]; rfl, List.mem_range.mpr hl, fun j hj => ?_⟩
  cases hactive : s.active h j with
  | false => rfl
  | true => rw [hmin j hj hactive]; rfl

theorem sameGlobal_of_core {s t u : State} {c : Nat} (h : SameGlobal s t c) (hcore : u.core c = t.core c)
    (hmem : u.mem = t.mem) : SameGlobal s u c := fun p => by
  rw [coreByte_congr (by rw [hcore]) hmem, hmem]
  exact h p

/-- A group of registers that is written after reads of memory. -/
theorem loadsGroup_putGroup {s u : State} (hu : HomeStep s u) (h : Hdr) (d m : Nat) (f : Nat → Nat → Word) :
    LoadsGroup s (putGroup u d m (s.active h) f) h d m f := by
  have hwarp (k : Nat) : u.warp k = s.warp k := by
    unfold State.warp
    rw [hu.warps]
  have hcw : u.cw = s.cw := by
    unfold State.cw
    rw [hu.cur, hwarp]
  obtain ⟨-, hother, hself, -⟩ := onlyRegisters_putGroup u d m (s.active h) f
  obtain ⟨hs, hp, hnf⟩ := putGroup_otherRegs u d m (s.active h) f
  refine ⟨fun q l hl => ?_, by rw [hs, hcw], by rw [hp, hcw], by rw [hnf, hcw], by rw [hself, hcw], by rw [hself, hcw],
    fun k hk => ?_⟩
  · rw [vReg_putGroup _ _ _ _ _ _ hl]
    unfold vReg
    rw [hcw]
  · rw [hother k (by rw [hu.cur]; exact hk), hwarp]

theorem reachesByTlb_of_homeStep {s t : State} (h : HomeStep s t) (htlb : (t.core s.here).tlb = (s.core s.here).tlb) {k : Kind}
    {va n p : Nat} (hr : ReachesByTlb s k va n p) : ReachesByTlb t k va n p := by
  have hctx : t.myCtx = s.myCtx := by rw [h.frame]; rfl
  obtain ⟨e, hfind, hphys, hp, hpn⟩ := hr
  exact ⟨e, by rw [here_of_homeStep h, htlb, hctx]; exact hfind, hphys, hp, hpn⟩

section
variable {s : State} {h : Hdr} {d x : BitVec 6} {z k : BitVec 3} {pe pv : Nat → Nat} (hq : QuietHome s)
  (ho : OrderedL1 s s.here) (hwatch : (s.block s.myBlock).watch = []) (hun : Unpoisoned s)
  (hentry : ∀ l < 32, s.active h l = true → rowEntry s x k l % 16 = 0 ∧ ReachesByTlb s .read (rowEntry s x k l) 16 (pe l))
include hq ho hwatch hun hentry

theorem rowEntries_read : ∃ u, s.loadLanes .g 16 16 true ((s.activeLanes h).map fun l => (l, rowEntry s x k l)) =
    .ok (u, rowEntries s h pe) ∧ ReadStep s u s.here :=
  loadLanes_global (fun l hl => by
    obtain ⟨hlt, hact⟩ := (mem_activeLanes s h l).mp hl
    exact hentry l hlt hact) hq ho hwatch hun (by decide)

/-- The lowest lane whose entry has a high word stops the gather. -/
theorem ldrag_bounds {l : Nat} (hl : l < 32) (hact : s.active h l = true) (hhigh : seenNum s s.here (pe l + 12) 4 ≠ 0)
    (hlow : ∀ j < l, s.active h j = true → seenNum s s.here (pe j + 12) 4 = 0) :
    exec (.ldrag h d x z k) s = .next (s.memTrap ⟨.bounds, rowEntry s x k l, 0#16⟩) := by
  obtain ⟨u, hread, -⟩ := rowEntries_read hq ho hwatch hun hentry
  have hbad : (rowEntries s h pe).find? (fun e => rowHigh e.2 != 0) = some (l, seenBytes s s.here (pe l) 16) := by
    rw [rowEntries, List.find?_map, find?_activeLanes hl hact]
    · rfl
    · simpa [rowHigh_seenBytes] using hhigh
    · intro j hj hjact
      simpa [rowHigh_seenBytes] using hlow j hj hjact
  rw [exec_ldrag_bad hread hbad]

/-- The lanes inside their rows get their elements and keys, the others 0 and a key of all ones. -/
theorem ldrag_gathers (hz : z.toNat ≤ 3) (hhigh : ∀ l < 32, s.active h l = true → seenNum s s.here (pe l + 12) 4 = 0)
    (helement : ∀ l < 32, insideRow s h x pe l = true → elementAt s x pe (2 ^ z.toNat) l % 2 ^ z.toNat = 0 ∧
      ReachesByTlb s .read (elementAt s x pe (2 ^ z.toNat) l) (2 ^ z.toNat) (pv l)) :
    ∃ v, HomeStep s v ∧ SameGlobal s v s.here ∧ exec (.ldrag h d x z k) s = .next (putGroup v d.toNat 2 (s.active h)
      (gathered (insideRow s h x pe) (laneRow s x) (((List.range 32).filter (insideRow s h x pe)).map fun l =>
        (l, seenBytes s s.here (pv l) (2 ^ z.toNat))))) := by
  obtain ⟨u, hread, hu⟩ := rowEntries_read hq ho hwatch hun hentry
  have hgood : (rowEntries s h pe).find? (fun e => rowHigh e.2 != 0) = none := by
    simp only [rowEntries, List.find?_eq_none, List.forall_mem_map]
    intro l hl
    obtain ⟨hlt, hact⟩ := (mem_activeLanes s h l).mp hl
    simpa [rowHigh_seenBytes] using hhigh l hlt hact
  have hhere : u.here = s.here := here_of_homeStep hu.home
  have hwatch' : (u.block u.myBlock).watch = [] := by rw [hu.home.frame]; exact hwatch
  have hun' : Unpoisoned u := by rw [hu.home.frame]; exact hun
  have hok : ∀ l ∈ (List.range 32).filter (insideRow s h x pe), elementAt s x pe (2 ^ z.toNat) l % 2 ^ z.toNat = 0 ∧
      ReachesByTlb u .read (elementAt s x pe (2 ^ z.toNat) l) (2 ^ z.toNat) (pv l) := fun l hl => by
    obtain ⟨hlt, hin⟩ := List.mem_filter.mp hl
    obtain ⟨halign, hreach⟩ := helement l (List.mem_range.mp hlt) hin
    exact ⟨halign, reachesByTlb_of_homeStep hu.home hu.tlb hreach⟩
  have hdvd : 2 ^ z.toNat ∣ 128 := Nat.pow_dvd_pow 2 (show z.toNat ≤ 7 by omega)
  obtain ⟨v, hload, hv⟩ := loadLanes_global hok hu.quiet (by rw [hhere]; exact hu.ordered) hwatch' hun' hdvd
  rw [hhere] at hload hv
  have hsame : (((List.range 32).filter (insideRow s h x pe)).map fun l => (l, seenBytes u s.here (pv l) (2 ^ z.toNat))) =
      ((List.range 32).filter (insideRow s h x pe)).map fun l => (l, seenBytes s s.here (pv l) (2 ^ z.toNat)) :=
    List.map_congr_left fun l _ => congrArg (Prod.mk l) (List.map_congr_left fun i _ => (hu.view _).1)
  rw [hsame] at hload
  exact ⟨v, (hu.trans hv).home, (hu.trans hv).view, exec_ldrag_good hread hgood hload⟩

end

theorem mem_lanes_insideRow (ins : Nat → Bool) {l : Nat} (hl : l < 32) :
    l ∈ (List.range 32).filter ins ↔ ins l = true := by
  rw [List.mem_filter, List.mem_range]
  exact and_iff_right hl

theorem gathered_inside {ins : Nat → Bool} {row : Nat → Nat} {g : Nat → List Byte} {l : Nat} (hl : l < 32)
    (hin : ins l = true) :
    gathered ins row (((List.range 32).filter ins).map fun j => (j, g j)) 0 l = BitVec.ofNat 64 (leNat (g l)) ∧
      gathered ins row (((List.range 32).filter ins).map fun j => (j, g j)) 1 l =
        BitVec.ofNat 64 (row l + headMask (((List.range 32).filter ins).map fun j => (j, row j)) * 2 ^ 32) := by
  have hmem := (mem_lanes_insideRow ins hl).mpr hin
  refine ⟨?_, ?_⟩
  · rw [gathered, if_pos rfl, bytesAt_map _ hmem]
  · rw [gathered, if_neg (by decide), if_pos (List.contains_iff_mem.mpr hmem)]

theorem gathered_outside {ins : Nat → Bool} {row : Nat → Nat} {g : Nat → List Byte} {l : Nat} (hl : l < 32)
    (hout : ¬ ins l = true) :
    gathered ins row (((List.range 32).filter ins).map fun j => (j, g j)) 0 l = 0#64 ∧
      gathered ins row (((List.range 32).filter ins).map fun j => (j, g j)) 1 l =
        BitVec.ofNat 64 (0xFFFFFFFF + headMask (((List.range 32).filter ins).map fun j => (j, row j)) * 2 ^ 32) := by
  have hmem := mt (mem_lanes_insideRow ins hl).mp hout
  refine ⟨?_, ?_⟩
  · rw [gathered, if_pos rfl, bytesAt_map_of_not_mem _ hmem]
    rfl
  · rw [gathered, if_neg (by decide), if_neg (mt List.contains_iff_mem.mp hmem)]

end Sys2Proof.Laws

/-! ## Prefetches (R271, R272) -/

namespace Sys2Proof.Laws

open Sys2Proof Sys2Proof.Machine Sys2Proof.Claims

/-! ### The tags of the L2 -/

theorem mem_of_mem_l2Room {ts : List L2Tag} {full : Bool} {x : L2Tag} (h : x ∈ l2Room ts full) : x ∈ ts := by
  have hlast : x ∈ (if 32 ≤ ts.length then ts.dropLast else ts) → x ∈ ts := fun h => by
    split at h
    · exact List.dropLast_subset ts h
    · exact h
  unfold l2Room at h
  simp only at h
  generalize (if 32 ≤ ts.length then ts.dropLast else ts) = us at h hlast
  generalize (full && _) = room at h
  split at h
  · split at h
    · exact hlast h
    · exact hlast (List.mem_filter.mp h).1
  · exact hlast h

theorem l2Find_isSome_iff (s : State) (line : Nat) :
    (s.l2Find line).isSome = true ↔ ∃ x ∈ Tab.get [] s.l2 (l2Set line), x.line = line := by
  unfold State.l2Find
  simp only [List.find?_isSome, beq_iff_eq]

/-- The use of a line brings no other line's tag. -/
theorem l2Find_l2Use {s : State} {line x : Nat} {write first : Bool}
    (h : ((s.l2Use line write first).l2Find x).isSome = true) : (s.l2Find x).isSome = true ∨ x = line := by
  by_cases hline : 2 ^ 57 ≤ line
  · rw [State.l2Use, if_pos hline] at h
    exact .inl h
  · rw [State.l2Use, if_neg hline] at h
    obtain ⟨t, ht, htx⟩ := (l2Find_isSome_iff _ x).mp h
    by_cases hset : l2Set x = l2Set line
    · rw [hset, Tab.get_put_self] at ht
      have hcases : t.line = line ∨ t ∈ (Tab.get [] s.l2 (l2Set line)).filter fun y => y.line != line := by
        split at ht
        · rcases List.mem_append.mp ht with ht | ht
          · exact .inr (mem_of_mem_l2Room ht)
          · exact .inl (congrArg L2Tag.line (List.mem_singleton.mp ht))
        · rcases List.mem_cons.mp ht with ht | ht
          · exact .inl (congrArg L2Tag.line ht)
          · exact .inr (mem_of_mem_l2Room ht)
      rcases hcases with heq | hmem
      · exact .inr (htx.symm.trans heq)
      · exact .inl ((l2Find_isSome_iff s x).mpr ⟨t, by rw [hset]; exact (List.mem_filter.mp hmem).1, htx⟩)
    · rw [Tab.get_put_ne _ _ _ hset] at ht
      exact .inl ((l2Find_isSome_iff s x).mpr ⟨t, ht, htx⟩)

/-! ### One line of a prefetch -/

/-- A counter of the issuing core counts one more. -/
def counted (s : State) (code : Nat) : State := s.setCore s.here ((s.core s.here).addCount code 1)

/-- A number is drawn. -/
def drawn (s : State) : State := { s with fresh := s.fresh + 1 }

/-- A line that a prefetch asks for. -/
def askedFor (s : State) (target line : Nat) : State :=
  if target = 0 then (counted s 0x70).requestLine s.here line else (counted s 0x70).l2Use line false (target == 2)

/-- A line whose page the TLB holds is dropped, or asked for where it is not at its target yet. -/
theorem prefetch_cases {s : State} {target va p : Nat} (hr : ReachesByTlb s .read va 1 p) :
    s.prefetch target va = counted (drawn s) 0x71 ∨
      s.prefetch target va = askedFor (drawn s) target (p / 128) ∧ (drawn s).prefetched target (p / 128) s.fresh = false := by
  obtain ⟨e, hfind, rfl, hp, -⟩ := hr
  have htranslate : s.translate s.here s.myCtx va .read = .ok s e := by
    unfold State.translate
    rw [hfind]
  have hspace : spaceNum (e.phys va) = 0 := Nat.div_eq_of_lt hp
  have hreach (u : State) : u.unreachable (e.phys va) = false := by simp [State.unreachable, hspace]
  have hprefetch : s.prefetch target va =
      if (drawn s).prefetched target (e.phys va / 128) s.fresh = true ∨ Config.choice s.fresh 0 = true then
        counted (drawn s) 0x71
      else if (counted (drawn s) 0x70).unreachable (e.phys va) = true then counted (drawn s) 0x70
      else askedFor (drawn s) target (e.phys va / 128) := by
    unfold State.prefetch
    simp only [htranslate]
    rfl
  rw [hprefetch, hreach, if_neg Bool.false_ne_true]
  by_cases hdrop : (drawn s).prefetched target (e.phys va / 128) s.fresh = true ∨ Config.choice s.fresh 0 = true
  · exact .inl (if_pos hdrop)
  · exact .inr ⟨if_neg hdrop, Bool.eq_false_iff.mpr fun h => hdrop (.inl h)⟩

/-! ### A run of prefetches -/

/-- A line is on its way into the core's L1, or whole in it. -/
def OnItsWay (s : State) (line : Nat) : Prop :=
  (∃ f ∈ s.flights, f.line = line ∧ f.core = s.here) ∨ (s.core s.here).hits (128 * line) 128 = true

/-- Whom a line that the issuing warp asks for is protected for (R112). -/
def guardOf (s : State) : Option (Nat × Nat) := if s.urgent s.cur.warp then some (s.myBlock, s.cur.warp) else none

/-- The read of a line that sets out for its home. -/
def askingFlight (s : State) (line : Nat) : Flight := { line := line, core := s.here, fill := true, guard := guardOf s }

def counter (s : State) (c code : Nat) : Word := Tab.get 0#64 (s.core c).counters code

/-- From s to t prefetches have asked for some lines and dropped m others. -/
structure Prefetched (s t : State) (target : Nat) (asked : List Nat) (m : Nat) : Prop where
  frame : t = { s with cores := t.cores, flights := t.flights, agenda := t.agenda, fresh := t.fresh, l2 := t.l2
                       zeroLines := t.zeroLines, corrected := t.corrected }
  others : ∀ n, n ≠ s.here → t.core n = s.core n
  core : t.core s.here = { s.core s.here with counters := (t.core s.here).counters }
  counts : ∀ n, counter t s.here n = counter s s.here n + BitVec.ofNat 64
    (if n = 0x70 then asked.length else if n = 0x71 then m else 0)
  absent : target = 0 → ∀ line ∈ asked, ¬ OnItsWay s line
  toL1 : target = 0 → t.flights = s.flights ++ asked.map (askingFlight s) ∧
    (∀ line ∈ asked, Instr.homeRead s.here line ∈ t.agenda) ∧ t.l2 = s.l2
  toL2 : target ≠ 0 → t.flights = s.flights ∧ t.agenda = s.agenda ∧
    ∀ line, (t.l2Find line).isSome = true → (s.l2Find line).isSome = true ∨ line ∈ asked

theorem prefetched_refl (s : State) (target : Nat) : Prefetched s s target [] 0 := by
  refine ⟨rfl, fun _ _ => rfl, rfl, fun n => ?_, fun _ line h => absurd h List.not_mem_nil, fun _ => ?_,
    fun _ => ⟨rfl, rfl, fun _ => .inl⟩⟩
  · have hzero : (if n = 0x70 then ([] : List Nat).length else if n = 0x71 then 0 else 0) = 0 := by
      split
      · rfl
      · exact ite_self 0
    rw [hzero]
    exact (BitVec.add_zero _).symm
  · exact ⟨(List.append_nil _).symm, fun line h => absurd h List.not_mem_nil, rfl⟩

theorem core_counted (s : State) (code n : Nat) :
    (counted s code).core n = if n = s.here then (s.core s.here).addCount code 1 else s.core n := by
  split
  · next h =>
    rw [h]
    exact State.core_setCore_self s _ _
  · next h => exact State.core_setCore_ne _ _ _ h

theorem get_addCount (c : Core) (code n m : Nat) : Tab.get 0#64 (c.addCount code m).counters n =
    Tab.get 0#64 c.counters n + BitVec.ofNat 64 (if n = code then m else 0) := by
  unfold Core.addCount
  rw [Tab.get_put]
  split
  · next h => rw [h]
  · exact (BitVec.add_zero _).symm

theorem counts_asked (asked : List Nat) (m n line : Nat) : (if n = 0x70 then (asked ++ [line]).length else if n = 0x71 then m else 0) =
    (if n = 0x70 then asked.length else if n = 0x71 then m else 0) + if n = 0x70 then 1 else 0 := by
  by_cases h0 : n = 0x70
  · simp [h0]
  · simp [h0]

section
variable {s t : State} {target : Nat} {asked : List Nat} {m : Nat} (h : Prefetched s t target asked m)
include h

theorem Prefetched.here : t.here = s.here := by
  rw [h.frame]
  rfl

theorem Prefetched.guard : guardOf t = guardOf s := by
  rw [h.frame]
  rfl

theorem Prefetched.reaches {va n p : Nat} (hr : ReachesByTlb s .read va n p) : ReachesByTlb t .read va n p := by
  have hctx : t.myCtx = s.myCtx := by
    rw [h.frame]
    rfl
  have htlb : (t.core t.here).tlb = (s.core s.here).tlb := by rw [h.here, h.core]
  unfold ReachesByTlb
  rw [htlb, hctx]
  exact hr

/-- A line that is on its way, or in the L1, is so after the prefetches. -/
theorem Prefetched.onItsWay (h0 : target = 0) {line : Nat} (hl : OnItsWay s line) : OnItsWay t line := by
  unfold OnItsWay
  rw [h.here, h.core, (h.toL1 h0).1]
  refine hl.imp (fun ⟨f, hf, heq⟩ => ⟨f, List.mem_append_left _ hf, heq⟩) id

/-- One more counter: the drop of a line, or the first part of its request. -/
theorem Prefetched.counts_counted {code : Nat} {asked' : List Nat} {m' : Nat}
    (hcode : ∀ n, (if n = 0x70 then asked'.length else if n = 0x71 then m' else 0) =
      (if n = 0x70 then asked.length else if n = 0x71 then m else 0) + if n = code then 1 else 0) (n : Nat) :
    counter (counted (drawn t) code) s.here n = counter s s.here n +
      BitVec.ofNat 64 (if n = 0x70 then asked'.length else if n = 0x71 then m' else 0) := by
  have hcore : (counted (drawn t) code).core s.here = (t.core s.here).addCount code 1 := by
    rw [core_counted]
    have hhere : (drawn t).here = s.here := h.here
    rw [hhere, if_pos rfl]
    rfl
  rw [counter, hcore, get_addCount, hcode, BitVec.ofNat_add, ← BitVec.add_assoc]
  exact congrArg (· + _) (h.counts n)

theorem Prefetched.core_counted_here (code : Nat) : (counted (drawn t) code).core s.here =
    { s.core s.here with counters := ((counted (drawn t) code).core s.here).counters } := by
  have hhere : (drawn t).here = s.here := h.here
  rw [core_counted, hhere, if_pos rfl]
  exact (congrArg (fun c : Core => c.addCount code 1) h.core).trans rfl

theorem Prefetched.core_counted_ne (code : Nat) {n : Nat} (hn : n ≠ s.here) :
    (counted (drawn t) code).core n = s.core n := by
  have hhere : (drawn t).here = s.here := h.here
  rw [core_counted, hhere, if_neg hn]
  exact h.others n hn

theorem Prefetched.counted_frame (code : Nat) : let u := counted (drawn t) code
    u = { s with cores := u.cores, flights := u.flights, agenda := u.agenda, fresh := u.fresh, l2 := u.l2
                 zeroLines := u.zeroLines, corrected := u.corrected } := by
  show State.setCore (drawn t) _ _ = _
  rw [h.frame]
  rfl

/-- A line is dropped. -/
theorem Prefetched.drop : Prefetched s (counted (drawn t) 0x71) target asked (m + 1) := by
  refine ⟨h.counted_frame _, fun n hn => h.core_counted_ne _ hn, h.core_counted_here _, h.counts_counted fun n => ?_,
    h.absent, h.toL1, h.toL2⟩
  by_cases h0 : n = 0x70
  · simp [h0]
  · by_cases h1 : n = 0x71 <;> simp [h0, h1]

/-- A line that is not there yet is asked for, to fill the L1. -/
theorem Prefetched.ask_l1 (h0 : target = 0) {line : Nat} (habsent : ¬ OnItsWay t line) :
    Prefetched s (askedFor (drawn t) target line) target (asked ++ [line]) m := by
  obtain ⟨hflights, hagenda, hl2⟩ := h.toL1 h0
  have hask : askedFor (drawn t) target line = (counted (drawn t) 0x70).requestLine (drawn t).here line := if_pos h0
  have hguard : (if (counted (drawn t) 0x70).urgent (counted (drawn t) 0x70).cur.warp then
      some (counted (drawn t) 0x70).toucher else none) = guardOf s := h.guard
  have hhere : (drawn t).here = s.here := h.here
  have hrequest : askedFor (drawn t) target line = State.later { counted (drawn t) 0x70 with
      flights := t.flights ++ [askingFlight s line] } (.homeRead s.here line) := by
    rw [hask, State.requestLine]
    simp only [hguard, hhere]
    rfl
  rw [hrequest]
  refine ⟨?_, fun n hn => h.core_counted_ne 0x70 hn, h.core_counted_here 0x70,
    h.counts_counted (code := 0x70) fun n => counts_asked asked m n line, fun _ x hx => ?_, fun _ => ⟨?_, fun x hx => ?_, hl2⟩,
    fun hne => absurd h0 hne⟩
  · show State.later { State.setCore (drawn t) _ _ with flights := _ } _ = _
    rw [h.frame]
    rfl
  · rcases List.mem_append.mp hx with hx | hx
    · exact h.absent h0 x hx
    · rw [List.mem_singleton.mp hx]
      exact mt (h.onItsWay h0) habsent
  · rw [List.map_append, ← List.append_assoc, ← hflights]
    rfl
  · rcases List.mem_append.mp hx with hx | hx
    · exact mem_addOnce_of_mem (hagenda x hx) _
    · rw [List.mem_singleton.mp hx]
      exact mem_later_agenda _ _

/-- A line is asked for, to stay in the L2. -/
theorem Prefetched.ask_l2 (h0 : target ≠ 0) (line : Nat) :
    Prefetched s (askedFor (drawn t) target line) target (asked ++ [line]) m := by
  obtain ⟨hflights, hagenda, hl2⟩ := h.toL2 h0
  have hask : askedFor (drawn t) target line = (counted (drawn t) 0x70).l2Use line false (target == 2) := if_neg h0
  have hframe := l2Use_frame (counted (drawn t) 0x70) line false (target == 2)
  have hcores : (askedFor (drawn t) target line).cores = (counted (drawn t) 0x70).cores := by rw [hask, hframe]
  have hcore (n : Nat) : (askedFor (drawn t) target line).core n = (counted (drawn t) 0x70).core n := by
    unfold State.core
    rw [hcores]
  refine ⟨?_, fun n hn => (hcore n).trans (h.core_counted_ne 0x70 hn), ?_, fun n => ?_, fun h1 => absurd h1 h0,
    fun h1 => absurd h1 h0, fun _ => ⟨?_, ?_, fun x hx => ?_⟩⟩
  · rw [hask]
    refine hframe.trans ((congrArg (fun u : State => { u with
      l2 := ((counted (drawn t) 0x70).l2Use line false (target == 2)).l2
      zeroLines := ((counted (drawn t) 0x70).l2Use line false (target == 2)).zeroLines
      corrected := ((counted (drawn t) 0x70).l2Use line false (target == 2)).corrected })
      (h.counted_frame 0x70)).trans ?_)
    rw [hframe]
  · rw [hcore]
    exact h.core_counted_here 0x70
  · rw [counter, hcore]
    exact h.counts_counted (code := 0x70) (fun n => counts_asked asked m n line) n
  · rw [hask, hframe]
    exact hflights
  · rw [hask, hframe]
    exact hagenda
  · rw [hask] at hx
    rcases l2Find_l2Use hx with hx | rfl
    · exact (hl2 x hx).imp_right (List.mem_append_left _)
    · exact .inr (List.mem_append_right _ List.mem_cons_self)

end

end Sys2Proof.Laws

/-! ## The gather and the prefetch (R112, R270 to R272) -/

namespace Sys2Proof.Laws

open Sys2Proof Sys2Proof.Machine Sys2Proof.Claims

/-- One prefetch after others asks for its line, or drops it. -/
theorem Prefetched.step {s t : State} {target : Nat} {asked : List Nat} {m : Nat} (h : Prefetched s t target asked m)
    {va p : Nat} (hr : ReachesByTlb s .read va 1 p) :
    Prefetched s (t.prefetch target va) target asked (m + 1) ∨
      Prefetched s (t.prefetch target va) target (asked ++ [p / 128]) m := by
  rcases prefetch_cases (target := target) (h.reaches hr) with hdrop | ⟨hask, hnot⟩
  · rw [hdrop]
    exact .inl h.drop
  · rw [hask]
    refine .inr ?_
    by_cases h0 : target = 0
    · refine h.ask_l1 h0 fun hway => ?_
      have hthere : (drawn t).prefetched target (p / 128) t.fresh = true := by
        rw [State.prefetched, if_pos h0]
        refine Bool.or_eq_true_iff.mpr (hway.imp_left fun ⟨f, hf, hline, hcore⟩ => ?_)
        refine List.any_eq_true.mpr ⟨f, hf, Bool.and_eq_true_iff.mpr ⟨beq_iff_eq.mpr hline, beq_iff_eq.mpr hcore⟩⟩
      exact Bool.false_ne_true (hnot.symm.trans hthere)
    · exact h.ask_l2 h0 _

/-- A run of prefetches asks for some of its lines and drops the others. -/
theorem Prefetched.foldl {s t : State} {target : Nat} {asked : List Nat} {m : Nat} (h : Prefetched s t target asked m)
    {p : Nat → Nat} (named : List Nat) (hr : ∀ a ∈ named, ReachesByTlb s .read a 1 (p a)) : ∃ more m',
      Prefetched s (named.foldl (fun s va => s.prefetch target va) t) target (asked ++ more) m' ∧
      more.length + m' = m + named.length ∧ ∀ line ∈ more, ∃ a ∈ named, line = p a / 128 := by
  induction named generalizing t asked m with
  | nil => exact ⟨[], m, by rw [List.append_nil]; exact h, Nat.zero_add m, fun line h => absurd h List.not_mem_nil⟩
  | cons a named ih =>
    obtain ⟨hra, hrest⟩ := List.forall_mem_cons.mp hr
    have hlater {more : List Nat} (hl : ∀ line ∈ more, ∃ b ∈ named, line = p b / 128) :
        ∀ line ∈ more, ∃ b ∈ a :: named, line = p b / 128 := fun line hm => by
      obtain ⟨b, hb, heq⟩ := hl line hm
      exact ⟨b, List.mem_cons_of_mem a hb, heq⟩
    rw [List.foldl_cons, List.length_cons]
    rcases h.step (target := target) hra with hdrop | hask
    · obtain ⟨more, m', hfold, hlen, hlines⟩ := ih hdrop hrest
      exact ⟨more, m', hfold, by omega, hlater hlines⟩
    · obtain ⟨more, m', hfold, hlen, hlines⟩ := ih hask hrest
      refine ⟨p a / 128 :: more, m', by rw [List.append_assoc] at hfold; exact hfold, ?_, fun line hl => ?_⟩
      · rw [List.length_cons]
        omega
      · rcases List.mem_cons.mp hl with rfl | hl
        · exact ⟨a, List.mem_cons_self, rfl⟩
        · exact hlater hlines line hl

/-- The lines that the lanes of a prefetch name, each once (R271). -/
def namedLines (s : State) (h : Hdr) (c : BitVec 4) (x : BitVec 6) (k : BitVec 3) : List Nat :=
  (((List.range 32).filter (s.active h)).flatMap fun l => (List.range (c.toNat + 1)).map fun i =>
    (laneAddress s x k 0 (prefixOffset s) l / 128 * 128 + 128 * i) % 2 ^ 64).eraseDups

theorem exec_prf (s : State) (h : Hdr) (c : BitVec 4) (g : BitVec 2) (x : BitVec 6) (k : BitVec 3) :
    exec (.prf h c g x k) s = .next ((namedLines s h c x k).foldl (fun s va => s.prefetch g.toNat va) s) := by
  show execPrf h c g x k s = _
  unfold execPrf
  simp only [addrs_eq, List.flatMap_map]
  rfl

/-- Settles O27: a read through the L1 keeps the core's view of memory (`ReadStep`), so both reads of a gather bring what
the core saw at first; a run of prefetches keeps the account of what it asked for (`Prefetched`). -/
theorem gatherResults : Obligations.GatherResults := by
  unfold Obligations.GatherResults
  refine ⟨?_, ?_⟩
  · intro s h d x z k pe pv hq ho hwatch hun hz nb row col a seen inside hentry
    refine ⟨?_, ?_⟩
    · intro l hl hact hhigh hlow
      exact ldrag_bounds hq ho hwatch hun hentry hl hact hhigh hlow
    · intro hhigh helement
      have hin (l : Nat) : insideRow s h x pe l = true ↔ inside l := by
        rw [insideRow, Bool.and_eq_true_iff, decide_eq_true_iff]
        rfl
      obtain ⟨v, hv, hview, hexec⟩ := ldrag_gathers (d := d) hq ho hwatch hun hentry hz hhigh
        fun l hl hi => helement l hl ((hin l).mp hi)
      let heads := headMask (((List.range 32).filter (insideRow s h x pe)).map fun l => (l, row l))
      have hheads : (BitVec.ofNat 32 heads).toNat = heads := Nat.mod_eq_of_lt (bitSum_lt _ 32)
      refine ⟨_, BitVec.ofNat 32 heads, hexec, ?_, fun l hl => ?_, _, loadsGroup_putGroup hv h _ _ _, fun l hl hact => ⟨?_, ?_⟩⟩
      · obtain ⟨hframe, -⟩ := onlyRegisters_putGroup v d.toNat 2 (s.active h) (gathered (insideRow s h x pe) (laneRow s x)
          (((List.range 32).filter (insideRow s h x pe)).map fun l => (l, seenBytes s s.here (pv l) (2 ^ z.toNat))))
        exact sameGlobal_of_core hview (by rw [hframe]; rfl) (by rw [hframe])
      · have hhead := getLsbD_headMask (insideRow s h x pe) row hl
        simp only [hin] at hhead
        exact hhead
      · intro hi
        obtain ⟨h0, h1⟩ := gathered_inside (row := laneRow s x)
          (g := fun l => seenBytes s s.here (pv l) (2 ^ z.toNat)) hl ((hin l).mpr hi)
        have hsize : 2 ^ z.toNat ≤ 8 := Nat.pow_le_pow_right (by decide) hz
        rw [hheads]
        exact ⟨h0.trans (ofNat_leNat_seenBytes s s.here (pv l) hsize), h1⟩
      · intro hi
        rw [hheads]
        exact gathered_outside (row := laneRow s x) hl (mt (hin l).mp hi)
  · intro s h c g x k p named count there guard hr
    obtain ⟨asked, m, ht, hlen, hlines⟩ := (prefetched_refl s g.toNat).foldl (namedLines s h c x k) hr
    have hg : g = 0#2 ↔ g.toNat = 0 := by rw [← BitVec.toNat_inj]; rfl
    rw [List.nil_append] at ht
    have hlength : asked.length + m = (namedLines s h c x k).length := hlen.trans (Nat.zero_add _)
    have hasks := ht.counts 0x70
    have hdrops := ht.counts 0x71
    rw [if_pos rfl] at hasks
    rw [if_neg (by decide), if_pos rfl] at hdrops
    refine ⟨_, exec_prf s h c g x k, ht.frame, ht.others, ht.core, fun n h0 h1 => ?_, asked, hasks, ?_, fun line hl => ?_,
      fun h0 => ht.toL1 (hg.mp h0), fun h0 => ht.toL2 (mt hg.mpr h0)⟩
    · refine (ht.counts n).trans ?_
      rw [if_neg h0, if_neg h1]
      exact BitVec.add_zero _
    · show counter _ s.here 0x70 + counter _ s.here 0x71 =
        counter s s.here 0x70 + counter s s.here 0x71 + BitVec.ofNat 64 (namedLines s h c x k).length
      rw [hasks, hdrops, ← hlength, BitVec.ofNat_add]
      ac_rfl
    · obtain ⟨a, ha, heq⟩ := hlines line hl
      exact ⟨a, ha, heq, fun h0 => ht.absent (hg.mp h0) line hl⟩

end Sys2Proof.Laws

/-! ## Scalar instructions of three registers (R168) -/

namespace Sys2Proof.Laws

open Sys2Proof Sys2Proof.Machine Sys2Proof.Claims

/-! ### The values of the scalar rows -/

theorem add_eq_ofNat (x y : Word) : x + y = BitVec.ofNat 64 ((x.toNat + y.toNat) % 2 ^ 64) := by
  apply BitVec.eq_of_toNat_eq
  rw [BitVec.toNat_add, BitVec.toNat_ofNat, Nat.mod_mod]

theorem sub_eq_ofInt (x y : Word) : x - y = BitVec.ofInt 64 ((x.toNat : Int) - y.toNat) := by
  rw [Int.sub_eq_add_neg, BitVec.ofInt_add, BitVec.ofInt_neg, BitVec.ofInt_natCast, BitVec.ofInt_natCast,
    BitVec.ofNat_toNat, BitVec.ofNat_toNat, BitVec.setWidth_eq, BitVec.setWidth_eq, BitVec.sub_eq_add_neg]

theorem mul_eq_ofNat (x y : Word) : x * y = BitVec.ofNat 64 (x.toNat * y.toNat % 2 ^ 64) := by
  apply BitVec.eq_of_toNat_eq
  rw [BitVec.toNat_mul, BitVec.toNat_ofNat, Nat.mod_mod]

theorem div_eq_ofNat (x y : Word) : x / y = BitVec.ofNat 64 (x.toNat / y.toNat) := by
  apply BitVec.eq_of_toNat_eq
  rw [BitVec.toNat_udiv, BitVec.toNat_ofNat, Nat.mod_eq_of_lt (Nat.lt_of_le_of_lt (Nat.div_le_self _ _) x.isLt)]

theorem mod_eq_ofNat (x y : Word) : x % y = BitVec.ofNat 64 (x.toNat - y.toNat * (x.toNat / y.toNat)) := by
  have hrem : x.toNat % y.toNat = x.toNat - y.toNat * (x.toNat / y.toNat) := Nat.mod_eq_sub_mul_div
  apply BitVec.eq_of_toNat_eq
  rw [BitVec.toNat_umod, ← hrem, BitVec.toNat_ofNat, Nat.mod_eq_of_lt (Nat.lt_of_le_of_lt (Nat.mod_le _ _) x.isLt)]

theorem slea_eq_ofNat (x y : Word) : x + 8#64 * y = BitVec.ofNat 64 ((x.toNat + 8 * y.toNat) % 2 ^ 64) := by
  apply BitVec.eq_of_toNat_eq
  rw [BitVec.toNat_add, BitVec.toNat_mul, Nat.add_mod_mod, BitVec.toNat_ofNat, BitVec.toNat_ofNat, Nat.mod_mod]

theorem shiftLeft_eq_ofNat (x : Word) (n : Nat) : x <<< n = BitVec.ofNat 64 (x.toNat * 2 ^ n) := by
  apply BitVec.eq_of_toNat_eq
  rw [BitVec.toNat_shiftLeft, BitVec.toNat_ofNat, Nat.shiftLeft_eq]

theorem shiftRight_eq_ofNat (x : Word) (n : Nat) : x >>> n = BitVec.ofNat 64 (x.toNat / 2 ^ n) := by
  apply BitVec.eq_of_toNat_eq
  rw [BitVec.toNat_ushiftRight, BitVec.toNat_ofNat, Nat.shiftRight_eq_div_pow,
    Nat.mod_eq_of_lt (Nat.lt_of_le_of_lt (Nat.div_le_self _ _) x.isLt)]

theorem sshiftRight_eq_ofInt (x : Word) (n : Nat) : x.sshiftRight n = BitVec.ofInt 64 (x.toInt / 2 ^ n) := by
  rw [BitVec.sshiftRight, Int.shiftRight_eq_div_pow, Int.natCast_pow]
  rfl

theorem signedMin_eq (x y : Word) : (if y.slt x then y else x) = if x.toInt ≤ y.toInt then x else y := by
  by_cases h : y.toInt < x.toInt
  · rw [if_pos (BitVec.slt_iff_toInt_lt.mpr h), if_neg (Int.not_le.mpr h)]
  · rw [if_neg (mt BitVec.slt_iff_toInt_lt.mp h), if_pos (Int.not_lt.mp h)]

/-- Equal words are one word, so that it does not matter which of them is taken. -/
theorem signedMax_eq (x y : Word) : (if x.slt y then y else x) = if x.toInt ≤ y.toInt then y else x := by
  by_cases h : x.toInt < y.toInt
  · rw [if_pos (BitVec.slt_iff_toInt_lt.mpr h), if_pos (Int.le_of_lt h)]
  · rw [if_neg (mt BitVec.slt_iff_toInt_lt.mp h)]
    split
    · next hle => exact BitVec.toInt_inj.mp (Int.le_antisymm hle (Int.not_lt.mp h))
    · rfl

theorem countP_range_le (k w : Nat) : (List.range w).countP (fun i => decide (k ≤ i)) = w - k := by
  induction w with
  | zero => exact (Nat.zero_sub k).symm
  | succ w ih =>
    rw [List.range_succ, List.countP_append, ih, List.countP_singleton]
    simp only [decide_eq_true_eq]
    split <;> omega

/-- A number lies below 2^i at the positions above its highest set bit. -/
theorem leadingZeros_eq_zerosAbove (w x : Nat) : leadingZeros w x = zerosAbove w x := by
  by_cases hx : x = 0
  · have hbelow : (fun i => decide (x < 2 ^ i)) = fun i => decide (0 ≤ i) :=
      funext fun i => decide_eq_decide.mpr (by rw [hx]; exact iff_of_true (Nat.two_pow_pos i) (Nat.zero_le i))
    rw [leadingZeros, if_pos hx, zerosAbove, hbelow, countP_range_le, Nat.sub_zero]
  · have hbelow : (fun i => decide (x < 2 ^ i)) = fun i => decide (Nat.log2 x + 1 ≤ i) :=
      funext fun i => decide_eq_decide.mpr (Nat.log2_lt hx).symm
    rw [leadingZeros, if_neg hx, zerosAbove, hbelow, countP_range_le, Nat.sub_sub, Nat.add_comm]

theorem popCount_eq_countP (x : Word) : popCount 64 x.toNat = (List.range 64).countP fun i => x.getLsbD i :=
  List.countP_eq_length_filter.symm

/-- Every row of R168, in the order of the table. -/
theorem scalarRows_written {s : State} {h : Hdr} (ht : s.taken h = true) (d a b : BitVec 6) :
    ∀ e ∈ scalarRows h d a b (s.rdS a.toNat) (s.rdS b.toNat), WritesS e.1 s d.toNat e.2 := by
  have written {i : Instr} {x y : Word} (hxy : x = y) (he : exec i s = s.scalar h d x) : WritesS i s d.toNat y :=
    hxy ▸ writesS_of_scalar ht he
  simp only [scalarRows, List.forall_mem_cons]
  refine ⟨written (add_eq_ofNat _ _) rfl, written (sub_eq_ofInt _ _) rfl, written (mul_eq_ofNat _ _) rfl, written rfl rfl,
    written (congrArg (ite _ _) (div_eq_ofNat _ _)) rfl, written (congrArg (ite _ _) (mod_eq_ofNat _ _)) rfl,
    written rfl rfl, written rfl rfl, written rfl rfl,
    written (congrArg (ite _ _) (shiftLeft_eq_ofNat _ _)) rfl, written (congrArg (ite _ _) (shiftRight_eq_ofNat _ _)) rfl,
    written (sshiftRight_eq_ofInt _ _) rfl, written rfl rfl, written (signedMin_eq _ _) rfl, written (signedMax_eq _ _) rfl,
    written (congrArg (BitVec.ofNat 64) (leadingZeros_eq_zerosAbove _ _)) rfl,
    written (congrArg (BitVec.ofNat 64) (popCount_eq_countP _)) rfl, written (slea_eq_ofNat _ _) rfl, List.forall_mem_nil _⟩

/-- Settles O1: every row computes the value that the table says and writes it where it takes effect. -/
theorem scalarResults : Obligations.ScalarResults := fun _ _ d a b ht => scalarRows_written ht d a b

end Sys2Proof.Laws

/-! ## sel (R183) -/

namespace Sys2Proof.Laws

open Sys2Proof Sys2Proof.Machine Sys2Proof.Claims

/-- The guard p0 holds in every lane (R25, R39). -/
theorem rdP_ne_of_p0 (s : State) {h : Hdr} (hp : h.p = 0#3) (hn : h.n = false) (l : Nat) :
    (s.rdP h.p.toNat l != h.n) = true := by
  simp [State.rdP, hp, hn]

/-- Settles O6: sel is no suppressed write; the guard only chooses. -/
theorem selectResult : Obligations.SelectResult := by
  intro s h d a b
  have hsel : WritesV (.vsel h d a b) s d.toNat s.inMask
      fun l => if s.rdP h.p.toNat l != h.n then s.rdV a.toNat l else s.rdV b.toNat l := writesV_of_putV rfl
  refine ⟨hsel, fun hp hn => ?_⟩
  simpa only [rdP_ne_of_p0 s hp hn, if_true] using hsel

end Sys2Proof.Laws

/-! ## Vector instructions under minifloat and tapered descriptors (R174 to R180) -/

namespace Sys2Proof.Laws

open Sys2Proof Sys2Proof.Machine Sys2Proof.Claims

/-! ### A lane and its elements -/

theorem packElems_lt (c : Nat) (g : Nat → Nat) (n : Nat) : packElems c g n < 2 ^ (c * n) := by
  induction n with
  | zero => exact Nat.two_pow_pos _
  | succ n ih =>
    have hlast : g n % 2 ^ c + 1 ≤ 2 ^ c := Nat.mod_lt _ (Nat.two_pow_pos c)
    calc packElems c g n + g n % 2 ^ c * 2 ^ (c * n) < 2 ^ (c * n) + g n % 2 ^ c * 2 ^ (c * n) := Nat.add_lt_add_right ih _
      _ = (g n % 2 ^ c + 1) * 2 ^ (c * n) := by rw [Nat.add_mul, Nat.one_mul, Nat.add_comm]
      _ ≤ 2 ^ c * 2 ^ (c * n) := Nat.mul_le_mul_right _ hlast
      _ = 2 ^ (c * (n + 1)) := by rw [← Nat.pow_add, Nat.mul_succ, Nat.add_comm]

theorem packElems_element (c : Nat) (g : Nat → Nat) {n k : Nat} (hk : k < n) :
    packElems c g n / 2 ^ (c * k) % 2 ^ c = g k % 2 ^ c := by
  induction n with
  | zero => exact absurd hk (Nat.not_lt_zero k)
  | succ n ih =>
    rw [packElems]
    by_cases hkn : k = n
    · rw [hkn, Nat.add_mul_div_right _ _ (Nat.two_pow_pos _), Nat.div_eq_of_lt (packElems_lt c g n), Nat.zero_add,
        Nat.mod_mod]
    · have hlt : k < n := by omega
      obtain ⟨j, hj⟩ := Nat.exists_eq_add_of_lt hlt
      have hhigh : g n % 2 ^ c * 2 ^ (c * n) = g n % 2 ^ c * 2 ^ (c * j) * 2 ^ c * 2 ^ (c * k) := by
        rw [hj, Nat.mul_succ, Nat.mul_add, Nat.pow_add, Nat.pow_add]
        ac_rfl
      rw [hhigh, Nat.add_mul_div_right _ _ (Nat.two_pow_pos _), Nat.add_mul_mod_self_right, ih hlt]

/-- A lane built from elements holds each in its own container (R159). -/
theorem field_laneOf (c : Nat) (g : Nat → Nat) {k : Nat} (hk : k < 64 / c) : field (laneOf c g) c k = g k % 2 ^ c := by
  have hlt : packElems c g (64 / c) < 2 ^ 64 :=
    Nat.lt_of_lt_of_le (packElems_lt c g _) (Nat.pow_le_pow_right (by decide) (Nat.mul_div_le 64 c))
  rw [field, laneOf, BitVec.toNat_ofNat, Nat.mod_eq_of_lt hlt, packElems_element c g hk]

/-- A meaning that builds each active lane of its destination from elements writes those elements (R174). -/
theorem writesFields_of_laneOf {i : Instr} {s : State} {h : Hdr} {d c : Nat} {g : Nat → Nat → Nat}
    (he : exec i s = .next (s.putV d (s.active h) fun l => laneOf c (g l))) :
    WritesFields i s h d c fun l k => g l k % 2 ^ c :=
  ⟨_, writesV_of_putV he, fun _ _ _ _ hk => field_laneOf c _ hk⟩

theorem writesFields_congr {i : Instr} {s : State} {h : Hdr} {d w : Nat} {g g' : Nat → Nat → Nat}
    (hg : ∀ l k, g l k = g' l k) (hi : WritesFields i s h d w g) : WritesFields i s h d w g' := (funext fun l => funext (hg l)) ▸ hi

/-! ### The operations on one element under a minifloat or tapered descriptor -/

theorem isNan_iff {v : Val} : v.isNan = true ↔ v = .nan := by cases v <;> simp [Val.isNan]

/-- The order of R177 read from the other side. -/
theorem cmpTotal_swap (u v : Val) : (u.cmpTotal v).swap = v.cmpTotal u := by
  cases u with
  | nan => cases v with
    | nan | fin => rfl
    | inf t => cases t <;> rfl
  | inf s => cases v with
    | nan | fin => cases s <;> rfl
    | inf t => exact Nat.compare_swap _ _
  | fin s m e => cases v with
    | nan => rfl
    | inf t => cases t <;> rfl
    | fin t n f =>
      simp only [Val.cmpTotal, And.comm (a := n = 0), Int.min_comm f e]
      split
      · exact Nat.compare_swap _ _
      · exact Int.compare_swap _ _

theorem cmpTotal_eq_gt_iff {u v : Val} : u.cmpTotal v = .gt ↔ v.cmpTotal u = .lt := by
  rw [← cmpTotal_swap u v]
  cases u.cmpTotal v <;> simp

/-! ### The words -/

theorem not_isInt_of_real {nf : Nf} (hk : 2 ≤ nf.kind) : ¬ nf.isInt = true := by
  rw [isInt_eq, decide_eq_true_eq]
  omega

/-- The value of element k of lane l of a register under a descriptor. -/
def elemValue (s : State) (nf : Nf) (q : BitVec 6) (l k : Nat) : Val := decodeElem nf (field (s.rdV q.toNat l) nf.cont k)

/-- A typed word whose elements a function of the values of a, b and d gives; a word of one source reads any b. -/
def TypedAs (i : Instr) (s : State) (h : Hdr) (f : BitVec 2) (d a b : BitVec 6) (nf : Nf)
    (r : Val → Val → Val → Nat) : Prop :=
  ∃ op, exec i s = s.typed h f acceptsArith d a b op ∧
    ∀ x y z, op nf x y z = r (decodeElem nf x) (decodeElem nf y) (decodeElem nf z)

theorem writesFields_of_typedAs {i : Instr} {s : State} {h : Hdr} {f : BitVec 2} {d a b : BitVec 6} {nf : Nf}
    {r : Val → Val → Val → Nat} (hi : TypedAs i s h f d a b nf r) (hv : nfValid (s.rdNf f.toNat) = true)
    (hnf : nfOf (s.rdNf f.toNat) = nf) (hk : 2 ≤ nf.kind) (hk3 : nf.kind ≤ 3) (ht : s.taken h = true) :
    WritesFields i s h d.toNat nf.cont fun l k =>
      r (elemValue s nf a l k) (elemValue s nf b l k) (elemValue s nf d l k) % 2 ^ nf.cont := by
  subst hnf
  obtain ⟨op, he, hop⟩ := hi
  have hval (q : BitVec 6) (l k : Nat) := decodeElem_elemOf hv hk hk3 (s.rdV q.toNat l) k
  have hput := writesFields_of_laneOf
    (he.trans ((if_neg (by simp [ht])).trans (if_neg (by simp [acceptsArith, hk3]))))
  simpa only [hop, hval, elemValue] using hput

/-- The result of `amin`, for the order lt, and of `amax`, for gt (R177; log 34). -/
def aminmax (nf : Nf) (o : Ordering) (x y z : Val) : Nat :=
  let u := sumVals nf.rnd [x, y]
  if z = .nan ∨ u = .nan then roundVal nf .nan else if u.cmpTotal z = o then roundVal nf u else roundSel nf z

section
variable (s : State) (h : Hdr) (f : BitVec 2) (d a b : BitVec 6) {nf : Nf} (hk : 2 ≤ nf.kind)
include hk

theorem realRows_typedAs :
    ∀ e ∈ realRows h f d a b nf.rnd, TypedAs e.1 s h f d a b nf fun x y z => roundVal nf (e.2 x y z) := by
  have hint := not_isInt_of_real hk
  simp only [realRows, List.forall_mem_cons]
  exact ⟨⟨addElem, rfl, fun _ _ _ => if_neg hint⟩, ⟨subElem, rfl, fun _ _ _ => if_neg hint⟩,
    ⟨mulElem, rfl, fun _ _ _ => if_neg hint⟩, ⟨fmaElem, rfl, fun _ _ _ => if_neg hint⟩, List.forall_mem_nil _⟩

theorem selectRows_typedAs :
    ∀ e ∈ selectRows h f d a b, TypedAs e.1 s h f d a b nf fun x y z => roundSel nf (e.2 x y z) := by
  have hint := not_isInt_of_real hk
  simp only [selectRows, List.forall_mem_cons]
  exact ⟨⟨minElem, rfl, fun _ _ _ => if_neg hint⟩, ⟨maxElem, rfl, fun _ _ _ => if_neg hint⟩,
    ⟨clampElem, rfl, fun _ _ _ => if_neg hint⟩, ⟨absElem, rfl, fun _ _ _ => if_neg hint⟩,
    ⟨negElem, rfl, fun _ _ _ => if_neg hint⟩, List.forall_mem_nil _⟩

theorem aminmaxRows_typedAs : ∀ e ∈ [((Instr.vamin h f d a b : Instr), Ordering.lt), (.vamax h f d a b, .gt)],
    TypedAs e.1 s h f d a b nf (aminmax nf e.2) := by
  have hint := not_isInt_of_real hk
  simp only [List.forall_mem_cons]
  refine ⟨⟨aminElem, rfl, fun _ _ _ => (if_neg hint).trans ?_⟩, ⟨amaxElem, rfl, fun _ _ _ => (if_neg hint).trans ?_⟩,
    List.forall_mem_nil _⟩
  · simp only [aminmax, Bool.or_eq_true, isNan_iff]
  · simp only [aminmax, Bool.or_eq_true, isNan_iff, cmpTotal_eq_gt_iff]

theorem vrint_typedAs : TypedAs (.vrint h f d a) s h f d a b nf fun x _ _ => roundSel nf (x.integral nf.rnd) :=
  ⟨rintElem, rfl, fun _ _ _ => if_neg (not_isInt_of_real hk)⟩

end

/-! ### dp4 (R180) -/

theorem acceptsDp4_of_real {d : Word} (hv : nfValid d = true) (hk : 2 ≤ (nfOf d).kind) (hk3 : (nfOf d).kind ≤ 3)
    (hw : (nfOf d).width = 8 ∨ (nfOf d).width = 6) : acceptsDp4 (nfOf d) = true := by
  have hmini (h6 : (nfOf d).width = 6) : (nfOf d).kind = 2 := by
    have h3 : (nfOf d).kind ≠ 3 := fun h3 => by
      have := width_of_tapered hv h3
      omega
    omega
  rcases hw with hw | hw
  · simp [acceptsDp4, hk3, hw]
  · simp [acceptsDp4, hw, hmini hw]

theorem cont_eq_eight {nf : Nf} (hw : nf.width = 8 ∨ nf.width = 6) : nf.cont = 8 := by
  rcases hw with h | h <;> simp [Nf.cont, h]

/-- The format of the sums of dp4: fp32 with the descriptor's rounding, sat and ftz (R180; log 54). -/
def dp4Format (nf : Nf) : Nf := { fp32 with rnd := nf.rnd, sat := nf.sat, ftz := nf.ftz }

theorem dp4Half_real {d : Word} (hv : nfValid d = true) (hk : 2 ≤ (nfOf d).kind) (hk3 : (nfOf d).kind ≤ 3)
    (hw : (nfOf d).width = 8 ∨ (nfOf d).width = 6) (x y z : Word) (k : Nat) :
    let nf := nfOf d
    dp4Half nf x y z k = roundVal (dp4Format nf) (sumVals nf.rnd (decodeElem (dp4Format nf) (field z 32 k) ::
      (List.range 4).map fun j =>
        (decodeElem nf (field x nf.cont (4 * k + j))).mul (decodeElem nf (field y nf.cont (4 * k + j))))) := by
  intro nf
  have hval (x : Word) (j : Nat) : decodeElem nf (elem x 8 j % 2 ^ nf.width) = decodeElem nf (field x nf.cont j) := by
    rw [← decodeElem_elemOf hv hk hk3, elemOf, cont_eq_eight hw]
  refine (if_neg (not_isInt_of_real hk)).trans ?_
  simp only [hval, elem_eq_field z]
  rfl

theorem writesFields_vdp4 {s : State} {h : Hdr} {f : BitVec 2} (d a b : BitVec 6) {nf : Nf}
    (hv : nfValid (s.rdNf f.toNat) = true) (hnf : nfOf (s.rdNf f.toNat) = nf) (hk : 2 ≤ nf.kind) (hk3 : nf.kind ≤ 3)
    (ht : s.taken h = true) (hw : nf.width = 8 ∨ nf.width = 6) :
    WritesFields (.vdp4 h f d a b) s h d.toNat 32 fun l k =>
      roundVal (dp4Format nf) (sumVals nf.rnd (decodeElem (dp4Format nf) (field (s.rdV d.toNat l) 32 k) ::
        (List.range 4).map fun j => (elemValue s nf a l (4 * k + j)).mul (elemValue s nf b l (4 * k + j)))) % 2 ^ 32 := by
  subst hnf
  have hput : exec (.vdp4 h f d a b) s = .next (s.putV d.toNat (s.active h) fun l => laneOf 32 fun k =>
      dp4Half (nfOf (s.rdNf f.toNat)) (s.rdV a.toNat l) (s.rdV b.toNat l) (s.rdV d.toNat l) k) :=
    (if_neg (by simp [ht])).trans (if_neg (by simp [acceptsDp4_of_real hv hk hk3 hw]))
  simpa only [dp4Half_real hv hk hk3 hw, elemValue] using writesFields_of_laneOf hput

/-- Settles O4: a typed word writes what its operation on the elements' values gives; dp4 adds up in its own format. -/
theorem realVectorResults : Obligations.RealVectorResults := by
  intro s h f d a b nf hv hnf hk hk3 ht x y z
  refine ⟨fun e he => writesFields_of_typedAs (realRows_typedAs s h f d a b hk e he) hv hnf hk hk3 ht,
    fun e he => writesFields_of_typedAs (selectRows_typedAs s h f d a b hk e he) hv hnf hk hk3 ht,
    fun e he => writesFields_of_typedAs (aminmaxRows_typedAs s h f d a b hk e he) hv hnf hk hk3 ht,
    writesFields_vdp4 d a b hv hnf hk hk3 ht, ?_⟩
  refine writesFields_congr (fun l k => congrArg (· % 2 ^ nf.cont) ?_)
    (writesFields_of_typedAs (vrint_typedAs s h f d a b hk) hv hnf hk hk3 ht)
  show roundSel nf ((x l k).integral nf.rnd) = _
  cases x l k <;> rfl

end Sys2Proof.Laws

/-! ## Writes of a core inside a line (R134, R264) -/

namespace Sys2Proof.Laws

open Sys2Proof Sys2Proof.Machine Sys2Proof.Claims

/-! ### Bytes put into a line -/

theorem find?_put {α : Type} (t : Tab α) (k j : Nat) (a : α) :
    (Tab.put t k a).find? (fun e => e.1 == j) = if j = k then some (k, a) else t.find? fun e => e.1 == j := by
  have hkey (t : Tab α) (hj : j ≠ k) : ((k, a) :: t).find? (fun e => e.1 == j) = t.find? fun e => e.1 == j :=
    List.find?_cons_of_neg (by simpa using Ne.symm hj)
  induction t with
  | nil =>
    by_cases hj : j = k
    · simp [Tab.put, hj]
    · rw [if_neg hj, Tab.put, hkey [] hj]
  | cons e t ih =>
    obtain ⟨i, b⟩ := e
    unfold Tab.put
    by_cases hj : j = k
    · rw [if_pos hj] at ih ⊢
      split
      · next hlt => rw [List.find?_cons_of_neg (by simp; omega), ih]
      · simp [hj]
    · rw [if_neg hj] at ih ⊢
      split
      · rw [List.find?_cons, List.find?_cons, ih]
      · rw [hkey _ hj]
        split
        · next hi => rw [List.find?_cons_of_neg (by simp; omega)]
        · rfl

theorem find?_put_cells {α : Type} (v : Byte → α) (t : Tab α) (p : Nat) (bs : List Byte) (j : Nat) :
    ((cellsAt p bs).foldl (fun t e => Tab.put t e.1 (v e.2)) t).find? (fun e => e.1 == j) =
      if p ≤ j ∧ j < p + bs.length then some (j, v (bs.getD (j - p) 0#8)) else t.find? fun e => e.1 == j := by
  induction bs generalizing p t with
  | nil => exact (if_neg (by simp only [List.length_nil]; omega)).symm
  | cons b bs ih =>
    rw [cellsAt, List.foldl_cons, ih, find?_put, List.length_cons]
    by_cases hj : j = p
    · subst hj
      rw [if_neg (by omega), if_pos rfl, if_pos (by omega), Nat.sub_self, List.getD_cons_zero]
    · rw [if_neg hj]
      by_cases hin : p + 1 ≤ j ∧ j < p + 1 + bs.length
      · rw [if_pos hin, if_pos (by omega)]
        obtain ⟨m, rfl⟩ : ∃ m, j = p + 1 + m := ⟨j - (p + 1), by omega⟩
        rw [show p + 1 + m - p = m + 1 by omega, show p + 1 + m - (p + 1) = m by omega, List.getD_cons_succ]
      · rw [if_neg hin, if_neg (by omega)]

theorem l1Find_l1Put (s : State) (c : Nat) (l : Line) (line : Nat) :
    ((s.l1Put c l).core c).l1Find line = if l.line = line then some l else (s.core c).l1Find line := by
  have hl1 : ((s.l1Put c l).core c).l1 = l :: (s.core c).l1.filter fun x => !(x.line == l.line) :=
    congrArg Core.l1 (State.core_setCore_self s c _)
  unfold Core.l1Find
  rw [hl1]
  by_cases h : l.line = line
  · rw [if_pos h, List.find?_cons_of_pos (by simpa using h)]
  · rw [if_neg h, List.find?_cons_of_neg (by simpa using h), List.find?_filter]
    congr 1
    funext x
    by_cases hx : x.line = line
    · simp [hx, Ne.symm h]
    · simp [hx]

theorem coreByte_l1Put (s : State) (c : Nat) (l : Line) (a : Nat) :
    coreByte (s.l1Put c l) c a = if a / 128 = l.line then lineByte s.mem l a else coreByte s c a := by
  have hfind := l1Find_l1Put s c l (a / 128)
  by_cases ha : a / 128 = l.line
  · rw [if_pos ha.symm] at hfind
    rw [if_pos ha, coreByte_of_find.1 l hfind]
    rfl
  · rw [if_neg (Ne.symm ha)] at hfind
    rw [if_neg ha]
    cases hf : (s.core c).l1Find (a / 128) with
    | none => rw [coreByte_of_find.2 hf, coreByte_of_find.2 (hfind.trans hf)]; rfl
    | some x => rw [coreByte_of_find.1 x hf, coreByte_of_find.1 x (hfind.trans hf)]; rfl

/-- What a core writes into a line that it holds, or begins (R264). -/
theorem lineByte_put {m : Memory} {l k : Line} {p : Nat} {bs : List Byte} {dirty : Bool}
    (hk : k.bytes = (cellsAt (p % 128) bs).foldl (fun t e => Tab.put t e.1 (e.2, dirty)) l.bytes) {a : Nat}
    (ha : a / 128 = p / 128) :
    lineByte m k a = if p ≤ a ∧ a < p + bs.length then bs.getD (a - p) 0#8 else lineByte m l a := by
  have hrange : (p % 128 ≤ a % 128 ∧ a % 128 < p % 128 + bs.length) ↔ p ≤ a ∧ a < p + bs.length := by omega
  unfold lineByte
  rw [hk, find?_put_cells (fun b => (b, dirty))]
  by_cases h : p ≤ a ∧ a < p + bs.length
  · rw [if_pos (hrange.mpr h), if_pos h, show a - p = a % 128 - p % 128 by omega]
  · rw [if_neg (mt hrange.mp h), if_neg h]

/-- From s to t a core has written bytes at p: it sees them, and everything else as before; a byte at home changes, if at
all, to what the core held or holds. -/
structure WriteStep (s t : State) (c p : Nat) (bs : List Byte) : Prop where
  home : HomeStep s t
  view : ∀ a, coreByte t c a = if p ≤ a ∧ a < p + bs.length then bs.getD (a - p) 0#8 else coreByte s c a
  mem : ∀ a, t.mem.byte a = s.mem.byte a ∨ t.mem.byte a = coreByte s c a ∨ t.mem.byte a = coreByte t c a

theorem ReadStep.writeStep {s u t : State} {c p : Nat} {bs : List Byte} (h : ReadStep s u c) (g : WriteStep u t c p bs) :
    WriteStep s t c p bs := by
  refine ⟨h.home.trans g.home, fun a => ?_, fun a => ?_⟩
  · rw [g.view, (h.view a).1]
  · obtain ⟨hview, hmem⟩ := h.view a
    rcases g.mem a with gmem | gmem | gmem
    · rw [gmem]
      exact hmem.imp_right .inl
    · exact .inr (.inl (gmem.trans hview))
    · exact .inr (.inr gmem)

/-- A core writes into its copy of a line, which takes its place in the L1 (R264). -/
theorem writeStep_l1Put {s : State} {c p : Nat} {bs : List Byte} (ho : OrderedL1 s c) {l : Line}
    {dirty : Bool} (hp : p < 2 ^ 64) (hin : p % 128 + bs.length ≤ 128) (hl : l.line = p / 128)
    (hbytes : l.bytes =
      (cellsAt (p % 128) bs).foldl (fun t e => Tab.put t e.1 (e.2, dirty)) (heldLine s c (p / 128)).bytes) :
    WriteStep s (s.l1Put c l) c p bs := by
  obtain ⟨-, -, hseen⟩ := heldLine_spec ho (line := p / 128) (by omega)
  refine ⟨homeStep_setCore s c _, fun a => ?_, fun a => .inl rfl⟩
  rw [coreByte_l1Put, hl]
  split
  · next ha => rw [lineByte_put hbytes ha, hseen a ha]
  · next ha => rw [if_neg (by omega)]

section
variable {s : State} {c p : Nat} {bs : List Byte} (hq : QuietHome s) (ho : OrderedL1 s c)
include hq ho

/-- A core without ways writes at the home (R134). -/
theorem writeStep_homeWrite (hways : (s.core c).carve.ways = 0) (hp : p + bs.length ≤ 2 ^ 64) :
    WriteStep s (s.homeWrite p bs) c p bs := by
  obtain ⟨-, -, hholders, hwindows, -, -⟩ := hq
  obtain ⟨-, -, hnil, -⟩ := ho
  have hframe : (s.homeWrite p bs).core c = s.core c := by
    rw [homeWrite_rest s p bs hholders hwindows, applyCells_frame]
    rfl
  have hview {u : State} (hu : u.core c = s.core c) (a : Nat) : coreByte u c a = u.mem.byte a :=
    coreByte_of_find.2 (by unfold Core.l1Find; rw [hu, hnil hways]; rfl)
  refine ⟨homeStep_homeWrite s p bs, fun a => ?_, fun a => .inr (.inr (hview hframe a).symm)⟩
  rw [hview hframe, hview rfl, homeWrite_byte s p bs hholders hwindows hp]

theorem writeStep_l1Write (hp : p + bs.length ≤ 2 ^ 64) (hlen : 0 < bs.length) (hin : p % 128 + bs.length ≤ 128) :
    WriteStep s (s.l1Write c true p bs) c p bs := by
  have hu := readStep_demand hq ho (p / 128)
  unfold State.l1Write
  simp only [lineOf, sendPartials_none hu.ordered]
  generalize s.demand c (p / 128) = u at hu ⊢
  by_cases hways : (u.core c).carve.ways = 0
  · have hno : (u.core c).noWays = true := by simp [Core.noWays, hways]
    simp only [hno, if_true]
    exact hu.writeStep (writeStep_homeWrite hu.quiet hu.ordered hways hp)
  · have hno : (u.core c).noWays = false := by simp [Core.noWays, hways]
    simp only [hno, Bool.false_eq_true, if_false]
    have hv := hu.trans (readStep_allocWay hu.quiet hu.ordered (p / 128))
    obtain ⟨-, hline, -⟩ := heldLine_spec hv.ordered (line := p / 128) (by omega)
    exact hv.writeStep (writeStep_l1Put hv.ordered (by omega) hin hline rfl)

end

end Sys2Proof.Laws

/-! ## sld, sst and bufld (R172, R173) -/

namespace Sys2Proof.Laws

open Sys2Proof Sys2Proof.Machine Sys2Proof.Claims

/-! ### The checks of a uniform access (R172, R258) -/

theorem checkLanes_misaligned (s : State) (kind : Kind) {va : Nat} (ha : va % 8 ≠ 0) :
    s.checkLanes .g kind 8 8 [(0, va)] = .error ⟨.align, va, 0#16⟩ := by
  have hfirst : firstLane [(0, va)] (fun a => a % 8 != 0) = some va := by simp [firstLane, ha]
  unfold State.checkLanes
  rw [hfirst]

theorem readUniform_misaligned (s : State) {va : Nat} (ha : va % 8 ≠ 0) :
    s.readUniform va 8 = .error (.fault ⟨.align, va, 0#16⟩) := by
  unfold State.readUniform State.loadLanes
  simp only [Nat.min_self, checkLanes_misaligned s .read ha]

theorem writeUniform_misaligned (s : State) {va : Nat} (ha : va % 8 ≠ 0) {bs : List Byte} (hbs : bs.length = 8) :
    s.writeUniform va bs = .error ⟨.align, va, 0#16⟩ := by
  unfold State.writeUniform
  simp only [hbs, Nat.min_self, checkLanes_misaligned s .write ha]

/-- A write of the warp that reaches memory through the TLB passes every check, and copies no piece where its launch takes
no snapshot (R258, R409). -/
theorem checkLanes_uniform_write {s : State} {va p : Nat} (ha : va % 8 = 0) (hr : ReachesByTlb s .write va 8 p)
    (hwatch : (s.block s.myBlock).watch = []) (hsnap : s.myLaunch.record.snap = false) :
    s.checkLanes .g .write 8 8 [(0, va)] = .ok (s, [(0, .global p)]) := by
  obtain ⟨e, hfind, hphys, -, -⟩ := hr
  have haligned : firstLane [(0, va)] (fun a => a % 8 != 0) = none := by simp [firstLane, ha]
  have hnopiece : s.snapBefore (s.block s.myBlock).launch va e = s :=
    if_neg fun h => Bool.false_ne_true (hsnap.symm.trans h.2)
  have hxlate : s.xlateLanes .write [(0, va)] = .ok (s, [(0, p)]) := by
    have htranslate : s.translate s.here s.myCtx va .write = .ok s e := by
      unfold State.translate
      rw [hfind]
    simp only [State.xlateLanes, htranslate, Kind.writes, if_true, hnopiece, hphys]
  have hnowatch : s.watched false true va 8 = none := by
    unfold State.watched
    rw [hwatch]
    exact ite_self _
  have hnone : ([(0, va)].filterMap fun e : Nat × Nat =>
      s.watched (decide (Kind.write ≠ .write)) Kind.write.writes e.2 8) = [] :=
    List.filterMap_eq_nil_iff.mpr fun x hx => by rw [List.mem_singleton.mp hx]; exact hnowatch
  unfold State.checkLanes
  simp only [haligned, hxlate, hnone]
  rfl

/-! ### Uniform reads and writes -/

section
variable {s : State} {va p : Nat} (hq : QuietHome s) (ho : OrderedL1 s s.here) (hwatch : (s.block s.myBlock).watch = [])
include hq ho hwatch

theorem readUniform_global (hu : Unpoisoned s) (ha : va % 8 = 0) (hr : ReachesByTlb s .read va 8 p) :
    ∃ t, s.readUniform va 8 = .ok (t, seenBytes s s.here p 8) ∧ ReadStep s t s.here := by
  have hlanes : ∃ t, s.loadLanes .g 8 8 true [(0, va)] = .ok (t, [(0, seenBytes s s.here p 8)]) ∧ ReadStep s t s.here :=
    loadLanes_global (ls := [0]) (a := fun _ => va) (p := fun _ => p) (fun _ _ => ⟨ha, hr⟩) hq ho hwatch hu (by decide)
  obtain ⟨t, hload, ht⟩ := hlanes
  refine ⟨t, ?_, ht⟩
  unfold State.readUniform
  simp only [Nat.min_self, hload]
  rfl

theorem writeUniform_global (hrel : s.cw.rel = []) (hreplay : (s.block s.myBlock).replay = false)
    (haudit : s.myLaunch.record.audit = false) (hsnap : s.myLaunch.record.snap = false) (ha : va % 8 = 0)
    (hr : ReachesByTlb s .write va 8 p) {bs : List Byte} (hbs : bs.length = 8) :
    ∃ t, s.writeUniform va bs = .ok t ∧ WriteStep s t s.here p bs := by
  have hplace : p + bs.length ≤ 2 ^ 64 ∧ p % 128 + bs.length ≤ 128 := by
    obtain ⟨-, -, -, hp, hpn⟩ := hr
    omega
  have hwrite : s.writeUniform va bs = .ok (s.l1Write s.here true p bs) := by
    unfold State.writeUniform
    simp only [hbs, Nat.min_self, checkLanes_uniform_write ha hr hwatch hsnap, beginRelease_none hrel, List.foldl_cons,
      List.foldl_nil, sign_unaudited haudit, List.head?_nil, State.writePlace, hreplay]
    rfl
  exact ⟨_, hwrite, writeStep_l1Write hq ho hplace.1 (by omega) hplace.2⟩

end

/-! ### The words (R172, R173) -/

/-- What a uniform load leaves: a word of memory in `S[d]`, and the core's view of memory as it was. -/
def LoadsWord (s : State) (e : Instr) (d p : Nat) : Prop :=
  ∃ t, exec e s = .next t ∧ SameGlobal s t s.here ∧
    (∀ q, sReg t q = if q = d then loadedWord 8 (fun b => coreByte s s.here (p + b)) 0 else sReg s q) ∧
    t.cw.regs.v = s.cw.regs.v ∧ t.cw.regs.p = s.cw.regs.p ∧ t.cw.regs.nf = s.cw.regs.nf

/-- A meaning that ends in the write of a word that the core has read from p. -/
theorem loadsWord_of_putS {s u : State} {e : Instr} {d p : Nat} (hu : ReadStep s u s.here)
    (he : exec e s = .next (u.putS d (BitVec.ofNat 64 (leNat (seenBytes s s.here p 8))))) : LoadsWord s e d p := by
  have hcw : u.cw = s.cw := by
    unfold State.cw State.warp
    rw [hu.home.cur, hu.home.warps]
  refine ⟨_, he, sameGlobal_of_core hu.view rfl rfl, fun q => ?_, ?_, ?_, ?_⟩
  · rw [← ofNat_leNat_seenBytes s s.here p (by decide)]
    simp [sReg, State.putS, Warp.putS, Tab.get_put, hcw]
  all_goals simp [State.putS, Warp.putS, hcw]

/-- The index of a word in the pool (R173). -/
def poolIndex (s : State) (x i : BitVec 6) : Nat := (s.rdS x.toNat + BitVec.ofInt 64 (immediate s.mic.pfx i)).toNat

theorem poolIndex_eq (s : State) (x i : BitVec 6) : (s.rdS x.toNat + wordOfInt (s.imm i)).toNat = poolIndex s x i := by
  rw [imm_eq_immediate]
  rfl

section
variable {s : State} {h : Hdr} (ht : s.taken h = true) {d x : BitVec 6} {k : BitVec 3}
include ht

theorem exec_sld_error {e : MemStop} (hr : s.readUniform (s.scalarAddr x k) 8 = .error e) :
    exec (.sld h d x k) s = .next (s.memStop e) := (if_pos ht).trans (by rw [hr])

theorem exec_sld_ok {u : State} {bs : List Byte} (hr : s.readUniform (s.scalarAddr x k) 8 = .ok (u, bs)) :
    exec (.sld h d x k) s = .next (u.putS d.toNat (BitVec.ofNat 64 (leNat bs))) := (if_pos ht).trans (by rw [hr])

theorem exec_sst_error {f : MemFault} (hw : s.writeUniform (s.scalarAddr x k) (leBytes (s.rdS d.toNat).toNat 8) = .error f) :
    exec (.sst h d x k) s = .next (s.memTrap f) := (if_pos ht).trans (by rw [hw])

theorem exec_sst_ok {u : State} (hw : s.writeUniform (s.scalarAddr x k) (leBytes (s.rdS d.toNat).toNat 8) = .ok u) :
    exec (.sst h d x k) s = .next u := (if_pos ht).trans (by rw [hw])

theorem exec_bufld_beyond {i : BitVec 6} (hj : s.myLaunch.record.poolwords ≤ poolIndex s x i) :
    exec (.bufld h d x i) s = .next (s.trap .bounds (BitVec.ofNat 64 (s.myLaunch.record.pool + 8 * poolIndex s x i))) := by
  rw [← poolIndex_eq] at hj ⊢
  exact (if_pos ht).trans (if_pos hj)

theorem exec_bufld_ok {i : BitVec 6} (hj : poolIndex s x i < s.myLaunch.record.poolwords) {u : State} {bs : List Byte}
    (hr : s.readUniform ((s.myLaunch.record.pool + 8 * poolIndex s x i) % 2 ^ 64) 8 = .ok (u, bs)) :
    exec (.bufld h d x i) s = .next (u.putS d.toNat (BitVec.ofNat 64 (leNat bs))) := by
  rw [← poolIndex_eq] at hj hr
  exact (if_pos ht).trans ((if_neg (Nat.not_le.mpr hj)).trans (by rw [hr]))

end

/-- What `sst` leaves: the core sees the word at p, and everything else as before (R264). -/
theorem exec_sst_stores {s u : State} {d : BitVec 6} {p : Nat}
    (hu : WriteStep s u s.here p (leBytes (s.rdS d.toNat).toNat 8)) (b : Nat) :
    coreByte u s.here b =
      if p ≤ b ∧ b < p + 8 then BitVec.ofNat 8 (field (s.rdS d.toNat) 8 (b - p)) else coreByte s s.here b := by
  rw [hu.view, length_leBytes]
  split
  · next hb => rw [leBytes_getD _ _ _ (by omega), ofNat_div_field]
  · rfl

/-- Settles O22: a uniform access is an access of one lane; what it does to the L1 stays inside what the core sees. -/
theorem uniformGlobalAccesses : Obligations.UniformGlobalAccesses := by
  intro s h d x i k p ht a r j loads
  refine ⟨exec_bufld_beyond ht, fun ha => ⟨exec_sld_error ht (readUniform_misaligned s ha),
    exec_sst_error ht (writeUniform_misaligned s ha (length_leBytes _ 8))⟩, fun hq ho hwatch hun => ⟨fun ha hr => ?_,
    fun hj ha hr => ?_, fun ha hr hreplay hrel haudit hsnap => ?_⟩⟩
  · obtain ⟨u, hread, hu⟩ := readUniform_global hq ho hwatch hun ha hr
    exact loadsWord_of_putS hu (exec_sld_ok ht hread)
  · obtain ⟨u, hread, hu⟩ := readUniform_global hq ho hwatch hun ha hr
    exact loadsWord_of_putS hu (exec_bufld_ok ht hj hread)
  · obtain ⟨u, hwrite, hu⟩ := writeUniform_global hq ho hwatch hrel hreplay haudit hsnap ha hr (length_leBytes _ 8)
    exact ⟨u, exec_sst_ok ht hwrite, hu.home.warps, fun b => ⟨exec_sst_stores hu b, hu.mem b⟩⟩

end Sys2Proof.Laws
